-- ==== Sys2Proof/Word.lean ====
section
/-! DEFINITION. The word types: bytes of memory and 32-bit registers (01_architecture, R15, R16). -/
namespace Sys2Proof

/-- One byte of memory, of a payload or of a descriptor. -/
abbrev Byte := BitVec 8

/-- One 32-bit register or descriptor word (R16, R78). -/
abbrev Word := BitVec 32

end Sys2Proof
end

