-- ==== Sys2Proof/Syntax.lean ====
section
/-! DEFINITION. The commands of the block: one constructor of `Instr` per row of spec/opcode_table.json, with the operands the row needs.
The table gives no operand bits; what each operand stands for is said at its constructor (log entry 1). -/
namespace Sys2Proof

/-- Who makes a register access: function 0, a VF, the management complex, a control core (R61, R92, R843). -/
inductive Fn where
  | pf
  | vf (n : Nat)
  | mgmt
  | core (c : Nat)
deriving DecidableEq, Repr

/-- Packet kinds (R581); a reserved code keeps its number. -/
inductive PKind where
  | write | readReq | readRsp | signal | semOp | diac | reduce | ack | nack | ctrlMsg | cgCancel
  | reserved (code : Nat)
deriving DecidableEq, Repr

/-- A Lumlar packet: header fields of R578, payload, trailer of R579. -/
structure Packet where
  dst : Nat
  src : Nat
  job : Nat
  tc : Nat
  vc : Nat
  epoch : Nat
  hopLimit : Nat
  kind : PKind
  group : Nat
  addr : Nat
  seqFloor : Nat
  arg : Nat
  payload : List Byte
  seq : Nat
  hcrc : Word
  crc : Word
deriving DecidableEq, Repr

/-- One physical fault of a tile while it forms group sums: bit `bit` of the group integer of output
(`row`, `col`) of the block, group `group`, is inverted by physical tile `tile`; `again` says that the
repeat of the block suffers it too (R270 to R280). -/
structure Flip where
  tile : Nat
  row : Nat
  col : Nat
  group : Nat
  bit : Nat
  again : Bool
  /-- the fault also shows in the tile known-answer test that follows a failing repeat (R280) -/
  kat : Bool
deriving DecidableEq, Repr

/-- What a cold release finds: the self-test results, the stacks and links that fail training (R742, R749). -/
structure ColdObs where
  /-- tiles that fail, as (cluster, physical tile) (R749) -/
  tileFails : List (Nat × Nat)
  /-- a failing partition that is no tile: (die, partition) (R749, R751) -/
  otherFail : Option (Nat × Nat)
  /-- the secrets read back as zero (R747, R748) -/
  secretsClear : Bool
  /-- stacks that cannot be trained (R647) -/
  stackFails : List Nat
  /-- lanes newly repaired at training: (stack, how many) (R645) -/
  laneRepairs : List (Nat × Nat)
  /-- links whose three trainings fail (R571) -/
  linkFails : List Nat
  /-- neighbour found on each link that trains: (link, ring port, device) (R572) -/
  peers : List (Nat × Nat × Nat)
deriving DecidableEq, Repr

/-- What happens on a line that patrol scrub reads (R642, R643). -/
inductive ScrubFind where
  | clean | corrected | uncorrectable
deriving DecidableEq, Repr

/-- Events that wake a unit (R757). -/
inductive WakeEv where
  | doorbell
  | lane (queue : Nat)
  | semaphore (unit bank : Nat)
  | packet (cluster : Nat)
  | management (unit : Nat)
deriving DecidableEq, Repr

/-- What a core's load or store moves: a number of bytes brought, or the bytes stored (R41 to R43). -/
inductive CoreOp where
  | load (len : Nat)
  | store (data : List Byte)
deriving DecidableEq, Repr

/-- Bytes of the access. -/
def CoreOp.len : CoreOp → Nat
  | .load n => n
  | .store d => d.length

def CoreOp.isStore : CoreOp → Bool
  | .load _ => false
  | .store _ => true

/-- Causes of an emergency power-down, in the bit order of PWR_EMERG (R775, R777). -/
inductive Emergency where
  | leak | flow | inlet | outlet | die
deriving DecidableEq, Repr

/-- The commands. `i` is the model's number of a fetched descriptor (log entry 1); `f` says who acts. -/
inductive Instr where
  -- doorbells, fetch and completion (02)
  | sqTailDb (f : Fn) (page off width value : Nat)
  | cqHeadDb (f : Fn) (page off width value : Nat)
  | ctrHeadDb (f : Fn) (ctx value : Nat)
  /-- `readOk` = false: the read of the descriptor from host memory fails (R844) -/
  | descriptorFetch (sq : Nat) (readOk : Bool)
  | descriptorAccessStart (i : Nat)
  | completionRecord (i : Nat)
  | cqCoalTimer (cq : Nat)
  -- engines
  | move (i : Nat)
  | gemm (i : Nat) (flips : List Flip)
  | vstream (i : Nat)
  | quant (i : Nat)
  | gather (i : Nat)
  | scatter (i : Nat)
  | scatterAdd (i : Nat)
  | hotLoad (i : Nat)
  | hotInvalidate (i : Nat)
  | route (i : Nat)
  | permute (i : Nat)
  | combine (i : Nat)
  | scan (i : Nat)
  | update (i : Nat)
  | openWin (i : Nat)
  | send (i : Nat)
  | verify (i : Nat)
  | parity (i : Nat)
  | topk (i : Nat)
  -- SEM descriptors
  | semAdd (i : Nat)
  | semSub (i : Nat)
  | semWaitGe (i : Nat)
  | semAcquire (i : Nat)
  | semSet (i : Nat)
  | semRead (i : Nat)
  | rseal (i : Nat)
  -- command queue
  | fence (i : Nat)
  | stepDesc (i : Nat)
  | stepClose (i : Nat)
  | plan (i : Nat)
  | dump (i : Nat)
  | parityInit (i : Nat)
  | drain (i : Nat)
  | restore (i : Nat)
  | rebuild (i : Nat)
  | rearmStart (ctx handle : Nat)
  | windowComplete (job wid : Nat) (shadow : Bool)
  -- fabric
  /-- `link` = none: the packet is injected by this device at die `die` -/
  | packetForward (die : Nat) (link : Option Nat) (p : Packet)
  | packetAgeExpiry (ix : Nat)
  | write (p : Packet)
  | readReq (p : Packet)
  | readRsp (p : Packet)
  | signal (p : Packet)
  | semOp (p : Packet)
  | diac (p : Packet)
  | dense (p : Packet)
  | sparse (p : Packet)
  | digest (p : Packet)
  | expq (p : Packet)
  | expr (p : Packet)
  | expqRetry (i : Nat)
  | sumcmp (p : Packet)
  | parityPacket (p : Packet)
  | ack (p : Packet)
  | nack (p : Packet)
  | ackSend (src : Nat)
  | cgCancel (p : Packet)
  | resendTimeout (dst seq : Nat)
  | busyResend (dst seq : Nat)
  | peerUnreachable (p : Packet)
  | creditReturnTimer (member : Nat)
  | flowEviction (src : Nat)
  | linkTrainingStart (link : Nat)
  /-- `up` says whether the attempt succeeds, with the neighbour found -/
  | linkTrainingEnd (link : Nat) (up : Bool) (peerPort peerDev : Nat)
  /-- `n` uncorrectable codewords are counted on the link within the running millisecond -/
  | linkFailed (link n : Nat)
  | linkSignalLoss (link : Nat)
  | linkState (p : Packet)
  | retrain (f : Fn) (link : Nat)
  | linkEnable (f : Fn) (link : Nat) (on : Bool)
  | join
  | admitMsg (p : Packet)
  | heartbeatSend
  | heartbeat (p : Packet)
  | memberSuspect (m : Nat)
  | managerLost
  | tGrace (m : Nat)
  | timeExchange
  | timeReq (p : Packet)
  | timeRsp (p : Packet)
  | ppsIn
  | ppsOut
  | stepDone (p : Packet)
  | fullStop (p : Packet)
  | rollback (p : Packet)
  | deltasDone (p : Packet)
  | parityStop (p : Packet)
  | resume (p : Packet)
  | rankTable (p : Packet)
  | warmNotice (p : Packet)
  | rejoin (p : Packet)
  -- waiting, power lending, Run-On
  | semWake (unit bank : Nat)
  | waiterLend (port : Nat)
  | poolOffer (c : Nat)
  | runOnFire (ctx : Nat)
  -- control cores: `v1`, `v2` are x[rs1] and x[rs2] as the core's program left them
  | semInstruction (c rd sop : Nat) (v1 v2 : Word)
  | vstab (c : Nat) (v1 v2 : Word)
  | vissue (c : Nat) (v1 : Word)
  | vwait (c rd : Nat)
  | scw (c rd : Nat) (v1 : Word)
  | scr (c rd rs1 : Nat)
  | cacheInvalidate (c addr len : Nat)
  /-- core `c` (32 to 35: management core `c` - 32) loads from a fabric address, or stores there -/
  | coreRemoteAccess (c addr : Nat) (store : CoreOp)
  -- job control and register writes with a row of their own
  | bind (f : Fn) (ctx : Nat)
  | start (f : Fn) (ctx : Nat)
  | quiesce (f : Fn) (ctx : Nat)
  | abort (f : Fn) (ctx : Nat)
  | release (f : Fn) (ctx : Nat)
  | flr (vf : Nat)
  | sqEnable (f : Fn) (sq : Nat) (v : Word)
  | sqDisable (f : Fn) (sq : Nat) (v : Word)
  | cqEnable (f : Fn) (cq : Nat) (v : Word)
  | cqDisable (f : Fn) (cq : Nat) (v : Word)
  | fetchErrClear (f : Fn) (sq : Nat)
  | ringEnable (f : Fn) (c r ctx : Nat)
  | lexHotEn (f : Fn) (n : Nat) (v : Word)
  | semBankOwnerWrite (f : Fn) (unit bank : Nat) (v : Word)
  | debugSemWrite (f : Fn) (unit index : Nat) (v : Word)
  | step0Write (f : Fn) (ctx : Nat) (v : Word)
  | arm (f : Fn) (ctx : Nat)
  | disarm (f : Fn) (ctx : Nat)
  | dbgChallenge (f : Fn)
  | submit (f : Fn) (level slot : Nat)
  | drop (f : Fn)
  | go (f : Fn) (level cluster : Nat)
  | marginRun (f : Fn) (stack : Nat) (v : Word)
  /-- the sweep found `lo` and `hi` passing steps -/
  | marginRunEnd (stack lo hi : Nat)
  | evlogSel (f : Fn) (seq : Nat)
  | fabricTimeLoRead (f : Fn)
  | calLoRead (f : Fn)
  /-- a read of `len` bytes, or a write of `data` -/
  | bar4Access (f : Fn) (off len : Nat) (data : Option (List Byte))
  | broadcastWrite (f : Fn) (off : Nat) (v : Word)
  | broadcastRead (f : Fn) (off : Nat)
  /-- `off` below 2^26 is an offset of the requester's BAR0; from 2^32 up it names a register of the requester's PCIe
  configuration space, or the role that manager firmware assigns (log entries 13 and 71) -/
  | registerWrite (f : Fn) (off : Nat) (v : Word)
  -- reset
  /-- whether VBAT has kept the calendar while 3.3 V standby was absent -/
  | powerOn (kept : Bool)
  | brownOut3v3
  | brownOut54v
  /-- the pin has been low for `ns` nanoseconds -/
  | rstL (ns : Nat)
  | wrstL (ns : Nat)
  | resetRelease
  | perst (port : Nat) (low : Bool)
  | watchdogExpiry
  | debugReset (f : Fn) (level cluster : Nat)
  | clockFailure
  | clockReturn
  | controlCoreLockup (c : Nat)
  | managementCoreLockup
  | clusterReset (c : Nat)
  | warmReset
  | coldRelease (o : ColdObs)
  | powerOnRelease
  | leakL (ns : Nat)
  | emergencyPowerDown (cause : Emergency)
  -- power, clocks, sleep
  | flowCount (pulses : Nat)
  /-- none: the thermistor input is open or shorted -/
  | thermistorRead (tin tout : Option Nat)
  /-- averages over 10 ms and 1 ms in W, peak in W, hottest die sensor in °C -/
  | slowLoop (avg10 avg1 peak die : Nat)
  | fastClamp (peak : Nat)
  | clampRelease (peak : Nat)
  | clusterSleep (c : Nat)
  | dieDeep (d : Nat)
  | ioDieLight (d : Nat)
  | ioDieDeep (d : Nat)
  | wakeEvent (e : WakeEv)
  | dieWake (d : Nat)
  -- memory controllers
  | wcFlush (line : Nat)
  /-- sweep `pass` reads the codeword at an HBM offset, or at a Diacritic address of the Diacritic region (R653) -/
  | patrolScrub (pass : Nat) (diac : Bool) (off : Nat) (found : ScrubFind)
  /-- `fails` lanes of channel `ch` fail retraining and `spares` spare lanes are left -/
  | channelRetrain (stack ch fails spares : Nat)
  | tempReport (stack temp : Nat)
  -- calendar and management
  | calendarCorrection
  | getVersion
  | getCapabilities
  | negotiateAlgorithms (p384sha384 : Bool)
  | getDigests
  | getCertificate (slot off len : Nat)
  | challenge (slot : Nat) (nonce : List Byte)
  | getMeasurements (index : Nat) (nonce : List Byte)
  | getSensorReading (id : Nat)
  | getPdr (handle : Nat)
  | setEventReceiver (eid : Nat)
  | setDateTime (seconds : Nat)
  | getFruRecordTable
  /-- a chunk of the new image at `off`; the first chunk starts an update -/
  | firmwareUpdate (first : Bool) (off : Nat) (data : List Byte)
  | verifyComplete
  | activateFirmware
  | joinReceived (p : Packet)
  | rankRecord (p : Packet)
  | p54vRestored
  | leakLDeassert
  | pcieLinkTraining (port : Nat) (up : Bool)
  | endpointId (eid : Nat)
deriving DecidableEq, Repr

end Sys2Proof
end

