-- ==== Sys2Proof/Config.lean ====
section
/-! DEFINITION. What the spec leaves to an implementation, a standard used by name, or chance: constants without a body. -/
namespace Sys2Proof.Config

/-- A free value: the `n`-th value the spec leaves open in a run; 64 bits, used modulo the width wanted
(log entry 8). -/
opaque freeValue : Nat → BitVec 64

/-- The Quaseos random source: the `n`-th 48-byte nonce drawn (R791, log entry 9). -/
opaque nonce : Nat → BitVec 384

/-- SHA-384, a standard used by name (R784, R789, R791; log entry 9). -/
opaque sha384 : List (BitVec 8) → BitVec 384

/-- ECDSA P-384 verification of a signature over a digest, a standard used by name (R784, R792; log entry 9):
key bytes, digest, signature bytes. -/
opaque ecdsaVerify : List (BitVec 8) → BitVec 384 → List (BitVec 8) → Bool

/-- ECDSA P-384 signing by a key the device holds, a standard used by name (R788, R789; log entry 9):
which key (0 DeviceID, 1 Alias), message. -/
opaque ecdsaSign : Nat → List (BitVec 8) → List (BitVec 8)

/-- Bytes that an external standard or the manufacturer fixes and the spec does not state: version answers,
certificates, descriptor records (R788, R790, R801; log entry 10). The index names which. -/
opaque standardBytes : Nat → List (BitVec 8)

/-- ARG type codes of the CTRL_MSG messages to which the spec gives none: JOIN, ADMIT, HEARTBEAT, TIME_REQ,
TIME_RSP, rank record, MEMBER_CONFLICT answer, EXPQ repeats (R581, R614 to R617; log entry 11). -/
opaque ctrlCode : Nat → Nat

/-- The share of the effective limit that a cluster gets as its allowance, in mW, from the limit in W (R768; log entry 14). -/
opaque allowance : Nat → Nat → Nat

/-- SEVERITY of an event-log record type; the spec states one for LINK_FAILED only (R806, log entry 15). -/
opaque severity : Nat → Nat

/-- SVN, COMMIT, key bytes and signature bytes of an image file; R784 names these header fields without giving
their places (log entry 21). -/
opaque imageHeader : List (BitVec 8) → Nat × Bool × List (BitVec 8) × List (BitVec 8)

/-- What a debug-authorised write at an offset of the DIAGNOSTIC block does: 1 clears the retirement store,
2 clears the repair store; the spec gives no offsets (R285, R644, log entry 17). -/
opaque diagOp : Nat → Nat

/-- First HBM offset and size in bytes of the private HBM window of a cluster's control core; R41 names the window and
no rule its place (log entry 67). -/
opaque coreWindow : Nat → Nat × Nat

/-- Whether the element of code 0b00 at a position of the INT2 group at an address is a slot that extraction emptied, where only
DATA and SCALES are read: INT2 has no zero code that could tell (R138, R218, R848; log entry 73). -/
opaque int2Slot : Nat → Nat → Bool

/-- Dither of the BF16 roundings of a stats entry under RND = 1, to which the spec gives no index: seed, tensor ID, step, row,
which rounding (R313, R325, R330, R403; log entry 8). -/
opaque statDither : Nat → Nat → Nat → Nat → Nat → BitVec 12

/-- Local address at which the management cores reach their 2 MiB of SRAM (R39, log entry 67). -/
opaque tcmBase : Nat

/-- What the registers of a table slot of another device hold: device, job, slot, number of the descriptor that names it, and
which (0 TBL_BASE, 1 TBL_SBASE, 2 TBL_ROWS, 3 TBL_TID). R342 gives no path by which they travel (log entry 35). -/
opaque peerTable : Nat → Nat → Nat → Nat → Nat → BitVec 64

/-- Whether the recipe marks the tensor of an ID of a job as a gradient, for a basic descriptor that names no recipe entry
(R165, R384; log entry 36). -/
opaque gradientTensor : Nat → Nat → Bool

/-- The dual partner that manager firmware has assigned to a home; no register of the device holds the assignment (R557, R566;
log entry 40). -/
opaque dualPartner : Nat → Nat

/-- Local address of place `k` of a context's staging area for prefetched sets, which R451 puts in HBM and nowhere else (log
entry 66). -/
opaque stagingAt : Nat → Nat → Nat

/-- The slot ring of a cluster through which the firmware stages the pieces of a context's basic GEMM (R485, R848): context,
cluster; and what a byte of its slots holds afterwards, by use and place (log entry 77). -/
opaque stagingRing : Nat → Nat → Nat
opaque slotByte : Nat → Nat → BitVec 8

end Sys2Proof.Config
end

