-- ==== Sys2Proof/Machine/Bits.lean ====
section
/-! DEFINITION. Bit fields, byte order, sorted association lists, CRC-32C, GF(2^8) and the digest modulus. -/
namespace Sys2Proof.Machine

/-- Bits `lo` to `lo + w - 1` of a number. -/
def bits (v lo w : Nat) : Nat := v / 2 ^ lo % 2 ^ w

/-- One bit as a Bool. -/
def bit (v i : Nat) : Bool := v / 2 ^ i % 2 == 1

/-- `v` with bits `lo` to `lo + w - 1` replaced by `x` (modulo 2^w). -/
def setBits (v lo w x : Nat) : Nat :=
  v % 2 ^ lo + (x % 2 ^ w) * 2 ^ lo + v / 2 ^ (lo + w) * 2 ^ (lo + w)

/-- A field of a register word. -/
def fld (v : Word) (lo w : Nat) : Nat := bits v.toNat lo w

/-- A register word with one field replaced. -/
def setFld (v : Word) (lo w x : Nat) : Word := BitVec.ofNat 32 (setBits v.toNat lo w x)

/-- Two's complement reading of the low `w` bits. -/
def signed (w v : Nat) : Int := if 2 * (v % 2 ^ w) < 2 ^ w then (v % 2 ^ w : Nat) else (v % 2 ^ w : Nat) - (2 ^ w : Nat)

/-- The low `w` bits of an integer. -/
def unsigned (w : Nat) (v : Int) : Nat := (v % (2 ^ w : Nat)).toNat

/-- `v` capped at the largest `w`-bit number. -/
def satw (w v : Nat) : Nat := min v (2 ^ w - 1)

/-- A counter field after `n` more events, saturating (R841). -/
def satAdd (w a n : Nat) : Nat := satw w (a + n)

/-- Little-endian value of bytes (R15). -/
def leNat : List Byte → Nat
  | [] => 0
  | b :: t => b.toNat + 256 * leNat t

/-- The `n` bytes of a number, little-endian (R15). -/
def leBytes : Nat → Nat → List Byte
  | 0, _ => []
  | n + 1, v => BitVec.ofNat 8 v :: leBytes n (v / 256)

/-- Words of a byte string. -/
def toWords : List Byte → List Word
  | a :: b :: c :: d :: t => BitVec.ofNat 32 (leNat [a, b, c, d]) :: toWords t
  | _ => []

def ofWords (ws : List Word) : List Byte := ws.flatMap fun w => leBytes 4 w.toNat

/-- Numeric word `k` of a list of words, 0 past its end. -/
def wd (ws : List Word) (k : Nat) : Nat := (ws.getD k 0#32).toNat

/-- `n` bytes at offset `o` of a byte string, zeros past its end. -/
def slice (bs : List Byte) (o n : Nat) : List Byte :=
  let t := (bs.drop o).take n
  t ++ List.replicate (n - t.length) 0#8

/-- Little-endian field of `n` bytes at offset `o`. -/
def leAt (bs : List Byte) (o n : Nat) : Nat := leNat ((bs.drop o).take n)

/-- Smallest multiple count: ⌈a / b⌉. -/
def cdiv (a b : Nat) : Nat := (a + b - 1) / b

def padTo (n : Nat) (bs : List Byte) : List Byte := bs ++ List.replicate (n - bs.length) 0#8

/-- Consecutive pieces of `n` elements (structural on fuel). -/
def piecesF {α : Type} (n : Nat) : Nat → List α → List (List α)
  | 0, _ => []
  | f + 1, l => if l.isEmpty then [] else l.take n :: piecesF n f (l.drop n)

def pieces {α : Type} (n : Nat) (l : List α) : List (List α) := piecesF n l.length l

/-- The `k` numbers from `a` up. -/
def upto (a k : Nat) : List Nat := (List.range k).map (a + ·)

/-! Sorted association lists keyed by Nat. `sget d l k` is the entry of `k`, or `d`. -/

def sget {β : Type} (d : β) : List (Nat × β) → Nat → β
  | [], _ => d
  | (k', v) :: t, k => if k' = k then v else sget d t k

/-- Write an entry, keeping keys rising. -/
def sput {β : Type} (k : Nat) (v : β) : List (Nat × β) → List (Nat × β)
  | [] => [(k, v)]
  | (k', v') :: t =>
    if k < k' then (k, v) :: (k', v') :: t
    else if k = k' then (k, v) :: t
    else (k', v') :: sput k v t

/-- Remove an entry. -/
def sdel {β : Type} (k : Nat) : List (Nat × β) → List (Nat × β)
  | [] => []
  | (k', v') :: t => if k = k' then t else (k', v') :: sdel k t

/-- Write an entry of a list in which the value `d` is never listed. -/
def sset {β : Type} [DecidableEq β] (d : β) (k : Nat) (v : β) (l : List (Nat × β)) : List (Nat × β) :=
  if v = d then sdel k l else sput k v l

/-- Keys strictly rising above `lo`, and no entry equal to `d`. -/
def swfFrom {β : Type} [DecidableEq β] (d : β) : Option Nat → List (Nat × β) → Bool
  | _, [] => true
  | lo, (k, v) :: t => (match lo with | none => true | some b => decide (b < k)) && decide (v ≠ d) && swfFrom d (some k) t

def swf {β : Type} [DecidableEq β] (d : β) (l : List (Nat × β)) : Bool := swfFrom d none l

/-- A number added to a sorted list of numbers, once. -/
def insNat (k : Nat) : List Nat → List Nat
  | [] => [k]
  | a :: t => if k < a then k :: a :: t else if k = a then a :: t else a :: insNat k t

/-- The list with its `k`-th element changed by `f`. -/
def modNth {α : Type} (f : α → α) : Nat → List α → List α
  | _, [] => []
  | 0, a :: t => f a :: t
  | k + 1, a :: t => a :: modNth f k t

/-! CRC-32C: polynomial 0x1EDC6F41, reflected, initial value and final XOR all ones (R573, R652). -/

def crcBit (c : Nat) : Nat := if c % 2 = 1 then (c / 2) ^^^ 0x82F63B78 else c / 2

def crcByte (c : Nat) (b : Byte) : Nat :=
  let c := c ^^^ b.toNat
  crcBit (crcBit (crcBit (crcBit (crcBit (crcBit (crcBit (crcBit c)))))))

def crc32c (bs : List Byte) : Word := BitVec.ofNat 32 (bs.foldl crcByte 0xFFFFFFFF ^^^ 0xFFFFFFFF)

/-! GF(2^8) over 0x11D (R559, R696). -/

def gfDouble (a : Nat) : Nat := if a < 128 then 2 * a else (2 * a) ^^^ 0x11D

/-- Product of two field elements, bit by bit of `b` from bit 7. -/
def gfMul (a b : Nat) : Nat :=
  [7, 6, 5, 4, 3, 2, 1, 0].foldl (fun acc i => gfDouble acc ^^^ (if bit b i then a else 0)) 0

def gfPow (a : Nat) : Nat → Nat
  | 0 => 1
  | n + 1 => gfMul a (gfPow a n)

/-- Inverse of a non-zero element: its 254th power. -/
def gfInv (a : Nat) : Nat := gfPow a 254

def xorBytes (a b : List Byte) : List Byte := List.zipWith (· ^^^ ·) a b

/-- Modulus of the Agreement digest and of STATE_DIGEST (R552, R676). -/
def mersenne61 : Nat := 2 ^ 61 - 1

end Sys2Proof.Machine
end

