-- ==== Sys2Proof/Machine/RegMap.lean ====
section
/-! DEFINITION. The register map of function 0's BAR0 (R122): every register of the spec with its fields, access codes, reset values and writers. -/
namespace Sys2Proof.Machine

/-- Access codes of R16; `ctr` is the RW1C counter field of R841. -/
inductive Acc where
  | ro | rw | rw1c | ctr | wo | rwl
deriving DecidableEq, Repr

/-- Who may write a register, beside the access codes: `pf` function 0 or the management complex; `pfFB` the
same, in FREE or BOUND only; `fb` anyone, in FREE or BOUND; `mgmt` the management complex; `hw` nobody;
`dbg` a debugger of level 1 (R511); `owner` per R460; the `Off` kinds hold while an enable bit is 0;
`tbl` a table slot (R336). -/
inductive Writer where
  | any | pf | pfFB | fb | mgmt | hw | dbg | owner | ringOff | lexOff | sqOff | cqOff | tbl
deriving DecidableEq, Repr

structure Field where
  lo : Nat
  w : Nat
  acc : Acc
  reset : Nat
deriving DecidableEq, Repr

/-- A register, or an array of them: `dims` lists (stride, count), outermost first. -/
structure RegRow where
  name : String
  base : Nat
  dims : List (Nat × Nat)
  writer : Writer
  fields : List Field
deriving DecidableEq, Repr

/-- Offset `d` above the base is an element of the array. -/
def inDims : List (Nat × Nat) → Nat → Bool
  | [], d => d == 0
  | (st, n) :: t, d => decide (d / st < n) && inDims t (d % st)

def RegRow.hit (r : RegRow) (off : Nat) : Bool := decide (r.base ≤ off) && inDims r.dims (off - r.base)

def RegRow.resetWord (r : RegRow) : Word :=
  BitVec.ofNat 32 (r.fields.foldl (fun a f => a + f.reset % 2 ^ f.w * 2 ^ f.lo) 0)

/-- GLOBAL block. -/
def globalRows : List RegRow := [
  ⟨"DEV_IDENT", 0x0, [], .hw, [⟨0, 4, .ro, 0⟩, ⟨4, 4, .ro, 0⟩, ⟨8, 4, .ro, 0⟩, ⟨16, 8, .ro, 0⟩, ⟨24, 8, .ro, 148⟩]⟩,
  ⟨"DEV_CAPACITY", 0x10, [], .hw, [⟨0, 9, .ro, 0⟩, ⟨9, 6, .ro, 0⟩, ⟨16, 6, .ro, 0⟩, ⟨24, 4, .ro, 0⟩, ⟨28, 4, .ro, 0⟩]⟩,
  ⟨"GLOBAL_STATUS", 0x20, [], .any, [⟨0, 1, .ro, 0⟩, ⟨1, 1, .ro, 0⟩, ⟨2, 1, .rw1c, 0⟩, ⟨3, 1, .rw1c, 0⟩, ⟨4, 1, .rw1c, 0⟩, ⟨16, 9, .ro, 0⟩]⟩,
  ⟨"INTERJ_ALLOW", 0x40, [], .mgmt, [⟨0, 1, .rw, 0⟩]⟩,
  ⟨"BCAST_GROUP_CLUSTERS", 0x100, [], .any, [⟨0, 32, .rw, 0⟩]⟩,
  ⟨"BCAST_GROUP_STACKS_TILES", 0x104, [], .any, [⟨0, 12, .rw, 0⟩, ⟨12, 9, .rw, 0⟩]⟩,
  ⟨"BCAST_GROUP_LINKS_LO", 0x108, [], .any, [⟨0, 32, .rw, 0⟩]⟩,
  ⟨"BCAST_GROUP_LINKS_HI", 0x10C, [], .any, [⟨0, 32, .rw, 0⟩]⟩]

/-- RESET/CLOCK block. -/
def resetRows : List RegRow := [
  ⟨"RST_CTL", 0x0, [], .pf, [⟨0, 2, .rw, 0⟩, ⟨2, 5, .rw, 0⟩, ⟨8, 1, .wo, 0⟩, ⟨9, 1, .rw1c, 0⟩]⟩,
  ⟨"RST_CAUSE", 0x4, [], .hw, [⟨0, 4, .ro, 0⟩, ⟨4, 2, .ro, 3⟩, ⟨8, 16, .ro, 0⟩]⟩,
  ⟨"WDT_CFG", 0x10, [], .mgmt, [⟨0, 14, .rw, 1000⟩, ⟨16, 1, .rw, 0⟩]⟩,
  ⟨"ST_RESULT", 0x20, [], .hw, [⟨0, 1, .ro, 0⟩, ⟨1, 1, .ro, 0⟩, ⟨2, 1, .ro, 0⟩, ⟨4, 3, .ro, 0⟩, ⟨8, 8, .ro, 0⟩, ⟨16, 9, .ro, 0⟩]⟩,
  ⟨"CAL_STATUS", 0x48, [], .hw, [⟨0, 1, .ro, 0⟩, ⟨1, 1, .ro, 0⟩]⟩,
  ⟨"EVLOG_SEL", 0x108, [], .any, [⟨0, 32, .rw, 0⟩]⟩,
  ⟨"EVLOG_DATA", 0x120, [(4, 8)], .hw, [⟨0, 32, .ro, 0⟩]⟩]

/-- POWER/THERMAL block. -/
def powerRows : List RegRow := [
  ⟨"PWR_LIMIT", 0x0, [], .pf, [⟨0, 12, .rw, 2250⟩]⟩,
  ⟨"PWR_BASE", 0x4, [], .mgmt, [⟨0, 12, .rw, 2250⟩]⟩,
  ⟨"PWR_GRANT", 0x8, [], .hw, [⟨0, 12, .ro, 2250⟩]⟩,
  ⟨"PWR_EFFECTIVE", 0xC, [], .hw, [⟨0, 12, .ro, 2250⟩, ⟨12, 3, .ro, 0⟩]⟩,
  ⟨"PWR_INPUT", 0x10, [], .hw, [⟨0, 12, .ro, 0⟩, ⟨16, 12, .ro, 0⟩]⟩,
  ⟨"CCLK_STATUS", 0x14, [], .hw, [⟨0, 11, .ro, 0⟩, ⟨11, 2, .ro, 0⟩]⟩,
  ⟨"PWR_CLAMP_COUNT", 0x18, [], .any, [⟨0, 32, .ctr, 0⟩]⟩,
  ⟨"COOL_STATUS", 0x20, [], .hw, [⟨0, 12, .ro, 0⟩, ⟨16, 8, .ro, 0⟩, ⟨24, 8, .ro, 0⟩]⟩,
  ⟨"COOL_CFG", 0x24, [], .pf, [⟨0, 16, .rwl, 600⟩]⟩,
  ⟨"PWR_EMERG", 0x28, [], .any, [⟨0, 5, .rw1c, 0⟩]⟩,
  ⟨"PT_LOCK", 0x2C, [], .pf, [⟨0, 1, .rwl, 0⟩]⟩]

/-- SECURITY block. -/
def securityRows : List RegRow := [
  ⟨"DBG_REQ", 0x0, [], .pf, [⟨0, 2, .wo, 0⟩, ⟨2, 1, .wo, 0⟩, ⟨8, 1, .wo, 0⟩, ⟨9, 1, .wo, 0⟩, ⟨10, 1, .wo, 0⟩]⟩,
  ⟨"DBG_STATUS", 0x4, [], .any, [⟨0, 2, .ro, 0⟩, ⟨2, 1, .ro, 0⟩, ⟨3, 1, .rw1c, 0⟩, ⟨4, 4, .ro, 0⟩]⟩,
  ⟨"SERIAL", 0x10, [(4, 2)], .hw, [⟨0, 32, .ro, 0⟩]⟩,
  ⟨"DBG_NONCE", 0x40, [(4, 12)], .hw, [⟨0, 32, .ro, 0⟩]⟩,
  ⟨"DBG_PUBKEY", 0x80, [(4, 25)], .pf, [⟨0, 32, .wo, 0⟩]⟩,
  ⟨"DBG_SIG", 0x100, [(4, 24)], .pf, [⟨0, 32, .wo, 0⟩]⟩,
  ⟨"FAB_ACCESS_DENIED", 0x200, [], .any, [⟨0, 32, .ctr, 0⟩]⟩,
  ⟨"TLM_DROPPED", 0x204, [], .any, [⟨0, 32, .ctr, 0⟩]⟩]

/-- HOST block (SQ and CQ sets in their HOST form). -/
def hostRows : List RegRow := [
  ⟨"HBM_WIN_BASE_LO", 0x100, [], .any, [⟨0, 32, .rw, 0⟩]⟩,
  ⟨"HBM_WIN_BASE_HI", 0x104, [], .any, [⟨0, 16, .rw, 0⟩]⟩,
  ⟨"SQ_BASE_LO", 0x10000, [(64, 1024)], .sqOff, [⟨12, 20, .rw, 0⟩]⟩,
  ⟨"SQ_BASE_HI", 0x10004, [(64, 1024)], .sqOff, [⟨0, 32, .rw, 0⟩]⟩,
  ⟨"SQ_CFG", 0x10008, [(64, 1024)], .any, [⟨0, 5, .rw, 6⟩, ⟨8, 6, .rw, 0⟩, ⟨16, 1, .rw, 0⟩]⟩,
  ⟨"SQ_HEAD", 0x1000C, [(64, 1024)], .hw, [⟨0, 16, .ro, 0⟩]⟩,
  ⟨"SQ_TAIL", 0x10010, [(64, 1024)], .hw, [⟨0, 16, .ro, 0⟩]⟩,
  ⟨"SQ_STATUS", 0x10014, [(64, 1024)], .any, [⟨0, 1, .rw1c, 0⟩, ⟨1, 1, .rw1c, 0⟩, ⟨2, 1, .ro, 1⟩]⟩,
  ⟨"SQ_ESTATE_CNT", 0x10018, [(64, 1024)], .hw, [⟨0, 32, .ro, 0⟩]⟩,
  ⟨"CQ_BASE_LO", 0x20000, [(64, 1024)], .cqOff, [⟨12, 20, .rw, 0⟩]⟩,
  ⟨"CQ_BASE_HI", 0x20004, [(64, 1024)], .cqOff, [⟨0, 32, .rw, 0⟩]⟩,
  ⟨"CQ_CFG", 0x20008, [(64, 1024)], .any, [⟨0, 5, .rw, 6⟩, ⟨16, 1, .rw, 0⟩, ⟨17, 1, .rw, 1⟩, ⟨20, 11, .rw, 0⟩, ⟨31, 1, .rw, 0⟩]⟩,
  ⟨"CQ_HEAD", 0x2000C, [(64, 1024)], .hw, [⟨0, 16, .ro, 0⟩]⟩,
  ⟨"CQ_TAIL", 0x20010, [(64, 1024)], .hw, [⟨0, 16, .ro, 0⟩]⟩,
  ⟨"CQ_COAL", 0x20014, [(64, 1024)], .any, [⟨0, 16, .rw, 1⟩, ⟨16, 16, .rw, 0⟩]⟩]

/-- A job-context block. -/
def jobRows0 : List RegRow := [
  ⟨"JOB_CTL", 0x0, [], .any, [⟨0, 3, .wo, 0⟩]⟩,
  ⟨"JOB_STATUS", 0x4, [], .any, [⟨0, 3, .ro, 0⟩, ⟨3, 1, .rw1c, 0⟩, ⟨4, 1, .ro, 0⟩, ⟨8, 8, .ro, 0⟩]⟩,
  ⟨"JOB_CFG", 0x8, [], .pfFB, [⟨0, 12, .rw, 0⟩, ⟨12, 1, .rw, 0⟩]⟩,
  ⟨"WIN_BASE_LO", 0x40, [(16, 4)], .pfFB, [⟨20, 12, .rw, 0⟩]⟩,
  ⟨"WIN_BASE_HI", 0x44, [(16, 4)], .pfFB, [⟨0, 16, .rw, 0⟩]⟩,
  ⟨"WIN_SIZE", 0x48, [(16, 4)], .pfFB, [⟨0, 24, .rw, 0⟩]⟩,
  ⟨"WIN_CFG", 0x4C, [(16, 4)], .pfFB, [⟨0, 1, .rw, 0⟩, ⟨1, 1, .rw, 0⟩, ⟨2, 1, .rw, 0⟩, ⟨3, 1, .rw, 0⟩]⟩,
  ⟨"HOSTWIN_BASE_LO", 0x80, [], .pfFB, [⟨20, 12, .rw, 0⟩]⟩,
  ⟨"HOSTWIN_BASE_HI", 0x84, [], .pfFB, [⟨0, 32, .rw, 0⟩]⟩,
  ⟨"HOSTWIN_SIZE", 0x88, [], .pfFB, [⟨0, 32, .rw, 0⟩]⟩,
  ⟨"CLUSTER_MASK", 0x90, [], .pfFB, [⟨0, 32, .rw, 0⟩]⟩,
  ⟨"MEMBER_LO", 0x94, [], .pfFB, [⟨0, 32, .rw, 0⟩]⟩,
  ⟨"MEMBER_HI", 0x98, [], .pfFB, [⟨0, 32, .rw, 0⟩]⟩,
  ⟨"DOM_RANGE", 0x9C, [], .pfFB, [⟨0, 10, .rw, 0⟩, ⟨16, 10, .rw, 0⟩]⟩,
  ⟨"TOTALS", 0x100, [(4, 7)], .any, [⟨0, 32, .ctr, 0⟩]⟩,
  ⟨"CTR_BASE_LO", 0x120, [], .any, [⟨0, 32, .rw, 0⟩]⟩,
  ⟨"CTR_BASE_HI", 0x124, [], .any, [⟨0, 32, .rw, 0⟩]⟩,
  ⟨"CTR_CFG", 0x128, [], .any, [⟨0, 5, .rw, 0⟩, ⟨16, 1, .rw, 0⟩]⟩,
  ⟨"CTR_HEAD_DB", 0x12C, [], .any, [⟨0, 16, .wo, 0⟩]⟩,
  ⟨"CTR_LOST", 0x130, [], .hw, [⟨0, 32, .ro, 0⟩]⟩,
  ⟨"RCP_BASE_LO", 0x200, [], .fb, [⟨10, 22, .rw, 0⟩]⟩,
  ⟨"RCP_BASE_HI", 0x204, [], .fb, [⟨0, 32, .rw, 0⟩]⟩,
  ⟨"RCP_CTL", 0x208, [], .any, [⟨0, 1, .wo, 0⟩, ⟨1, 1, .wo, 0⟩]⟩,
  ⟨"RCP_STATUS", 0x20C, [], .any, [⟨0, 1, .ro, 0⟩, ⟨1, 1, .ro, 0⟩, ⟨2, 1, .rw1c, 0⟩]⟩,
  ⟨"HLT_BASE_LO", 0x210, [], .any, [⟨11, 21, .rw, 0⟩]⟩,
  ⟨"HLT_BASE_HI", 0x214, [], .any, [⟨0, 32, .rw, 0⟩]⟩,
  ⟨"OFL_BASE_LO", 0x218, [], .any, [⟨20, 12, .rw, 0⟩]⟩,
  ⟨"OFL_BASE_HI", 0x21C, [], .any, [⟨0, 32, .rw, 0⟩]⟩,
  ⟨"OFL_SIZE", 0x220, [], .any, [⟨0, 16, .rw, 0⟩]⟩,
  ⟨"NUM_FLAGS", 0x224, [], .any, [⟨0, 5, .rw1c, 0⟩]⟩]

/-- A job-context block. -/
def jobRows1 : List RegRow := [
  ⟨"NUM_FLAG_IE", 0x228, [], .any, [⟨0, 5, .rw, 0⟩, ⟨20, 11, .rw, 0⟩]⟩,
  ⟨"FLAG_LG", 0x22C, [], .hw, [⟨0, 8, .ro, 0⟩, ⟨8, 8, .ro, 0⟩, ⟨16, 8, .ro, 0⟩, ⟨24, 8, .ro, 0⟩]⟩,
  ⟨"RL_LG", 0x230, [], .hw, [⟨0, 8, .ro, 0⟩]⟩,
  ⟨"SYNC_CFG", 0x300, [], .pf, [⟨0, 1, .rw, 0⟩]⟩,
  ⟨"RUNON_CFG", 0x304, [], .any, [⟨0, 14, .rw, 50⟩, ⟨16, 1, .rw, 0⟩]⟩,
  ⟨"RUNON_STATUS", 0x308, [], .any, [⟨0, 1, .rw1c, 0⟩, ⟨1, 1, .ro, 0⟩]⟩,
  ⟨"RUNON_IRQ", 0x30C, [], .any, [⟨0, 11, .rw, 0⟩, ⟨16, 1, .rw, 0⟩]⟩,
  ⟨"DUMP_BASE_LO", 0x310, [], .any, [⟨6, 26, .rw, 0⟩]⟩,
  ⟨"DUMP_BASE_HI", 0x314, [], .any, [⟨0, 32, .rw, 0⟩]⟩,
  ⟨"DUMP_SIZE", 0x318, [], .any, [⟨0, 16, .rw, 0⟩]⟩,
  ⟨"XCH_CFG", 0x320, [], .pf, [⟨0, 4, .rw, 6⟩]⟩,
  ⟨"HDW_BASE_LO", 0x340, [], .pfFB, [⟨20, 12, .rw, 0⟩]⟩,
  ⟨"HDW_BASE_HI", 0x344, [], .pfFB, [⟨0, 32, .rw, 0⟩]⟩,
  ⟨"HDW_SIZE", 0x348, [], .pfFB, [⟨0, 32, .rw, 0⟩]⟩,
  ⟨"HDIAC_BASE_LO", 0x34C, [], .pfFB, [⟨12, 20, .rw, 0⟩]⟩,
  ⟨"HDIAC_BASE_HI", 0x350, [], .pfFB, [⟨0, 32, .rw, 0⟩]⟩,
  ⟨"LANE_OT", 0x400, [(4, 239)], .any, [⟨0, 7, .rw, 8⟩]⟩,
  ⟨"RCV_CFG", 0x800, [], .pfFB, [⟨0, 4, .rw, 1⟩, ⟨4, 3, .rw, 2⟩, ⟨8, 1, .rw, 0⟩, ⟨9, 1, .rw, 0⟩, ⟨10, 5, .rw, 4⟩]⟩,
  ⟨"FS_STEP", 0x804, [], .hw, [⟨0, 32, .ro, 0⟩]⟩,
  ⟨"PS_STEP", 0x808, [], .hw, [⟨0, 32, .ro, 0⟩]⟩,
  ⟨"SETTLED_STEP", 0x80C, [], .hw, [⟨0, 32, .ro, 0⟩]⟩,
  ⟨"STEP0", 0x810, [], .pfFB, [⟨0, 32, .rw, 0⟩]⟩,
  ⟨"STATE_DIGEST_LO", 0x814, [], .hw, [⟨0, 32, .ro, 0⟩]⟩,
  ⟨"STATE_DIGEST_HI", 0x818, [], .hw, [⟨0, 29, .ro, 0⟩]⟩,
  ⟨"JNL_BASE_LO", 0x820, [], .pfFB, [⟨10, 22, .rw, 0⟩]⟩,
  ⟨"JNL_BASE_HI", 0x824, [], .pfFB, [⟨0, 16, .rw, 0⟩]⟩,
  ⟨"JNL_ENTRIES", 0x828, [], .pfFB, [⟨0, 24, .rw, 0⟩]⟩,
  ⟨"JNL_USED", 0x82C, [], .hw, [⟨0, 24, .ro, 0⟩]⟩,
  ⟨"JNL_STATUS", 0x830, [], .any, [⟨0, 1, .rw1c, 0⟩]⟩,
  ⟨"IMG_MIB", 0x834, [], .pfFB, [⟨0, 24, .rw, 0⟩]⟩]

/-- A job-context block. -/
def jobRows2 : List RegRow := [
  ⟨"CK_BASE_LO", 0x900, [(32, 32)], .pfFB, [⟨20, 12, .rw, 0⟩]⟩,
  ⟨"CK_BASE_HI", 0x904, [(32, 32)], .pfFB, [⟨0, 16, .rw, 0⟩]⟩,
  ⟨"CK_SIZE", 0x908, [(32, 32)], .pfFB, [⟨0, 24, .rw, 0⟩]⟩,
  ⟨"CK_STRIDE", 0x90C, [(32, 32)], .pfFB, [⟨0, 24, .rw, 0⟩]⟩,
  ⟨"CK_MAP_LO", 0x910, [(32, 32)], .pfFB, [⟨12, 20, .rw, 0⟩]⟩,
  ⟨"CK_MAP_HI", 0x914, [(32, 32)], .pfFB, [⟨0, 16, .rw, 0⟩]⟩,
  ⟨"CK_CFG", 0x918, [(32, 32)], .pfFB, [⟨0, 2, .rw, 0⟩, ⟨2, 1, .rw, 0⟩]⟩,
  ⟨"TBL_BASE_LO", 0x1000, [(32, 64)], .tbl, [⟨10, 22, .rw, 0⟩]⟩,
  ⟨"TBL_BASE_HI", 0x1004, [(32, 64)], .tbl, [⟨0, 32, .rw, 0⟩]⟩,
  ⟨"TBL_SBASE_LO", 0x1008, [(32, 64)], .tbl, [⟨1, 31, .rw, 0⟩]⟩,
  ⟨"TBL_SBASE_HI", 0x100C, [(32, 64)], .tbl, [⟨0, 32, .rw, 0⟩]⟩,
  ⟨"TBL_ROWS", 0x1010, [(32, 64)], .tbl, [⟨0, 32, .rw, 0⟩]⟩,
  ⟨"TBL_CFG", 0x1014, [(32, 64)], .tbl, [⟨0, 4, .rw, 4⟩, ⟨4, 2, .rw, 0⟩, ⟨6, 4, .rw, 10⟩]⟩,
  ⟨"TBL_TID", 0x1018, [(32, 64)], .tbl, [⟨0, 24, .rw, 0⟩]⟩,
  ⟨"TBL_VERSION", 0x101C, [(32, 64)], .hw, [⟨0, 16, .ro, 0⟩]⟩]

def jobRows : List RegRow := jobRows0 ++ jobRows1 ++ jobRows2

/-- An I/O die block. -/
def fabricRows : List RegRow := [
  ⟨"LINK_CFG", 0x0, [(8192, 16)], .any, [⟨0, 1, .rw, 1⟩, ⟨1, 1, .wo, 0⟩]⟩,
  ⟨"LINK_STATUS", 0x4, [(8192, 16)], .hw, [⟨0, 3, .ro, 0⟩, ⟨8, 8, .ro, 0⟩, ⟨16, 16, .ro, 0⟩]⟩,
  ⟨"LINK_CORR", 0x8, [(8192, 16)], .any, [⟨0, 32, .ctr, 0⟩]⟩,
  ⟨"LINK_UNCORR", 0xC, [(8192, 16)], .any, [⟨0, 32, .ctr, 0⟩]⟩,
  ⟨"LINK_DROP", 0x10, [(8192, 16)], .any, [⟨0, 32, .ctr, 0⟩]⟩,
  ⟨"IO_SEM_VALUE", 0x20000, [(4, 8192)], .dbg, [⟨0, 32, .ro, 0⟩]⟩,
  ⟨"IO_SEM_BANK_OWNER", 0x28000, [(4, 128)], .owner, [⟨0, 12, .rw, 0⟩, ⟨12, 1, .rw, 0⟩]⟩,
  ⟨"ROUTE", 0x30000, [(8192, 2), (4, 1088)], .mgmt, [⟨0, 24, .rw, 0⟩, ⟨31, 1, .rw, 0⟩]⟩,
  ⟨"RP_CFG", 0x34000, [(4, 8)], .any, [⟨0, 3, .rw, 0⟩, ⟨3, 2, .rw, 0⟩, ⟨5, 1, .rw, 0⟩, ⟨6, 1, .rw, 0⟩, ⟨7, 1, .rw, 0⟩]⟩,
  ⟨"FAB_CTL0", 0x38000, [], .mgmt, [⟨0, 1, .rw, 0⟩, ⟨1, 1, .rw, 0⟩, ⟨2, 1, .rw, 0⟩]⟩,
  ⟨"FAB_CTL1", 0x38004, [], .mgmt, [⟨0, 10, .rw, 20⟩, ⟨16, 4, .rw, 8⟩]⟩,
  ⟨"FAB_DEVICE_ID", 0x38008, [], .hw, [⟨0, 16, .ro, 0⟩]⟩,
  ⟨"ROUTE_MISS", 0x3800C, [], .mgmt, [⟨0, 32, .ctr, 0⟩]⟩,
  ⟨"DUP_DISCARD", 0x38010, [], .mgmt, [⟨0, 32, .ctr, 0⟩]⟩,
  ⟨"FT_STATUS", 0x38020, [], .hw, [⟨0, 1, .ro, 0⟩, ⟨1, 1, .ro, 0⟩, ⟨2, 1, .ro, 0⟩, ⟨16, 16, .ro, 0⟩]⟩,
  ⟨"MGR_CFG", 0x38024, [], .mgmt, [⟨0, 10, .rw, 60⟩]⟩]

/-- A stack controller block. -/
def memoryRows : List RegRow := [
  ⟨"MEM_CFG", 0x0, [], .any, [⟨0, 8, .rw, 64⟩, ⟨8, 8, .rw, 95⟩, ⟨16, 8, .rw, 24⟩]⟩,
  ⟨"MEM_STATUS", 0x4, [], .hw, [⟨0, 3, .ro, 0⟩, ⟨3, 2, .ro, 0⟩, ⟨8, 8, .ro, 0⟩]⟩,
  ⟨"MEM_ECC_CORR", 0x8, [], .any, [⟨0, 32, .ctr, 0⟩]⟩,
  ⟨"MEM_ECC_UNCORR", 0xC, [], .any, [⟨0, 32, .ctr, 0⟩]⟩,
  ⟨"MEM_ROWS_REMAPPED", 0x10, [], .hw, [⟨0, 16, .ro, 0⟩]⟩,
  ⟨"MEM_LANES_REPAIRED", 0x14, [], .hw, [⟨0, 16, .ro, 0⟩]⟩,
  ⟨"MEM_MARGIN", 0x100, [], .any, [⟨0, 6, .rw, 16⟩, ⟨6, 1, .rw, 0⟩, ⟨7, 1, .wo, 0⟩, ⟨8, 1, .ro, 0⟩, ⟨16, 6, .ro, 0⟩, ⟨24, 6, .ro, 0⟩]⟩]

/-- A cluster block; the Lexicon registers at 0x38000 exist where the cluster index is a multiple of four (R352). -/
def computeRows : List RegRow := [
  ⟨"TILE_MAP", 0x100, [], .hw, [⟨0, 32, .ro, 0⟩]⟩,
  ⟨"TILE_STATUS", 0x104, [], .hw, [⟨0, 9, .ro, 0⟩, ⟨9, 9, .ro, 0⟩, ⟨18, 1, .ro, 0⟩, ⟨19, 1, .ro, 0⟩, ⟨20, 1, .ro, 0⟩]⟩,
  ⟨"TILE_CHECK_FAIL", 0x108, [], .any, [⟨0, 16, .ctr, 0⟩]⟩,
  ⟨"CLUSTER_JOB", 0x10C, [], .pf, [⟨0, 4, .rw, 0⟩, ⟨4, 1, .rw, 0⟩]⟩,
  ⟨"RING_BASE", 0x2000, [(64, 64)], .ringOff, [⟨10, 14, .rw, 0⟩]⟩,
  ⟨"RING_GEOM", 0x2004, [(64, 64)], .ringOff, [⟨0, 9, .rw, 3⟩, ⟨16, 14, .rw, 1⟩]⟩,
  ⟨"RING_SEM", 0x2008, [(64, 64)], .ringOff, [⟨0, 12, .rw, 0⟩, ⟨12, 12, .rw, 0⟩]⟩,
  ⟨"RING_PORTS", 0x200C, [(64, 64)], .ringOff, [⟨0, 12, .rw, 0⟩, ⟨12, 12, .rw, 0⟩]⟩,
  ⟨"RING_CTL", 0x2010, [(64, 64)], .pf, [⟨0, 1, .rw, 0⟩, ⟨1, 4, .rw, 0⟩]⟩,
  ⟨"RING_HEAD", 0x2014, [(64, 64)], .hw, [⟨0, 32, .ro, 0⟩]⟩,
  ⟨"RING_TAIL", 0x2018, [(64, 64)], .hw, [⟨0, 32, .ro, 0⟩]⟩,
  ⟨"RING_STATUS", 0x201C, [(64, 64)], .pf, [⟨0, 1, .ro, 0⟩, ⟨1, 1, .rw1c, 0⟩, ⟨2, 1, .rw1c, 0⟩]⟩,
  ⟨"SEM_VALUE", 0x10000, [(4, 4096)], .dbg, [⟨0, 32, .ro, 0⟩]⟩,
  ⟨"SEM_BANK_OWNER", 0x14000, [(4, 64)], .owner, [⟨0, 12, .rw, 0⟩, ⟨12, 1, .rw, 0⟩]⟩,
  ⟨"LEX_HOT_BASE", 0x38000, [], .lexOff, [⟨16, 8, .rw, 0⟩]⟩,
  ⟨"LEX_HOT_CFG", 0x38004, [], .pf, [⟨0, 8, .rw, 0⟩, ⟨8, 4, .rw, 0⟩, ⟨12, 1, .rw, 0⟩]⟩,
  ⟨"LEX_HOT_ENTRIES", 0x38008, [], .hw, [⟨0, 18, .ro, 0⟩]⟩,
  ⟨"LEX_HOT_USED", 0x3800C, [], .hw, [⟨0, 24, .ro, 0⟩]⟩]

/-- Block of an offset of function 0's BAR0 (R122), its instance and the offset within the instance. -/
inductive Block where
  | global | reset | power | security | host | job (n : Nat) | fabric (d : Nat) | memory (s : Nat)
  | memData | compute (c : Nat) | bcastAll | bcastGroup | diagnostic | none
deriving DecidableEq, Repr

def blockOf (off : Nat) : Block × Nat :=
  if off < 0x10000 then (.global, off)
  else if off < 0x20000 then (.reset, off - 0x10000)
  else if off < 0x30000 then (.power, off - 0x20000)
  else if off < 0x40000 then (.security, off - 0x30000)
  else if off < 0x80000 then (.host, off - 0x40000)
  else if off < 0x100000 then (.job ((off - 0x80000) / 0x8000), (off - 0x80000) % 0x8000)
  else if off < 0x200000 then (.fabric ((off - 0x100000) / 0x40000), (off - 0x100000) % 0x40000)
  else if off < 0x2F0000 then (.memory ((off - 0x200000) / 0x10000), (off - 0x200000) % 0x10000)
  else if off < 0x300000 then (.memData, off - 0x2F0000)
  else if off < 0x1000000 then (.none, off)
  else if off < 0x1800000 then (.compute ((off - 0x1000000) / 0x40000), (off - 0x1000000) % 0x40000)
  else if off < 0x2000000 then (.none, off)
  else if off < 0x2800000 then (.bcastAll, off - 0x2000000)
  else if off < 0x3000000 then (.bcastGroup, off - 0x2800000)
  else if off < 0x4000000 then (.diagnostic, off - 0x3000000)
  else (.none, off)

def rowsOf : Block → Nat → List RegRow
  | .global, _ => globalRows
  | .reset, _ => resetRows
  | .power, _ => powerRows
  | .security, _ => securityRows
  | .host, _ => hostRows
  | .job _, _ => jobRows
  | .fabric d, rel => if d = 0 ∨ rel < 0x38000 then fabricRows else []
  | .memory _, _ => memoryRows
  | .memData, _ => [⟨"MEM_DATA_SIZE", 0, [], .hw, [⟨0, 32, .ro, 0⟩]⟩]
  | .compute c, rel => if c % 4 = 0 ∨ rel < 0x38000 then computeRows else []
  | .bcastAll, _ => []
  | .bcastGroup, _ => []
  | .diagnostic, _ => []
  | .none, _ => []

/-- The register at an offset, if one is there. -/
def findRow (off : Nat) : Option RegRow :=
  (rowsOf (blockOf off).1 (blockOf off).2).find? fun r => r.hit (blockOf off).2

/-- Context-form offsets of SQ and CQ sets name the HOST-form register (R67, R68). -/
def canonOff (off : Nat) : Nat :=
  match blockOf off with
  | (.job n, rel) =>
    if 0x4000 ≤ rel ∧ rel < 0x5000 then 0x50000 + 0x40 * 64 * n + (rel - 0x4000)
    else if 0x5000 ≤ rel ∧ rel < 0x6000 then 0x60000 + 0x40 * 64 * n + (rel - 0x5000)
    else off
  | _ => off

end Sys2Proof.Machine
end

