-- ==== Sys2Proof/Machine/State.lean ====
section
/-! DEFINITION. The state of the device as plain data, its faults and refusals, and the state right after reset. -/
namespace Sys2Proof.Machine

/-- Stops of the machine. Every event of the spec is a next state; the one fault is the model's own. -/
inductive Fault where
  /-- raised by any meaning whose command is not well formed (Instr.wf): an operand names a unit, ring or field
  value that does not exist; safe: the machine stops where nothing of the spec happens -/
  | noSuchUnit
deriving DecidableEq, Repr

/-- Commands to which the model gives no meaning. -/
inductive Refusal where
  /-- raised by a dispatch arm whose command is not modelled yet; safe: nothing can be proved of it -/
  | notModelled (mnemonic : String)
deriving DecidableEq, Repr

/-- An exact value: NaN, a signed infinity, or a sign and a non-negative magnitude (signed zeros kept, R143). -/
inductive Val where
  | nan
  | inf (neg : Bool)
  | fin (neg : Bool) (m : Rat)
deriving DecidableEq, Repr

/-- The seven numeric counters of a descriptor (R161). -/
structure Counters where
  sat : Nat := 0
  flush : Nat := 0
  nan : Nat := 0
  outl : Nat := 0
  promo : Nat := 0
  ovf : Nat := 0
  zgrp : Nat := 0
deriving DecidableEq, Repr

/-- Where a fetched descriptor stands: in its lane, asleep on a semaphore, its access side started, its
status formed, or held as a queued re-arm (R82, R109, R471). -/
inductive Phase where
  | queued | waiting | started | done | rearm
deriving DecidableEq, Repr

/-- A wait for a semaphore: unit and index as in R78, threshold, and whether it acquires (R462). -/
structure Wait where
  unit : Nat
  index : Nat
  n : Nat
  acquire : Bool
deriving DecidableEq, Repr

/-- A fetched, uncompleted descriptor (R78, R82, R90). -/
structure Inst where
  /-- the model's number of the descriptor (log entry 1) -/
  id : Nat
  /-- global SQ index, 1024 for one that no ring carried (an expansion, or the management complex) -/
  sq : Nat
  ctx : Nat
  /-- global CQ in which its completion is reserved (R74) -/
  cq : Nat
  /-- submitted through function 0 (R88, R796; log entry 12) -/
  fromPf : Bool
  words : List Word
  /-- queue number of its lane (R455) -/
  queue : Nat
  phase : Phase
  /-- the header WAIT, or the SEM's own wait, it sleeps on -/
  wait : Option Wait
  /-- the header WAIT has been met (R82) -/
  waited : Bool
  /-- stamp at which its sleep began, and whether it lends its allowance (R478) -/
  sleepAt : Nat
  lends : Bool
  /-- fabric time at which its access side started and at which its last write was visible (R90) -/
  startTs : Nat
  endTs : Nat
  status : Nat
  detail : Nat
  cnt : Counters
  /-- the step its work belongs to and the recipe version in force for it (R670, R412) -/
  step : Nat
  epoch : Nat
  /-- operand block or program read when its access side started, when its opcode has one -/
  block : List Byte
  /-- table slot registers captured when its access side started (R340): base, scale base, rows, config, tensor ID, version;
  then five numbers of each EXPR answer: home, EXP, sampled, shadow, DST (R529) -/
  slot : List Nat
  /-- opcode-specific progress: slots moved, stage of a STEP or SEND, bytes still to come -/
  stage : Nat
  progress : Nat
  /-- its engine waits for a slot, a credit, journal space or a partner (R501) -/
  blocked : Bool
  /-- bytes gathered from another device so far, by offset -/
  staged : List Host.Cell
  /-- whole-tensor rows an epilogue instance has received, and the GEMMs bound to it (R321) -/
  rowsSeen : List Nat
  /-- the PLAN it was expanded from and its record index (R118, R119) -/
  parent : Option Nat
  recIx : Nat
  /-- count group its packets join: (target device, number) (R606) -/
  cgroup : Option (Nat × Nat)
  /-- homes asked for a window's exponent and not yet answered; the stamp of a RETRY answer (R528) -/
  queries : List (Nat × Option Nat)
  /-- the header SIGNAL has been sent or applied (R83) -/
  sigSent : Bool
  /-- bytes a READ_REQ has asked for and not yet brought (R604) -/
  awaiting : Nat
  /-- ranges of other devices that READ_REQ packets have asked for: (64-bit address, bytes) (R604), and how many were last asked
  for together (R456) -/
  asked : List (Nat × Nat)
  reads : Nat
  /-- what an epilogue instance holds between GEMMs: (instruction, row, values), and a GEMM for its epilogue (R321, R323) -/
  held : List (Nat × Nat × List Val)
  /-- addresses of the subnormal elements that a VSTREAM has counted (R142, R162) -/
  seen : List Nat
  /-- the epilogue instance that a GEMM bound to at its state check (R319) -/
  bound : Option Nat
deriving DecidableEq, Repr

/-- The hidden state of one completion ring (R70, R74, R846). -/
structure CqState where
  cq : Nat
  /-- phase written in this pass -/
  phase : Bool
  /-- entries reserved by fetched descriptors and not yet written -/
  reserved : Nat
  /-- completions counted towards the vector, and the stamp at which the timer started -/
  count : Nat
  timer : Option Nat
deriving DecidableEq, Repr

/-- A raised MSI-X message: function (0 = function 0, n + 1 = VF n) and vector (R65). -/
structure Irq where
  fn : Nat
  vector : Nat
deriving DecidableEq, Repr

/-- The host interface beside its registers (02). -/
structure HostIf where
  cqs : List CqState
  /-- rings whose tail doorbell was last written by function 0 (log entry 12) -/
  sqPf : List Nat
  /-- vectors raised, newest last, and vectors held pending because masked or disabled (R846) -/
  raised : List Irq
  held : List Irq
  /-- functions whose MSI-X is disabled, and masked vectors -/
  msixOff : List Nat
  masked : List Irq
  /-- PCIe ports trained, ports held by PERST, Bus Master Enable of function 0, log2 of BAR4's size -/
  trained : List Nat
  perst : List Nat
  busMaster : Bool
  bar4Log2 : Nat
  /-- bytes that the last read access returned to its requester, and whether as a poisoned TLP (R128, R640; log entry 19) -/
  lastRead : Option (Fn × List Byte × Bool)
  /-- fabric-time latch per requester: 0 function 0, 1 management complex, 2 + c control core c (R92) -/
  latches : List (Nat × Word)
  /-- expansion cache: (job, PLAN_ADDR, PLAN_TAG, RECORD_COUNT, epoch), most recent first (R120, R418) -/
  planCache : List (Nat × Nat × Nat × Nat × Nat)
deriving DecidableEq, Repr

/-- SD and SW that one UPDATE contributes to a layer group; none where a term was not finite (R442, R443). -/
structure Ratio where
  psetTid : Nat
  row0 : Nat
  engine : Nat
  lg : Nat
  sd : Rat
  sw : Rat
deriving DecidableEq, Repr

/-- An activation set that a basic expansion has off-loaded in the step in progress (R450, R451; log entry 66). -/
structure Ofl where
  /-- layer group, and λ of its activation entry -/
  lg : Nat
  lead : Nat
  /-- where the QUANT wrote it, its tensor ID, where the off-load put it -/
  base : Nat
  tid : Nat
  place : Nat
  /-- words 11 and 12 of its MOVE OUTSET, and the bytes it moves -/
  rows : Nat
  shape : Nat
  len : Nat
  /-- its prefetch: the MOVE, and the staging place that it fills -/
  fetch : Option (Nat × Nat)
  /-- how its prefetch failed: status and DETAIL (R452) -/
  fail : Option (Nat × Nat)
deriving DecidableEq, Repr

/-- The hidden state of one job context (08, 09, 13). -/
structure Ctx where
  /-- counter ring: head, tail, phase (R98) -/
  ctrHead : Nat
  ctrTail : Nat
  ctrPhase : Bool
  /-- VERSION_TAG captured by ARM (R413) and the versions in force by first step, newest first (R417) -/
  armTag : Word
  epochs : List (Nat × Nat)
  /-- SAT and NAN per layer group in the step, update sums, flags raised per layer group (R442 to R448) -/
  satLg : List (Nat × Nat)
  nanLg : List (Nat × Nat)
  ratios : List Ratio
  flagsLg : List (Nat × Nat)
  /-- status codes reported per R97, IMPL_FROM where a tile mismatched, failing granule, counter totals of the step -/
  errMask : Nat
  implFrom : Option Nat
  badGranule : Nat
  /-- BAD_GRANULE of the last STEP_DONE (R674, R708) -/
  lastBad : Nat
  stepCnt : Counters
  /-- largest amax of HIST entries written in the step, per layer group (R804) -/
  histMax : List (Nat × Nat)
  /-- an unsent telemetry event's step (R805) -/
  tlmUnsent : Option Nat
  /-- one more than the last step whose DELTAS_DONE was sent, 0 before the first; a delta read that failed (R698, R700) -/
  deltasStep : Nat
  deltasFail : Bool
  /-- index of the journal's oldest entry (R689) -/
  jnlHead : Nat
  /-- Run-On count in 25 MHz periods and whether it has fired since the job was last not stalled (R503, R505) -/
  runOn : Nat
  runOnFired : Bool
  /-- rank table and version (R674) -/
  ranks : List Nat
  rankVersion : Nat
  /-- next free byte of the off-load area (R450) -/
  oflNext : Nat
  /-- layer groups in forward order, the sets off-loaded, layer groups whose backward has started (R451) -/
  layers : List Nat
  ofl : List Ofl
  backs : List Nat
  /-- the device a ROLLBACK of cause 1 named as lost (R674) -/
  lostDev : Option Nat
  /-- a granule under repair: its base-bank address, and the other retained copies that were bad with it (R708) -/
  repair : Option (Nat × List Nat)
  /-- a ROLLBACK that waits for PARITY_STOP of its target: (target, cause) (R692) -/
  waitParity : Option (Nat × Nat)
  /-- UPDATEs that wrote a Wq: descriptor and operand block, for the requantisation of a recipe switch (R419; log entry 37) -/
  weights : List (List Word × List Byte)
  /-- clusters out of service at the last Full Stop, or at START before the first (R704, R848) -/
  outAtStop : List Nat
deriving DecidableEq, Repr

/-- A trap a control core has taken: illegal instruction, or access fault (R43, R310, R470). -/
inductive Trap where
  | illegalInstruction | accessFault
deriving DecidableEq, Repr

/-- Privilege and trap state of a RISC-V hart as R40 names it: its mode (machine, or user on a cluster core), the
interrupt-enable stack of mstatus, and the trap registers (log entry 26). -/
structure Hart where
  user : Bool
  mie : Bool
  mpie : Bool
  /-- the mode before the last trap was user mode -/
  mppUser : Bool
  mtvec : Nat
  mepc : Nat
  mcause : Nat
  mtval : Nat
deriving DecidableEq, Repr

/-- One cluster control core: its hart, the registers of Xhsx, its data cache (R40, R41, R310, R469). -/
structure Core where
  hart : Hart
  x : List (Nat × Word)
  sc : List (Nat × Word)
  tabBase : Nat
  tabCount : Nat
  /-- first failure of issued VSE instructions not yet taken by VWAIT -/
  vfail : Nat
  /-- cached 64-byte lines of the private HBM window: (line address, bytes) (R41, R42) -/
  dcache : List (Nat × List Byte)
  trap : Option Trap
  /-- bytes that the last load brought (log entry 67) -/
  loaded : List Byte
  /-- a waiting semaphore instruction: rd, wait, sleep stamp, lends -/
  waiting : Option (Nat × Wait × Nat × Bool)
deriving DecidableEq, Repr

/-- A hot-row directory entry (R355). -/
structure HotEntry where
  slot : Nat
  row : Nat
  version : Nat
  off : Nat
  crc : Word
  way : Nat
deriving DecidableEq, Repr

/-- A reduction window entry (R515 to R537). -/
structure Window where
  job : Nat
  wid : Nat
  shadow : Bool
  step : Nat
  exp : Nat
  /-- the OPEN instance; none for a shadow entry -/
  owner : Option Nat
  ctx : Nat
  dst : Nat
  outTid : Nat
  outFmt : Nat
  rnd : Bool
  lg : Nat
  len : Nat
  sparse : Bool
  maxGran : Nat
  expect : Nat
  bhist : Nat
  record : Nat
  winTid : Nat
  sampled : Bool
  home : Nat
  shadowDev : Nat
  /-- staging values by element index, zeros left out (R518) -/
  staging : List (Nat × Int)
  /-- granules touched of a sparse window (R544) -/
  touched : List Nat
  digests : Nat
  digestSum : Nat
  elemsGot : Nat
  elemsSum : Nat
  amax : Nat
  poison : Bool
  /-- shadow staging received, by half-line: 64 values of 48 bits (R558) -/
  sumcmp : List (Nat × List Nat)
  /-- DETAIL of the failure that poisoned it, 0 when none -/
  bad : Nat
  isOpen : Bool
deriving DecidableEq, Repr

/-- A packet in the retransmit store (R602). -/
structure Stored where
  pkt : Packet
  inst : Option Nat
  resends : Nat
  sentAt : Nat
  /-- a NACK BUSY asked for a resend 2 µs after this stamp -/
  busyAt : Option Nat
deriving DecidableEq, Repr

structure SendFlow where
  dst : Nat
  next : Nat
  stored : List Stored
  /-- count-group number allocated last (R605) -/
  group : Nat
deriving DecidableEq, Repr

structure RecvFlow where
  src : Nat
  rbase : Nat
  /-- sequence numbers from RBASE up that are delivered (the bitmap), deliveries not yet acknowledged, when an ACK
  is due, stamp of the last delivery -/
  got : List Nat
  unacked : Nat
  ackDue : Option Nat
  lastAt : Nat
deriving DecidableEq, Repr

/-- A count-group entry at the destination (R607, R608). -/
structure CountGroup where
  src : Nat
  num : Nat
  job : Nat
  arrivals : Nat
  held : Option Packet
  /-- listed Diacritics: (local address of the granule, tensor ID, granule index, Diacritic) -/
  diacs : List (Nat × Nat × Nat × Word)
deriving DecidableEq, Repr

/-- An open count group as sender (R605, R606). -/
structure SendGroup where
  dst : Nat
  num : Nat
  /-- lane whose pending group it is; none for a group opened by one descriptor -/
  lane : Option (Nat × Nat)
  count : Nat
deriving DecidableEq, Repr

/-- A packet held in an I/O die (R583 to R586): next link, or none for local delivery. -/
structure Buffered where
  die : Nat
  link : Option Nat
  at_ : Nat
  pkt : Packet
deriving DecidableEq, Repr

structure LinkHid where
  fails : Nat
  /-- uncorrectable codewords counted since the stamp (R571) -/
  uncorr : Nat
  since : Nat
deriving DecidableEq, Repr

structure Fabric where
  send : List SendFlow
  recv : List RecvFlow
  groups : List CountGroup
  sendGroups : List SendGroup
  /-- Interjection credits in use towards a member, and returns due: (member, stamp of last send) (R497) -/
  creditsUsed : List (Nat × Nat)
  creditsDue : List (Nat × Nat)
  buf : List Buffered
  /-- packets formed at an I/O die and not yet taken by its switch (R611 steps 1 and 2) -/
  outbox : List (Nat × Packet)
  links : List (Nat × LinkHid)
  hopExpired : Nat
  pktAged : Nat
  badKind : Nat
  admitted : Bool
  injectOff : Bool
  denyAt : List (Nat × Nat)
  /-- device and stamp of the last JOIN, HEARTBEAT and TIME_REQ sent -/
  joinAt : Nat
  beatAt : Nat
  timeAt : Nat
  /-- stamp of the last manager heartbeat received (R615) -/
  mgrHeard : Nat
  mgrLost : Bool
  /-- reduction window entries held here as home or as shadow (R515); EXPQ packets not yet answered (R528) -/
  windows : List Window
  queries : List (Nat × Packet)
deriving DecidableEq, Repr

/-- What a manager keeps of one member (R614, R615, R705, R769). -/
structure Member where
  dev : Nat
  admitted : Bool
  heardAt : Nat
  suspectAt : Option Nat
  lost : Bool
  demand : Nat
  grant : Nat
deriving DecidableEq, Repr

/-- What a manager keeps of one job (R677, R678, R700). -/
structure MgrJob where
  job : Nat
  /-- last STEP_DONE of each device: its words after word 0 -/
  stepDone : List (Nat × List Nat)
  /-- last step whose DELTAS_DONE each device has sent -/
  deltasDone : List (Nat × Nat)
  fsStep : Nat
  /-- one more than the last step whose PARITY_STOP was broadcast; 0 before the first -/
  psNext : Nat
  recovering : Bool
  /-- FS_STEP that RESUME will carry, and the devices whose REJOIN or repair is awaited (R674, R709, R715) -/
  target : Nat
  waitRejoin : List Nat
deriving DecidableEq, Repr

structure Manager where
  members : List Member
  jobs : List MgrJob
  ranks : List (Nat × Nat × List Word)
  fwInbox : List Packet
deriving DecidableEq, Repr

/-- Time (11 R616 to R621, 15 R779 to R782). -/
structure Clock where
  /-- the model's own nanoseconds since power-on (log entry 2) -/
  now : Nat
  fab : Nat
  /-- offset still to be corrected by rate, in ns (R618) -/
  slew : Int
  fabSet : Bool
  lostLogged : Bool
  cal : Nat
  calFrac : Nat
  /-- counts the calendar still holds (R781) -/
  calHold : Nat
  calLatch : Word
  calFixAt : Nat
  pldmTime : Option Nat
  /-- time request in flight: four-timestamp exchange, T1 (R617) -/
  reqT1 : Option Nat
  ppsAt : Option Nat
deriving DecidableEq, Repr

/-- Where the device stands between reset and READY (R742 to R745). -/
inductive RPhase where
  | asserted | released | ready | failed
deriving DecidableEq, Repr

/-- Nine configurable pins: GPIO0 to GPIO7, PPS_OUT; drive and pull of R739. -/
structure Pin where
  drive : Nat
  pull : Nat
deriving DecidableEq, Repr

structure ResetM where
  phase : RPhase
  level : Nat
  source : Nat
  /-- power-on steps P1 to P3 done; release step reached -/
  aodUp : Bool
  clockHeld : Bool
  leakHeld : Bool
  emergHeld : Bool
  emergClearAt : Option Nat
  rail54 : Bool
  rail33 : Bool
  refOk : Bool
  rstLow : Bool
  wrstLow : Bool
  leakLow : Bool
  faultL : Bool
  ppsOut : Bool
  pins : List Pin
  /-- straps as driven, and as sampled at fuse load (R741, R818) -/
  strapRole : Nat
  strapDev : Nat
  role : Nat
  wdtStart : Nat
  wdtLast : Option Nat
  /-- clusters held in a cluster reset (R733) -/
  clusterInReset : List Nat
  /-- stacks in service since the last cold release (R624) -/
  stacksIn : List Nat
deriving DecidableEq, Repr

/-- Fuses and non-volatile stores (R6, R285, R644, R739, R784, R787, R791). -/
structure Stores where
  variant : Nat
  stepping : Nat
  serial : Nat
  pinMap : List Nat
  keyDigests : List (BitVec 384)
  keyRevoked : List Nat
  debugDigests : List (BitVec 384)
  rollback : Nat
  retired : List (Nat × Nat)
  lastPass : List ((Nat × Nat) × Nat)
  rowsRemapped : List (Nat × Nat)
  lanesRepaired : List (Nat × Nat)
  /-- scrub passes that met a correctable error in a row: (stack, channel, sid, bank, row), passes -/
  rowErrs : List ((Nat × Nat × Nat × Nat × Nat) × List Nat)
  remaps : List (Nat × Nat × Nat × Nat × Nat)
deriving DecidableEq, Repr

/-- Power, sleep, coolant (15). -/
structure Power where
  asleep : List Nat
  deepDies : List Nat
  ioLight : List Nat
  ioDeep : List Nat
  /-- last activity: cluster c at c, compute die d at 32 + d, I/O die d at 34 + d -/
  activeAt : List (Nat × Nat)
  flow100 : Nat
  tin : Option Nat
  tout : Option Nat
  /-- a flow count, and a thermistor reading, have been made -/
  coolSeen : Bool
  thermSeen : Bool
  dieTemp : Nat
  slowIssue : Nat
  clamp : Bool
  clampBelow : Option Nat
  /-- CCLK in force in MHz, kept while the register reads 0 (R771, R761) -/
  cclk : Nat
  grantNext : Option Nat
  lent : List Nat
  poolOffers : List (Nat × Nat)
  refreshDouble : List Nat
  wakes : List Nat
deriving DecidableEq, Repr

/-- A firmware image in a flash slot (R784). -/
structure Image where
  bytes : List Byte
  body : Nat
  svn : Nat
  commit : Bool
  key : List Byte
  sig : List Byte
deriving DecidableEq, Repr

/-- Security and management (16). -/
structure Secure where
  slotA : Option Image
  slotB : Option Image
  activeB : Bool
  running : Option Image
  /-- the running image came from slot B (R802) -/
  runB : Bool
  meas : List (BitVec 384)
  debugHigh : Nat
  nonceAt : Nat
  nonceCtr : Nat
  spdm : Nat
  eid : Nat
  evReceiver : Option Nat
  update : Option (List Byte)
  updateOk : Bool
  replies : List (Nat × List Byte)
  aliasIssued : Nat
deriving DecidableEq, Repr

/-- The event log: records of eight words, oldest first (R806). -/
structure EvLog where
  recs : List (Nat × List Word)
  next : Nat
deriving DecidableEq, Repr

/-- A write-combining entry: HBM line, byte mask, stamp of its first write (R635, R636). -/
structure WcEntry where
  line : Nat
  mask : List Nat
  since : Nat
deriving DecidableEq, Repr

/-- An entry of a finished-tile queue (R323): the GEMM, the block, its first row and column, rows and columns, the accumulator
bank that holds its values, and per row the sum that the check compares. -/
structure TileEntry where
  owner : Nat
  block : Nat
  row : Nat
  col : Nat
  rows : Nat
  cols : Nat
  bank : Nat
  sums : List Int
deriving DecidableEq, Repr

/-- The device. -/
structure State where
  /-- commands waiting, first in, first out -/
  pending : List Instr
  /-- registers by canonical BAR0 offset; an unlisted offset holds its reset value -/
  regs : List (Nat × Word)
  /-- memory by local address (R625); an unlisted byte reads 0 (log entry 3) -/
  mem : List Host.Cell
  /-- Diacritics of HBM and SSM granules, four bytes at 4 × (local address / 1,024) (R653, R654) -/
  diacs : List Host.Cell
  /-- poisoned 64-byte codewords, by local address / 64; Diacritic codewords from 2^42 (R639, R642) -/
  poison : List Nat
  wc : List WcEntry
  insts : List Inst
  nextInst : Nat
  host : HostIf
  ctxs : List Ctx
  cores : List Core
  /-- the four management cores, and bytes of their tightly coupled SRAM (R39, R40; log entry 67) -/
  mcores : List Hart
  tcm : List Host.Cell
  wakes : List (Nat × Nat)
  hot : List (Nat × HotEntry)
  /-- finished-tile queues: entries with their tile, 9 × cluster + physical tile, oldest first (R323) -/
  tileq : List (Nat × TileEntry)
  /-- LAST_PASS of a tile before the checks of a step: tile, step, value (R275; the model's own, log entry 75) -/
  passBase : List (Nat × Nat × Nat)
  fab : Fabric
  mgr : Manager
  clock : Clock
  rst : ResetM
  stores : Stores
  pow : Power
  sec : Secure
  log : EvLog
  /-- the model's own counter of free values (log entry 8) -/
  freeCtr : Nat
deriving DecidableEq, Repr

def Ctx.reset : Ctx :=
  { ctrHead := 0, ctrTail := 0, ctrPhase := true, armTag := 0#32, epochs := [], satLg := [], nanLg := [],
    ratios := [], flagsLg := [], errMask := 0, implFrom := none, badGranule := 0, lastBad := 0, stepCnt := {}, histMax := [],
    tlmUnsent := none, deltasStep := 0, deltasFail := false, jnlHead := 0, runOn := 0, runOnFired := false,
    ranks := [], rankVersion := 0, oflNext := 0, layers := [], ofl := [], backs := [], lostDev := none, repair := none, waitParity := none, weights := [], outAtStop := [] }

def Hart.reset : Hart :=
  { user := false, mie := false, mpie := false, mppUser := false, mtvec := 0, mepc := 0, mcause := 0, mtval := 0 }

def Core.reset : Core :=
  { hart := Hart.reset, x := [], sc := [], tabBase := 0, tabCount := 0, vfail := 0, dcache := [], trap := none, loaded := [], waiting := none }

def HostIf.reset : HostIf :=
  { cqs := [], sqPf := [], raised := [], held := [], msixOff := [], masked := [], trained := [], perst := [],
    busMaster := false, bar4Log2 := 30, lastRead := none, latches := [], planCache := [] }

def Fabric.reset : Fabric :=
  { send := [], recv := [], groups := [], sendGroups := [], creditsUsed := [], creditsDue := [], buf := [],
    outbox := [], links := [], hopExpired := 0, pktAged := 0, badKind := 0, admitted := false,
    injectOff := false, denyAt := [], joinAt := 0, beatAt := 0, timeAt := 0, mgrHeard := 0, mgrLost := false,
    windows := [], queries := [] }

def Manager.reset : Manager := { members := [], jobs := [], ranks := [], fwInbox := [] }

def Clock.reset : Clock :=
  { now := 0, fab := 0, slew := 0, fabSet := false, lostLogged := false, cal := 0, calFrac := 0, calHold := 0,
    calLatch := 0#32, calFixAt := 0, pldmTime := none, reqT1 := none, ppsAt := none }

/-- Level 3 reset just recognised, rails and reference within rating, no pin asserted (log entry 4). -/
def ResetM.reset : ResetM :=
  { phase := .asserted, level := 3, source := 0, aodUp := false, clockHeld := false, leakHeld := false,
    emergHeld := false, emergClearAt := none, rail54 := true, rail33 := true, refOk := true, rstLow := false,
    wrstLow := false, leakLow := false, faultL := false, ppsOut := false,
    pins := List.replicate 9 { drive := 0, pull := 0 }, strapRole := 0, strapDev := 0, role := 0,
    wdtStart := 0, wdtLast := none, clusterInReset := [], stacksIn := [] }

/-- The fuses of an XK-9400M of stepping A0, one image-signing key, no debug key, and empty stores (log entry 4). -/
def Stores.reset : Stores :=
  { variant := 1, stepping := 16, serial := 0, pinMap := List.replicate 9 0,
    keyDigests := [Config.sha384 (Config.standardBytes 20)], keyRevoked := [], debugDigests := [], rollback := 0, retired := [], lastPass := [], rowsRemapped := [], lanesRepaired := [],
    rowErrs := [], remaps := [] }

def Power.reset : Power :=
  { asleep := [], deepDies := [], ioLight := [], ioDeep := [], activeAt := [], flow100 := 0, tin := none,
    tout := none, coolSeen := false, thermSeen := false, dieTemp := 0, slowIssue := 0, clamp := false, clampBelow := none,
    cclk := 1800, grantNext := none, lent := [], poolOffers := [], refreshDouble := [], wakes := [] }

/-- The image that the flash holds as delivered: opaque bytes, SVN 0 (log entry 4). -/
def Image.factory : Image :=
  { bytes := Config.standardBytes 22, body := 0, svn := 0, commit := false, key := Config.standardBytes 20,
    sig := Config.standardBytes 21 }

def Secure.reset : Secure :=
  { slotA := some Image.factory, slotB := none, activeB := false, running := none, runB := false, meas := [], debugHigh := 0, nonceAt := 0,
    nonceCtr := 0, spdm := 0, eid := 0, evReceiver := none, update := none, updateOk := false, replies := [],
    aliasIssued := 0 }

/-- The machine right after reset: every register at the reset value its rule states (an empty register
list), no command waiting, nothing in memory. -/
def State.reset : State :=
  { pending := [], regs := [], mem := [], diacs := [], poison := [], wc := [], insts := [], nextInst := 0,
    host := HostIf.reset, ctxs := List.replicate 16 Ctx.reset, cores := List.replicate 32 Core.reset,
    mcores := List.replicate 4 Hart.reset, tcm := [],
    wakes := [], hot := [], tileq := [], passBase := [], fab := Fabric.reset, mgr := Manager.reset, clock := Clock.reset,
    rst := ResetM.reset, stores := Stores.reset, pow := Power.reset, sec := Secure.reset,
    log := { recs := [], next := 1 }, freeCtr := 0 }

end Sys2Proof.Machine
end

