-- ==== Sys2Proof/WellFormed.lean ====
section
/-! DEFINITION. Which commands name units, rings, packets and fields that exist (R9, R58 to R72, R126, R455, R578). -/
namespace Sys2Proof

/-- A requester that exists. -/
def Fn.wf : Fn → Bool
  | .pf => true
  | .vf n => decide (n < 16)
  | .mgmt => true
  | .core c => decide (c < 32)

/-- Requesters on PCIe: function 0 and the VFs (R61). -/
def Fn.isHost : Fn → Bool
  | .pf => true
  | .vf _ => true
  | .mgmt => false
  | .core _ => false

/-- Doorbell pages: 1,024 for function 0, 64 for a VF (R61, R72). -/
def Fn.pageOk (f : Fn) (page : Nat) : Bool :=
  match f with
  | .pf => decide (page < 1024)
  | .vf _ => decide (page < 64)
  | .mgmt => false
  | .core _ => false

/-- The context that a requester's own block is, or any context of function 0 and the management complex. -/
def Fn.ctxOk (f : Fn) (n : Nat) : Bool :=
  match f with
  | .vf m => decide (m = n)
  | .pf => true
  | .mgmt => true
  | .core _ => true

def PKind.wf : PKind → Bool
  | .reserved k => decide (11 ≤ k ∧ k < 16)
  | _ => true

/-- Header and trailer fields within their widths (R578, R579). -/
def Packet.wf (p : Packet) : Bool :=
  decide (p.dst < 65536 ∧ p.src < 65536 ∧ p.job < 4096 ∧ p.tc < 4 ∧ p.vc < 2 ∧ p.epoch < 2 ∧ p.hopLimit < 32 ∧
    p.group < 65536 ∧ p.addr < 2 ^ 48 ∧ p.seqFloor < 2 ^ 24 ∧ p.arg < 2 ^ 32 ∧ p.payload.length ≤ 512 ∧ p.seq < 2 ^ 24) &&
  p.kind.wf

/-- A wake event that names existing units. -/
def WakeEv.wf : WakeEv → Bool
  | .doorbell => true
  | .lane q => decide (q < 0xEF)
  | .semaphore u b => decide (u < 36 ∧ b < 128)
  | .packet c => decide (c < 32)
  | .management u => decide (u < 38)

def Flip.wf (f : Flip) : Bool := decide (f.tile < 9)

def ColdObs.wf (o : ColdObs) : Bool :=
  (o.tileFails.all fun t => decide (t.1 < 32 ∧ t.2 < 9)) &&
  (match o.otherFail with | none => true | some p => decide (p.1 < 7 ∧ p.2 < 256)) &&
  (o.stackFails.all fun k => decide (k < 12)) && (o.laneRepairs.all fun p => decide (p.1 < 12)) && (o.linkFails.all fun l => decide (l < 64)) &&
  (o.peers.all fun p => decide (p.1 < 64 ∧ p.2.1 < 256 ∧ p.2.2 < 65536))

/-- The commands whose operands name things that exist. -/
def Instr.wf : Instr → Bool
  | .sqTailDb f page off width value => f.wf && f.pageOk page && decide (off < 4096 ∧ width ≤ 8 ∧ value < 256 ^ width)
  | .cqHeadDb f page off width value => f.wf && f.pageOk page && decide (off < 4096 ∧ width ≤ 8 ∧ value < 256 ^ width)
  | .ctrHeadDb f ctx value => f.wf && f.ctxOk ctx && decide (ctx < 16 ∧ value < 2 ^ 32)
  | .descriptorFetch sq _ => decide (sq < 1024)
  | .descriptorAccessStart _ => true
  | .completionRecord _ => true
  | .cqCoalTimer cq => decide (cq < 1024)
  | .move _ => true
  | .gemm _ flips => flips.all Flip.wf
  | .vstream _ => true
  | .quant _ => true
  | .gather _ => true
  | .scatter _ => true
  | .scatterAdd _ => true
  | .hotLoad _ => true
  | .hotInvalidate _ => true
  | .route _ => true
  | .permute _ => true
  | .combine _ => true
  | .scan _ => true
  | .update _ => true
  | .openWin _ => true
  | .send _ => true
  | .verify _ => true
  | .parity _ => true
  | .topk _ => true
  | .semAdd _ => true
  | .semSub _ => true
  | .semWaitGe _ => true
  | .semAcquire _ => true
  | .semSet _ => true
  | .semRead _ => true
  | .rseal _ => true
  | .fence _ => true
  | .stepDesc _ => true
  | .stepClose _ => true
  | .plan _ => true
  | .dump _ => true
  | .parityInit _ => true
  | .drain _ => true
  | .restore _ => true
  | .rebuild _ => true
  | .rearmStart ctx handle => decide (ctx < 16 ∧ handle < 256)
  | .windowComplete job wid _ => decide (job < 4096 ∧ wid < 2 ^ 20)
  | .packetForward die link p => decide (die < 4) && (match link with | none => true | some l => decide (l < 64)) && p.wf
  | .packetAgeExpiry _ => true
  | .write p => p.wf
  | .readReq p => p.wf
  | .readRsp p => p.wf
  | .signal p => p.wf
  | .semOp p => p.wf
  | .diac p => p.wf
  | .dense p => p.wf
  | .sparse p => p.wf
  | .digest p => p.wf
  | .expq p => p.wf
  | .expr p => p.wf
  | .expqRetry _ => true
  | .sumcmp p => p.wf
  | .parityPacket p => p.wf
  | .ack p => p.wf
  | .nack p => p.wf
  | .ackSend src => decide (src < 65536)
  | .cgCancel p => p.wf
  | .resendTimeout dst seq => decide (dst < 65536 ∧ seq < 2 ^ 24)
  | .busyResend dst seq => decide (dst < 65536 ∧ seq < 2 ^ 24)
  | .peerUnreachable p => p.wf
  | .creditReturnTimer m => decide (m < 64)
  | .flowEviction src => decide (src < 65536)
  | .linkTrainingStart l => decide (l < 64)
  | .linkTrainingEnd l _ port dev => decide (l < 64 ∧ port < 256 ∧ dev < 65536)
  | .linkFailed l _ => decide (l < 64)
  | .linkSignalLoss l => decide (l < 64)
  | .linkState p => p.wf
  | .retrain f l => f.wf && decide (l < 64)
  | .linkEnable f l _ => f.wf && decide (l < 64)
  | .join => true
  | .admitMsg p => p.wf
  | .heartbeatSend => true
  | .heartbeat p => p.wf
  | .memberSuspect m => decide (m < 64)
  | .managerLost => true
  | .tGrace m => decide (m < 64)
  | .timeExchange => true
  | .timeReq p => p.wf
  | .timeRsp p => p.wf
  | .ppsIn => true
  | .ppsOut => true
  | .stepDone p => p.wf
  | .fullStop p => p.wf
  | .rollback p => p.wf
  | .deltasDone p => p.wf
  | .parityStop p => p.wf
  | .resume p => p.wf
  | .rankTable p => p.wf
  | .warmNotice p => p.wf
  | .rejoin p => p.wf
  | .semWake u b => decide (u < 36 ∧ b < 128)
  | .waiterLend port => decide (port < 3824)
  | .poolOffer c => decide (c < 32)
  | .runOnFire ctx => decide (ctx < 16)
  | .semInstruction c rd sop _ _ => decide (c < 32 ∧ rd < 32 ∧ sop < 8)
  | .vstab c _ _ => decide (c < 32)
  | .vissue c _ => decide (c < 32)
  | .vwait c rd => decide (c < 32 ∧ rd < 32)
  | .scw c rd _ => decide (c < 32 ∧ rd < 32)
  | .scr c rd rs1 => decide (c < 32 ∧ rd < 32 ∧ rs1 < 32)
  | .cacheInvalidate c addr len => decide (c < 32 ∧ addr < 2 ^ 64 ∧ len < 2 ^ 32)
  | .coreRemoteAccess c addr store => decide (c < 36 ∧ addr < 2 ^ 64 ∧ 1 ≤ store.len ∧ store.len ≤ 8)
  | .bind f ctx => f.wf && f.ctxOk ctx && decide (ctx < 16)
  | .start f ctx => f.wf && f.ctxOk ctx && decide (ctx < 16)
  | .quiesce f ctx => f.wf && f.ctxOk ctx && decide (ctx < 16)
  | .abort f ctx => f.wf && f.ctxOk ctx && decide (ctx < 16)
  | .release f ctx => f.wf && f.ctxOk ctx && decide (ctx < 16)
  | .flr vf => decide (vf < 16)
  | .sqEnable f sq _ => f.wf && f.ctxOk (sq / 64) && decide (sq < 1024)
  | .sqDisable f sq _ => f.wf && f.ctxOk (sq / 64) && decide (sq < 1024)
  | .cqEnable f cq _ => f.wf && f.ctxOk (cq / 64) && decide (cq < 1024)
  | .cqDisable f cq _ => f.wf && f.ctxOk (cq / 64) && decide (cq < 1024)
  | .fetchErrClear f sq => f.wf && f.ctxOk (sq / 64) && decide (sq < 1024)
  | .ringEnable f c r ctx => f.wf && decide (c < 32 ∧ r < 64 ∧ ctx < 16)
  | .lexHotEn f n _ => f.wf && decide (n < 8)
  | .semBankOwnerWrite f u b _ => f.wf && decide (u < 36 ∧ b < 128)
  | .debugSemWrite f u i _ => f.wf && decide (u < 36 ∧ i < 8192)
  | .step0Write f ctx _ => f.wf && f.ctxOk ctx && decide (ctx < 16)
  | .arm f ctx => f.wf && f.ctxOk ctx && decide (ctx < 16)
  | .disarm f ctx => f.wf && f.ctxOk ctx && decide (ctx < 16)
  | .dbgChallenge f => f.wf
  | .submit f level slot => f.wf && decide (level < 4 ∧ slot < 2)
  | .drop f => f.wf
  | .go f level cluster => f.wf && decide (level < 4 ∧ cluster < 32)
  | .marginRun f k _ => f.wf && decide (k < 12)
  | .marginRunEnd k lo hi => decide (k < 12 ∧ lo < 64 ∧ hi < 64)
  | .evlogSel f seq => f.wf && decide (seq < 2 ^ 32)
  | .fabricTimeLoRead f => f.wf
  | .calLoRead f => f.wf
  | .bar4Access f off len data => f.wf && f.isHost && decide (off < 2 ^ 39 ∧ len ≤ 4096) &&
      (match data with | none => true | some d => decide (d.length = len))
  | .broadcastWrite f off _ => f.wf && decide (0x2000000 ≤ off ∧ off < 0x3000000)
  | .broadcastRead f off => f.wf && decide (0x2000000 ≤ off ∧ off < 0x3000000)
  | .registerWrite f off _ => f.wf && decide (off < 0x4000000 ∨ (2 ^ 32 ≤ off ∧ off < 2 ^ 32 + 0x10000))
  | .powerOn _ => true
  | .brownOut3v3 => true
  | .brownOut54v => true
  | .rstL _ => true
  | .wrstL _ => true
  | .resetRelease => true
  | .perst port _ => decide (port < 2)
  | .watchdogExpiry => true
  | .debugReset f level cluster => f.wf && decide (level < 2 ∧ cluster < 32)
  | .clockFailure => true
  | .clockReturn => true
  | .controlCoreLockup c => decide (c < 32)
  | .managementCoreLockup => true
  | .clusterReset c => decide (c < 32)
  | .warmReset => true
  | .coldRelease o => o.wf
  | .powerOnRelease => true
  | .leakL _ => true
  | .emergencyPowerDown _ => true
  | .flowCount _ => true
  | .thermistorRead _ _ => true
  | .slowLoop _ _ _ _ => true
  | .fastClamp _ => true
  | .clampRelease _ => true
  | .clusterSleep c => decide (c < 32)
  | .dieDeep d => decide (d < 2)
  | .ioDieLight d => decide (d < 4)
  | .ioDieDeep d => decide (d < 4)
  | .wakeEvent e => e.wf
  | .dieWake d => decide (d < 2)
  | .wcFlush _ => true
  | .patrolScrub _ _ off _ => decide (off < 2 ^ 47)
  | .channelRetrain k ch _ _ => decide (k < 12 ∧ ch < 64)
  | .tempReport k temp => decide (k < 12 ∧ temp < 256)
  | .calendarCorrection => true
  | .getVersion => true
  | .getCapabilities => true
  | .negotiateAlgorithms _ => true
  | .getDigests => true
  | .getCertificate slot _ _ => decide (slot < 8)
  | .challenge slot nonce => decide (slot < 8 ∧ nonce.length = 32)
  | .getMeasurements index nonce => decide (index < 256 ∧ nonce.length = 32)
  | .getSensorReading _ => true
  | .getPdr _ => true
  | .setEventReceiver eid => decide (eid < 256)
  | .setDateTime _ => true
  | .getFruRecordTable => true
  | .firmwareUpdate _ _ _ => true
  | .verifyComplete => true
  | .activateFirmware => true
  | .joinReceived p => p.wf
  | .rankRecord p => p.wf
  | .p54vRestored => true
  | .leakLDeassert => true
  | .pcieLinkTraining port _ => decide (port < 2)
  | .endpointId eid => decide (eid < 256)

end Sys2Proof
end

