-- ==== Sys2Proof/Machine/Ops.lean ====
section
/-! DEFINITION. The named operations over registers, the event log, interrupts, memory, Diacritics and descriptors in flight. -/
namespace Sys2Proof.Machine

/-- The outcome of a command: its next state where it is well formed, the fault noSuchUnit where not. -/
@[inline] def act (c : Instr) (s' : State) : Host.Outcome State Fault Refusal :=
  if c.wf then .next s' else .fault .noSuchUnit

/-! ## Registers -/

/-- The reset value of the register at a canonical offset. -/
def resetWordAt (off : Nat) : Word := match findRow off with | some r => r.resetWord | none => 0#32

/-- The register at a canonical offset. -/
def State.reg (s : State) (off : Nat) : Word :=
  match s.regs.find? (fun e => e.1 == off) with
  | some e => e.2
  | none => resetWordAt off

def State.setReg (s : State) (off : Nat) (v : Word) : State := { s with regs := sput off v s.regs }

/-- A field of a register. -/
def State.rf (s : State) (off lo w : Nat) : Nat := fld (s.reg off) lo w

/-- A field of a register set by the hardware. -/
def State.setF (s : State) (off lo w x : Nat) : State := s.setReg off (setFld (s.reg off) lo w x)

/-- A saturating counter register counts `n` more (R841). -/
def State.countF (s : State) (off w n : Nat) : State := s.setF off 0 w (satAdd w (s.rf off 0 w) n)

/-- Register values back to reset where a predicate on the offset holds. -/
def State.dropRegs (s : State) (p : Nat → Bool) : State := { s with regs := s.regs.filter fun e => !p e.1 }

/-! Offsets of the blocks (R67, R68, R122). -/

def ctxOff (n rel : Nat) : Nat := 0x80000 + 0x8000 * n + rel
def dieOff (d rel : Nat) : Nat := 0x100000 + 0x40000 * d + rel
def linkOff (l rel : Nat) : Nat := dieOff (l / 16) (0x2000 * (l % 16) + rel)
def stackOff (k rel : Nat) : Nat := 0x200000 + 0x10000 * k + rel
def clusterOff (c rel : Nat) : Nat := 0x1000000 + 0x40000 * c + rel
def sqOff (g rel : Nat) : Nat := 0x50000 + 0x40 * g + rel
def cqOff (g rel : Nat) : Nat := 0x60000 + 0x40 * g + rel
def globalStatus : Nat := 0x20

/-- A word of a job-context block. -/
def State.jr (s : State) (n rel : Nat) : Nat := (s.reg (ctxOff n rel)).toNat
/-- A 64-bit register pair of a job-context block. -/
def State.jr64 (s : State) (n rel : Nat) : Nat := s.jr n rel + 2 ^ 32 * s.jr n (rel + 4)

/-- Fitted I/O dies and stacks of the variant (R5, R21). -/
def State.ioDies (s : State) : Nat := if s.stores.variant ≤ 3 then s.stores.variant + 1 else 4
def State.stacks (s : State) : Nat := 14 - 2 * s.stores.variant

def State.devId (s : State) : Nat := s.rf (dieOff 0 0x38008) 0 16
def State.jobId (s : State) (n : Nat) : Nat := s.rf (ctxOff n 8) 0 12
def State.expertEn (s : State) (n : Nat) : Bool := s.rf (ctxOff n 8) 12 1 == 1
/-- JOB_STATUS.STATE (R99): 0 FREE, 1 BOUND, 2 ACTIVE, 3 QUIESCING, 4 RECOVERY, 5 FAULTED. -/
def State.jobState (s : State) (n : Nat) : Nat := s.rf (ctxOff n 4) 0 3
def State.setJobState (s : State) (n v : Nat) : State := s.setF (ctxOff n 4) 0 3 v
def State.ready (s : State) : Bool := s.rf globalStatus 0 1 == 1

/-- The contexts in which a job is bound. -/
def State.ctxsOf (s : State) (job : Nat) : List Nat :=
  (List.range 16).filter fun n => s.jobState n != 0 && s.jobId n == job

def State.ctxOf? (s : State) (job : Nat) : Option Nat := (s.ctxsOf job).head?

def State.ctx (s : State) (n : Nat) : Ctx := s.ctxs.getD n Ctx.reset
def State.modCtx (s : State) (n : Nat) (f : Ctx → Ctx) : State := { s with ctxs := modNth f n s.ctxs }
def State.core (s : State) (c : Nat) : Core := s.cores.getD c Core.reset
def State.modCore (s : State) (c : Nat) (f : Core → Core) : State := { s with cores := modNth f c s.cores }

/-- FS_STEP and PS_STEP (R681). -/
def State.fsStep (s : State) (n : Nat) : Nat := s.jr n 0x804
def State.psStep (s : State) (n : Nat) : Nat := s.jr n 0x808
/-- DETECT_N, BANKS, GROUP_G with the values that act (R681). -/
def State.detectN (s : State) (n : Nat) : Nat := let v := s.rf (ctxOff n 0x800) 0 4; if v = 0 then 1 else min v 8
def State.banks (s : State) (n : Nat) : Nat := let v := s.rf (ctxOff n 0x800) 4 3; if 2 ≤ v ∧ v ≤ 4 then v else 2
def State.parityEn (s : State) (n : Nat) : Bool := s.rf (ctxOff n 0x800) 8 1 == 1
def State.shares (s : State) (n : Nat) : Nat := s.rf (ctxOff n 0x800) 9 1 + 1
def State.groupG (s : State) (n : Nat) : Nat := let v := s.rf (ctxOff n 0x800) 10 5; if 4 ≤ v ∧ v ≤ 16 then v else 4

/-- MISMATCH and OUT_OF_SERVICE state of clusters (R283). -/
def State.outOfService (s : State) (c : Nat) : Bool := s.rf (clusterOff c 0x104) 20 1 == 1

/-! ## Free values -/

/-- Draw the next free value (log entry 8). -/
def State.free (s : State) (w : Nat) : Nat × State :=
  ((Config.freeValue s.freeCtr).toNat % 2 ^ w, { s with freeCtr := s.freeCtr + 1 })

/-! ## Interrupts and the event log -/

/-- Raise an MSI-X vector; held pending while masked or disabled (R65, R846). -/
def State.raise (s : State) (fn vector : Nat) : State :=
  let q : Irq := ⟨fn, vector⟩
  if s.host.msixOff.contains fn || s.host.masked.contains q then { s with host := { s.host with held := s.host.held ++ [q] } }
  else { s with host := { s.host with raised := s.host.raised ++ [q] } }

/-- The vectors of a function that pend and are no longer disabled or masked are sent (R846). -/
def State.sendHeld (s : State) (fn : Nat) : State :=
  let go := fun (q : Irq) => q.fn == fn && !s.host.msixOff.contains fn && !s.host.masked.contains q
  { s with host := { s.host with raised := s.host.raised ++ s.host.held.filter go, held := s.host.held.filter fun q => !go q } }

/-- Severity of a record type: stated for LINK_FAILED only (R806 and its example; log entry 15). -/
def severity (type : Nat) : Nat := if type = 0x0403 then 0 else Config.severity type % 4

/-- Write an event-log record (R806): word 0, SEQ, calendar count, four type-specific words (log entry 16);
the ring holds 2,048; function 0 vector 0 is raised (R65). -/
def State.logEv (s : State) (type job : Nat) (ws : List Nat) : State :=
  let w0 := type + severity type * 2 ^ 16 + job % 4096 * 2 ^ 18 + s.rf 0x10048 0 1 * 2 ^ 30
  let r : List Word := [BitVec.ofNat 32 w0, BitVec.ofNat 32 s.log.next, BitVec.ofNat 32 s.clock.cal,
    BitVec.ofNat 32 (s.clock.cal / 2 ^ 32)] ++ (List.range 4).map fun k => BitVec.ofNat 32 (ws.getD k 0)
  let recs := s.log.recs ++ [(s.log.next, r)]
  State.raise { s with log := { recs := recs.drop (recs.length - 2048), next := s.log.next + 1 } } 0 0

/-- ACCESS_VIOLATION naming the job context and an offset or address (R18, R796). -/
def State.logViolation (s : State) (n addr : Nat) : State :=
  s.logEv 0x0101 (s.jobId n) [n, addr % 2 ^ 32, addr / 2 ^ 32]

/-- The FULL_STOP, ROLLBACK and RECOVERY_DONE records carry fabric time in words 4 and 5 (R806). -/
def State.logTimed (s : State) (type job a b : Nat) : State :=
  s.logEv type job [s.clock.fab % 2 ^ 32, s.clock.fab / 2 ^ 32 % 2 ^ 32, a, b]

/-! ## Addresses (R625, R66, R847) -/

inductive Place where
  | reg (off : Nat)
  | ssm (c off : Nat)
  | hbm (off : Nat)
  | host (a : Nat)
  | none
deriving DecidableEq, Repr

def hbmBase : Nat := 0x10000000000
def ssmBase (c : Nat) : Nat := 0x10000000 + 0x1000000 * c
def ssmSize : Nat := 0xC00000
def hostBit : Nat := 2 ^ 47

/-- HBM data bytes in service (R623). -/
def State.dataBytes (s : State) : Nat := (s.reg 0x2F0000).toNat * 2 ^ 20

def State.place (s : State) (a : Nat) : Place :=
  if a < 0x4000000 then .reg a
  else if 0x10000000 ≤ a ∧ a < 0x30000000 then
    if (a - 0x10000000) % 0x1000000 < ssmSize then .ssm ((a - 0x10000000) / 0x1000000) ((a - 0x10000000) % 0x1000000) else .none
  else if hostBit ≤ a ∧ a < 2 * hostBit then .host (a - hostBit)
  else if hbmBase ≤ a ∧ a < hbmBase + s.dataBytes then .hbm (a - hbmBase)
  else .none

/-- All of [a, a + n) lies in one mapped range. -/
def State.mapped (s : State) (a n : Nat) : Bool :=
  match s.place a, s.place (a + (n - 1)) with
  | .reg _, .reg _ => true
  | .ssm c _, .ssm d _ => c == d
  | .hbm _, .hbm _ => true
  | .host _, .host _ => true
  | _, _ => false

def isHost (a : Nat) : Bool := decide (hostBit ≤ a)

/-- Host transfers can be made: port 1 trained, or port 0 out of PERST with Bus Master Enable (R57, R735). -/
def State.hostUp (s : State) : Bool :=
  (s.host.trained.contains 1 && !s.host.perst.contains 1) || (!s.host.perst.contains 0 && s.host.busMaster)

/-- The DRAM location of a 256 B line (R626). -/
structure DramLoc where
  stack : Nat
  channel : Nat
  sid : Nat
  bank : Nat
  column : Nat
  row : Nat
deriving DecidableEq, Repr

def hbmMap (a n : Nat) : DramLoc :=
  let p := 64 * n
  let line := a / 256
  let u := line / p
  let h := (bits u 0 10) ^^^ (bits u 10 10) ^^^ (bits u 20 10)
  let pc := (line % p + h) % p
  ⟨pc / 64, pc % 64, bits u 4 2, (bits u 0 4) ^^^ (bits u 8 4), bits u 6 2, u / 256⟩

/-- Stacks in service, by their index among those in service (R626). -/
def State.stacksOk (s : State) : Nat := s.rf 0x10 24 4

/-! ## Memory -/

/-- Bytes from `a` up, walking a sorted list whose keys are not below `a`. -/
def walk : List Host.Cell → Nat → Nat → List Byte
  | _, _, 0 => []
  | [], a, n + 1 => 0#8 :: walk [] (a + 1) n
  | (k, v) :: t, a, n + 1 => if k = a then v :: walk t (a + 1) n else 0#8 :: walk ((k, v) :: t) (a + 1) n

/-- `n` bytes from `a` up; an unlisted byte reads 0 (log entry 3). -/
def memRead (m : List Host.Cell) (a n : Nat) : List Byte := walk (m.dropWhile fun c => decide (c.1 < a)) a n

/-- One byte. -/
def memByte (m : List Host.Cell) (a : Nat) : Byte := sget 0#8 m a

/-- The cells of a byte string at `a`, zeros left out. -/
def cells : Nat → List Byte → List Host.Cell
  | _, [] => []
  | a, b :: t => if b = 0#8 then cells (a + 1) t else (a, b) :: cells (a + 1) t

/-- Write a byte string at `a`, keeping the canonical form. -/
def memWrite (m : List Host.Cell) (a : Nat) (bs : List Byte) : List Host.Cell :=
  (m.takeWhile fun c => decide (c.1 < a)) ++ cells a bs ++ (m.dropWhile fun c => decide (c.1 < a + bs.length))

/-- Remove every cell from `a` up to `b`: those bytes read 0 again. -/
def memClear (m : List Host.Cell) (a b : Nat) : List Host.Cell :=
  m.filter fun c => decide (c.1 < a) || decide (b ≤ c.1)

/-- The canonical form: keys strictly rising, no zero byte listed. -/
def Memory.wf (m : List Host.Cell) : Bool := swf 0#8 m

/-- Bytes of a register block seen as memory: the values of R625's register range. -/
def State.regBytes (s : State) (a n : Nat) : List Byte :=
  (List.range n).map fun i => BitVec.ofNat 8 ((s.reg (canonOff ((a + i) / 4 * 4))).toNat / 256 ^ ((a + i) % 4))

/-! ### Write combining (R635 to R637) -/

/-- A write of `n` bytes at HBM offset `o` reaches the write-combining buffers, line by line. -/
def State.wcLine (s : State) (line : Nat) (ps : List Nat) : State :=
  let old := s.wc.find? fun e => e.line == line
  let rest := s.wc.filter fun e => e.line != line
  let mask := ps.foldl (fun l p => insNat p l) (match old with | some e => e.mask | none => [])
  if mask.length = 256 then { s with wc := rest }
  else
    let ch := fun l => let d := hbmMap (256 * l) (max 1 s.stacksOk); 64 * d.stack + d.channel
    let same := rest.filter fun e => ch e.line == ch line
    let rest := if old.isNone ∧ 64 ≤ same.length then
        match same with | e :: _ => rest.filter fun x => x.line != e.line | [] => rest
      else rest
    { s with wc := rest ++ [⟨line, mask, match old with | some e => e.since | none => s.clock.now⟩] }

def State.wcTouch (s : State) (o n : Nat) : State :=
  (upto (o / 256) (cdiv (o % 256 + n) 256)).foldl (fun s line =>
    let lo := if line = o / 256 then o % 256 else 0
    let hi := min 256 (o + n - 256 * line)
    s.wcLine line (upto lo (hi - lo))) s

/-! ### Physical accesses -/

/-- Codewords of 64 B that [a, a + n) touches, and those it covers whole. -/
def touchedCw (a n : Nat) : List Nat := if n = 0 then [] else upto (a / 64) ((a + n - 1) / 64 + 1 - a / 64)
def coveredCw (a n : Nat) : List Nat := upto (cdiv a 64) ((a + n) / 64 - cdiv a 64)

/-- Physical write of bytes: memory, poison cleared from whole codewords (R641), write combining. -/
def State.wrPhys (s : State) (a : Nat) (bs : List Byte) : State :=
  if bs.isEmpty then s
  else if hbmBase ≤ a ∧ a < hostBit then
    let cov := coveredCw a bs.length
    State.wcTouch { s with mem := memWrite s.mem a bs, poison := s.poison.filter fun c => !cov.contains c } (a - hbmBase) bs.length
  else { s with mem := memWrite s.mem a bs }

/-- Poison in a physical range (R639). -/
def State.poisonPhys (s : State) (a n : Nat) : Bool :=
  decide (hbmBase ≤ a) && decide (a < hostBit) && (touchedCw a n).any fun c => s.poison.contains c

/-- The codeword of the Diacritic region that holds the Diacritic of the HBM granule at `a`, and whether it is poisoned
(R639, R653). -/
def diacCw (a : Nat) : Nat := 2 ^ 42 + a / 16384
def State.diacPoison (s : State) (a : Nat) : Bool := decide (hbmBase ≤ a) && decide (a < hostBit) && s.poison.contains (diacCw a)

/-- The stored Diacritic of the HBM or SSM granule at physical local address `a` (R653, R654). -/
def State.diacPhys (s : State) (a : Nat) : Word := BitVec.ofNat 32 (leNat (memRead s.diacs (4 * (a / 1024)) 4))
def State.setDiacPhys (s : State) (a : Nat) (w : Word) : State :=
  { s with diacs := memWrite s.diacs (4 * (a / 1024)) (leBytes 4 w.toNat) }

/-! ### Checkpoint regions (R683 to R690) -/

structure Region where
  r : Nat
  base : Nat
  size : Nat
  stride : Nat
  map : Nat
  kind : Nat
  img : Bool
deriving DecidableEq, Repr

def mib : Nat := 2 ^ 20

def State.region (s : State) (n r : Nat) : Region :=
  let o := 0x900 + 0x20 * r
  ⟨r, s.jr64 n o, s.rf (ctxOff n (o + 8)) 0 24 * mib, s.rf (ctxOff n (o + 12)) 0 24 * mib, s.jr64 n (o + 16),
    s.rf (ctxOff n (o + 24)) 0 2, s.rf (ctxOff n (o + 24)) 2 1 == 1⟩

/-- Enabled regions of a context. -/
def State.regions (s : State) (n : Nat) : List Region :=
  ((List.range 32).map (s.region n)).filter fun g => g.size != 0 && g.kind != 3

def Region.has (g : Region) (a : Nat) : Bool := decide (g.base ≤ a) && decide (a < g.base + g.size)

/-- [a, a + n) touches a bank other than bank 0 of the region (R684). -/
def Region.bankHit (g : Region) (d a n : Nat) : Bool :=
  g.kind != 1 && (upto 1 (d - 1)).any fun k =>
    decide (a < g.base + k * g.stride + g.size) && decide (g.base + k * g.stride < a + n)

def State.regionAt (s : State) (n a : Nat) : Option Region :=
  if a < hbmBase then none else (s.regions n).find? fun g => g.has a

def State.running (s : State) (n : Nat) : Bool := s.jobState n == 2 || s.jobState n == 3

/-- The open step of a region (R686). -/
def State.openStep (s : State) (n : Nat) (g : Region) : Nat := (if g.kind = 2 then s.psStep n else s.fsStep n) + 1

/-- LAST and PREV of granule `k` of a region. -/
def State.tagLast (s : State) (g : Region) (k : Nat) : Nat := leNat (memRead s.mem (g.map + 8 * k) 4)
def State.tagPrev (s : State) (g : Region) (k : Nat) : Nat := leNat (memRead s.mem (g.map + 8 * k + 4) 4)
def State.setTags (s : State) (g : Region) (k last prev : Nat) : State :=
  { s with mem := memWrite s.mem (g.map + 8 * k) (leBytes 4 last ++ leBytes 4 prev) }

/-- Address of granule `k` in a bank. -/
def Region.bankAddr (g : Region) (bank k : Nat) : Nat := g.base + bank * g.stride + 1024 * k

/-- The bank a read of granule `k` takes (R686). -/
def State.readBank (s : State) (n : Nat) (g : Region) (k : Nat) : Nat :=
  let t := s.openStep n g
  if g.kind = 1 then 0
  else if !s.running n then (t - 1) % s.banks n
  else if s.tagLast g k = t then t % s.banks n else (t - 1) % s.banks n

/-- The physical address that a read of local address `a` by context `n` reaches; `none`: no context, no redirection. -/
def State.physRead (s : State) (n : Option Nat) (a : Nat) : Nat :=
  match n with
  | none => a
  | some n =>
    match s.regionAt n a with
    | none => a
    | some g => g.bankAddr (s.readBank n g ((a - g.base) / 1024)) 0 + (a - g.base)

/-- Bytes as seen by context `n` at a local address, within one granule. -/
def State.rdPiece (s : State) (n : Option Nat) (a len : Nat) : List Byte :=
  match s.place a with
  | .reg _ => s.regBytes a len
  | .none => List.replicate len 0#8
  | _ => memRead s.mem (s.physRead n a) len

/-- Cut [a, a + n) at granule boundaries: (address, length). -/
def granPieces (a n : Nat) : List (Nat × Nat) :=
  if n = 0 then [] else
  (upto (a / 1024) ((a + n - 1) / 1024 + 1 - a / 1024)).map fun g =>
    let lo := max a (1024 * g)
    (lo, min (a + n) (1024 * g + 1024) - lo)

/-- `len` bytes at a local address, as a descriptor, core or peer of context `n` reads them. -/
def State.rd (s : State) (n : Option Nat) (a len : Nat) : List Byte :=
  (granPieces a len).flatMap fun p => s.rdPiece n p.1 p.2

def State.rdPoison (s : State) (n : Option Nat) (a len : Nat) : Bool :=
  (granPieces a len).any fun p => s.poisonPhys (s.physRead n p.1) p.2

/-- MEM_POISON with the HBM offset of the first poisoned codeword that physical ranges touch, or of the first granule
whose Diacritic is poisoned (R640). -/
def State.logPoisonPhys (s : State) (job : Nat) (ps : List (Nat × Nat)) : State :=
  let o := match (ps.flatMap fun p => touchedCw p.1 p.2).find? fun c => s.poison.contains c with
    | some c => 64 * c - hbmBase
    | none => ((ps.find? fun p => s.diacPoison p.1).map Prod.fst).getD hbmBase - hbmBase
  s.logEv 0x0501 job [o % 2 ^ 32, o / 2 ^ 32]

/-- The same for ranges as a context reads them. -/
def State.logPoison (s : State) (n : Option Nat) (job : Nat) (rs : List (Nat × Nat)) : State :=
  s.logPoisonPhys job (rs.flatMap fun r => (granPieces r.1 r.2).map fun p => (s.physRead n p.1, p.2))

/-- Whether physical ranges hold poison, and the record when they do. -/
def State.notePoison (s : State) (job : Nat) (ps : List (Nat × Nat)) : Bool × State :=
  if ps.any fun p => s.poisonPhys p.1 p.2 then (true, s.logPoisonPhys job ps) else (false, s)

/-- JNL_ENTRIES and the byte address of an entry (R689). -/
def State.jnlEntries (s : State) (n : Nat) : Nat := s.rf (ctxOff n 0x828) 0 24
def State.jnlUsed (s : State) (n : Nat) : Nat := s.rf (ctxOff n 0x82C) 0 24
def State.jnlAddr (s : State) (n k : Nat) : Nat := s.jr64 n 0x820 + 1040 * (k % max 1 (s.jnlEntries n))

/-- Append the before-image of granule `k` of a journaled region (R688, R689). -/
def State.jnlAppend (s : State) (n : Nat) (g : Region) (k t : Nat) : State :=
  let a := g.base + 1024 * k
  let e := leBytes 4 t ++ leBytes 4 g.r ++ leBytes 4 k ++ leBytes 4 (s.diacPhys a).toNat ++ memRead s.mem a 1024
  let s := { s with mem := memWrite s.mem (s.jnlAddr n ((s.ctx n).jnlHead + s.jnlUsed n)) e }
  s.setF (ctxOff n 0x82C) 0 24 (s.jnlUsed n + 1)

/-- Prepare granule `k` of a region for a write in the open step: copy, journal, tags (R686, R688). -/
def State.openGranule (s : State) (n : Nat) (g : Region) (k : Nat) (whole : Bool) : State :=
  let t := s.openStep n g
  if !s.running n || s.tagLast g k == t then s
  else
    let last := s.tagLast g k
    let s := if g.kind = 1 then s.jnlAppend n g k t
      else if whole then s
      else
        let src := g.bankAddr ((t - 1) % s.banks n) k
        let dst := g.bankAddr (t % s.banks n) k
        let bad := (touchedCw src 1024).filter fun c => s.poison.contains c
        let s := (s.wrPhys dst (memRead s.mem src 1024)).setDiacPhys dst (s.diacPhys src)
        { s with poison := bad.foldl (fun l c => insNat (c - src / 64 + dst / 64) l) s.poison }
    s.setTags g k t last

/-- Write bytes within one granule as context `n`. -/
def State.wrPiece (s : State) (n : Option Nat) (a : Nat) (bs : List Byte) : State :=
  match s.place a with
  | .reg _ => s
  | .none => s
  | _ =>
    match n with
    | none => s.wrPhys a bs
    | some n =>
      match s.regionAt n a with
      | none => s.wrPhys a bs
      | some g =>
        let k := (a - g.base) / 1024
        let s := s.openGranule n g k (bs.length == 1024)
        s.wrPhys (s.physRead (some n) a) bs

/-- Write bytes at a local address as context `n`. -/
def State.wr (s : State) (n : Option Nat) (a : Nat) (bs : List Byte) : State :=
  (granPieces a bs.length).foldl (fun s p => s.wrPiece n p.1 (slice bs (p.1 - a) p.2)) s

/-- Journal entries that writing these ranges would append (R688). -/
def State.jnlNeed (s : State) (n : Nat) (ranges : List (Nat × Nat)) : Nat :=
  ((ranges.flatMap fun p => granPieces p.1 p.2).filterMap (fun p =>
    match s.regionAt n p.1 with
    | some g => if g.kind = 1 ∧ s.running n ∧ s.tagLast g ((p.1 - g.base) / 1024) ≠ s.openStep n g
        then some (p.1 / 1024) else none
    | none => none)).eraseDups.length

/-- The journal has room for them (R690). -/
def State.jnlRoom (s : State) (n : Nat) (ranges : List (Nat × Nat)) : Bool :=
  let need := s.jnlNeed n ranges
  need == 0 || decide (s.jnlUsed n + need ≤ s.jnlEntries n)

/-- A writer that waits for journal space: FULL and a record (R690). -/
def State.jnlWait (s : State) (n : Nat) : State :=
  (s.setF (ctxOff n 0x830) 0 1 1).logEv 0x0606 (s.jobId n) []

/-! ### Diacritics as a descriptor sees them (R653 to R655) -/

def State.hdwBase (s : State) (n : Nat) : Nat := s.jr64 n 0x340
def State.hdwSize (s : State) (n : Nat) : Nat := s.jr n 0x348 * mib
/-- The host granule has a Diacritic in the window of context `n` (R655). -/
def State.inHdw (s : State) (n a : Nat) : Bool :=
  decide (s.hdwBase n ≤ a - hostBit) && decide (a - hostBit < s.hdwBase n + s.hdwSize n)
def State.hdiacAddr (s : State) (n a : Nat) : Nat :=
  hostBit + s.jr64 n 0x34C + 4 * ((a - hostBit - s.hdwBase n) / 1024)

/-- The Diacritic of the granule at local address `a`. -/
def State.diac (s : State) (n a : Nat) : Word :=
  if isHost a then BitVec.ofNat 32 (leNat (memRead s.mem (s.hdiacAddr n a) 4))
  else s.diacPhys (s.physRead (some n) a)

/-- Store the Diacritic of the granule at local address `a`, after its data. -/
def State.setDiac (s : State) (n a : Nat) (w : Word) : State :=
  if isHost a then (if s.inHdw n a then { s with mem := memWrite s.mem (s.hdiacAddr n a) (leBytes 4 w.toNat) } else s)
  else s.setDiacPhys (s.physRead (some n) a) w

/-- CRC-32C of granule, scale words, tensor ID, granule index (R652). -/
def diacOf (data scales : List Byte) (tid ix : Nat) : Word :=
  crc32c (data ++ scales ++ leBytes 3 tid ++ leBytes 4 ix)

/-! ## Windows and grants (R795, R796) -/

/-- HBM window `w` of a context: base offset, size in bytes, R, W, PEER_R, PEER_W. -/
def State.win (s : State) (n w : Nat) : Nat × Nat × Nat :=
  (s.jr64 n (0x40 + 0x10 * w) % 2 ^ 48, s.rf (ctxOff n (0x48 + 0x10 * w)) 0 24 * mib, s.rf (ctxOff n (0x4C + 0x10 * w)) 0 4)

/-- Every HBM offset of [o, o + len) lies in a window whose CFG bit `b` is 1. -/
def State.inWins (s : State) (n b o len : Nat) : Nat → Bool
  | 0 => false
  | f + 1 =>
    match ((List.range 4).map (s.win n)).find? fun w => bit w.2.2 b && decide (w.1 ≤ o) && decide (o < w.1 + w.2.1) with
    | none => false
    | some w => if o + len ≤ w.1 + w.2.1 then true else s.inWins n b (w.1 + w.2.1) (o + len - (w.1 + w.2.1)) f

def State.clusterOk (s : State) (n c : Nat) : Bool := bit (s.jr n 0x90) c

/-- A requester: the context whose windows apply, and whether function 0's own rings carry it. -/
structure Who where
  n : Nat
  pf : Bool
deriving DecidableEq, Repr

/-- [a, a + len) lies in the staging place that a prefetch of the context fills; the firmware lends it to the basic expansion that
consumes the set (R451, log entry 66). -/
def State.inStaging (s : State) (n a len : Nat) : Bool :=
  (s.ctx n).ofl.any fun o => match o.fetch with
    | some p => decide (p.2 % 2 ^ 48 ≤ a) && decide (a + len ≤ p.2 % 2 ^ 48 + o.len)
    | none => false

/-- The range may be read (`b` = 0) or written (`b` = 1) by the descriptor (R625, R684, R796). -/
def State.mayAccess (s : State) (w : Who) (b a len : Nat) : Bool :=
  len == 0 ||
  (s.mapped a len && !(decide (hbmBase ≤ a) && (s.regions w.n).any fun g => g.bankHit (s.banks w.n) a len) &&
  (w.pf || (b == 0 && s.inStaging w.n a len) ||
    match s.place a with
    | .hbm o => s.inWins w.n b o len 5
    | .ssm c _ => s.clusterOk w.n c
    | .host h => decide (s.jr64 w.n 0x80 ≤ h) && decide (h + len ≤ s.jr64 w.n 0x80 + s.jr w.n 0x88 * mib)
    | _ => false))

/-- Device `d` belongs to the domain membership of the context's job (R795). -/
def State.isMember (s : State) (n d : Nat) : Bool :=
  d == s.devId ||
  (decide (s.rf (ctxOff n 0x9C) 0 10 ≤ d / 64) && decide (d / 64 ≤ s.rf (ctxOff n 0x9C) 16 10) &&
   bit (s.jr n 0x94 + 2 ^ 32 * s.jr n 0x98) (d % 64))

/-! ## Descriptors in flight -/

def State.inst? (s : State) (i : Nat) : Option Inst := s.insts.find? fun x => x.id == i

def State.setInst (s : State) (x : Inst) : State := { s with insts := s.insts.map fun y => if y.id == x.id then x else y }

def State.modInst (s : State) (i : Nat) (f : Inst → Inst) : State :=
  { s with insts := s.insts.map fun y => if y.id == i then f y else y }

/-- A descriptor just taken up. -/
def Inst.fresh (id sq ctx cq : Nat) (fromPf : Bool) (words : List Word) : Inst :=
  { id := id, sq := sq, ctx := ctx, cq := cq, fromPf := fromPf, words := words, queue := 0, phase := .queued,
    wait := none, waited := false, sleepAt := 0, lends := false, startTs := 0, endTs := 0, status := 0, detail := 0,
    cnt := {}, step := 0, epoch := 0, block := [], slot := [], stage := 0, progress := 0, blocked := false, staged := [],
    rowsSeen := [], parent := none, recIx := 0, cgroup := none, queries := [], sigSent := false, awaiting := 0,
    asked := [], reads := 0, held := [], seen := [], bound := none }

/-- Put a descriptor behind those already there and give it the next number. -/
def State.addInst (s : State) (x : Inst) : State :=
  { s with insts := s.insts ++ [{ x with id := s.nextInst }], nextInst := s.nextInst + 1 }

def Inst.w (x : Inst) (k : Nat) : Nat := wd x.words k
def Inst.opcode (x : Inst) : Nat := bits (x.w 0) 0 8
def Inst.job (x : Inst) : Nat := bits (x.w 0) 16 12
def Inst.checkDiac (x : Inst) : Bool := bit (x.w 0) 13
def Inst.expert (x : Inst) : Bool := bit (x.w 0) 11
def Inst.who (x : Inst) : Who := ⟨x.ctx, x.fromPf⟩

/-- Counters of two pieces of work together. -/
def Counters.add (a b : Counters) : Counters :=
  { sat := a.sat + b.sat, flush := a.flush + b.flush, nan := a.nan + b.nan, outl := a.outl + b.outl,
    promo := a.promo + b.promo, ovf := a.ovf + b.ovf, zgrp := a.zgrp + b.zgrp }

/-- The descriptor's status is formed: its execution has ended (R90). -/
def State.finish (s : State) (x : Inst) (status detail : Nat) (cnt : Counters) : State :=
  s.setInst { x with phase := .done, status := status, detail := detail, cnt := cnt, endTs := s.clock.fab, wait := none }

/-- A unit saw activity: the sleep stamps of R755. -/
def State.touch (s : State) (u : Nat) : State :=
  { s with pow := { s.pow with activeAt := sput u s.clock.now s.pow.activeAt } }

/-- A packet crosses an I/O die: the die is active, and a LIGHT one works again (R755). -/
def State.crossDie (s : State) (d : Nat) : State :=
  { s with pow := { s.pow with activeAt := sput (34 + d) s.clock.now s.pow.activeAt, ioLight := s.pow.ioLight.filter (· != d) } }

/-! ## Messages to the management side (R800 to R804) -/

/-- A message to the requester or the event receiver: which kind, and its bytes. -/
def State.reply (s : State) (kind : Nat) (bs : List Byte) : State :=
  { s with sec := { s.sec with replies := s.sec.replies ++ [(kind, bs)] } }

/-- A PLDM sensor event of a threshold crossing, while the firmware runs and a receiver is registered (R801, R803, log entry 78). -/
def State.sensorEvent (s : State) (id v : Nat) : State :=
  if s.ready && s.sec.evReceiver.isSome then s.reply 26 (leBytes 1 id ++ leBytes 4 v) else s

/-- The manager of the device's domain (R9). -/
def State.managerId (s : State) : Nat := s.devId / 64 * 64
def State.isManager (s : State) : Bool := s.devId % 64 == 0

end Sys2Proof.Machine
end

