-- ==== Sys2Proof/Machine/Sem.lean ====
section
/-! DEFINITION. Semaphores, wake wires, slot rings and the stall test: the operations that every family shares (09). -/
namespace Sys2Proof.Machine

/-! ## Semaphores (R458 to R465, R475) -/

/-- Offset of SEM_VALUE and SEM_BANK_OWNER of a unit: cluster below 32, I/O die from 32 (R459). -/
def semOff (u i : Nat) : Nat := if u < 32 then clusterOff u (0x10000 + 4 * i) else dieOff (u - 32) (0x20000 + 4 * i)
def ownerOff (u b : Nat) : Nat := if u < 32 then clusterOff u (0x14000 + 4 * b) else dieOff (u - 32) (0x28000 + 4 * b)

def semCount (u : Nat) : Nat := if u < 32 then 4096 else 8192

def State.unitFitted (s : State) (u : Nat) : Bool := decide (u < 32) || (decide (32 ≤ u) && decide (u - 32 < s.ioDies))

def State.semVal (s : State) (u i : Nat) : Nat := (s.reg (semOff u i)).toNat

/-- The bank of the semaphore is VALID and owned by the job (R461). -/
def State.semOwned (s : State) (u i job : Nat) : Bool :=
  let w := s.reg (ownerOff u (i / 64))
  fld w 12 1 == 1 && fld w 0 12 == job

/-! ## Slot rings (R479 to R484) -/

def ringOff (c r rel : Nat) : Nat := clusterOff c (0x2000 + 0x40 * r + rel)

structure Ring where
  c : Nat
  r : Nat
  base : Nat
  slots : Nat
  slotBytes : Nat
  full : Nat
  empty : Nat
  prod : Nat
  cons : Nat
  enabled : Bool
  ctx : Nat
  head : Nat
  tail : Nat
  isSealed : Bool
deriving DecidableEq, Repr

def State.ring (s : State) (c r : Nat) : Ring :=
  { c := c, r := r, base := (s.reg (ringOff c r 0)).toNat, slots := s.rf (ringOff c r 4) 0 9,
    slotBytes := 1024 * s.rf (ringOff c r 4) 16 14, full := s.rf (ringOff c r 8) 0 12,
    empty := s.rf (ringOff c r 8) 12 12, prod := s.rf (ringOff c r 12) 0 12, cons := s.rf (ringOff c r 12) 12 12,
    enabled := s.rf (ringOff c r 16) 0 1 == 1, ctx := s.rf (ringOff c r 16) 1 4,
    head := (s.reg (ringOff c r 20)).toNat, tail := (s.reg (ringOff c r 24)).toNat,
    isSealed := s.rf (ringOff c r 28) 0 1 == 1 }

/-- Local address of slot `k` (R481). -/
def Ring.slotAddr (g : Ring) (k : Nat) : Nat := ssmBase g.c + g.base + g.slotBytes * (k % max 1 g.slots)

/-- The enabled ring that a cluster semaphore serves, and whether it is its FULL. -/
def State.ringOf (s : State) (u i : Nat) : Option (Ring × Bool) :=
  if u < 32 then
    (((List.range 64).map (s.ring u)).filter fun g => g.enabled).findSome? fun g =>
      if g.full = i then some (g, true) else if g.empty = i then some (g, false) else none
  else none

/-- The check made when EMPTY of a sealed ring reaches S (R483, R484). -/
def State.liftSeal (s : State) (g : Ring) : State :=
  if g.isSealed ∧ s.semVal g.c g.empty = g.slots then
    if s.semVal g.c g.full = 0 ∧ g.head = g.tail then
      ((s.setReg (ringOff g.c g.r 20) 0#32).setReg (ringOff g.c g.r 24) 0#32).setF (ringOff g.c g.r 28) 0 1 0
    else (s.setF (ringOff g.c g.r 28) 1 1 1).logEv 0x0303 (s.jobId g.ctx) [g.c + 32 * g.r]
  else s

/-- Seal a ring; one that is already whole lifts at once (R483). -/
def State.sealRing (s : State) (c r : Nat) : State :=
  let s := s.setF (ringOff c r 28) 0 1 1
  s.liftSeal (s.ring c r)

/-- A change in a bank that a job owns restarts the count of its contexts (R503). -/
def State.restartRunOn (s : State) (owner : Word) : State :=
  if fld owner 12 1 = 0 then s else (s.ctxsOf (fld owner 0 12)).foldl (fun s n => s.modCtx n fun c => { c with runOn := 0 }) s

/-- A semaphore takes a value: a change fires the bank's wake wire, restarts the Run-On count of the owner, and
may lift a ring's seal (R475, R483, R503). -/
def State.semPut (s : State) (u i v : Nat) : State :=
  if s.semVal u i = v then s
  else
    let s := s.setReg (semOff u i) (BitVec.ofNat 32 v)
    let s := { s with wakes := if s.wakes.contains (u, i / 64) then s.wakes else s.wakes ++ [(u, i / 64)] }
    let s := s.restartRunOn (s.reg (ownerOff u (i / 64)))
    match s.ringOf u i with
    | some (g, false) => s.liftSeal g
    | _ => s

def semMax : Nat := 2 ^ 32 - 1

/-- ADD(n), with the SEM_SAT record of a saturating one (R462, R463). -/
def State.semAdd (s : State) (u i n : Nat) : State :=
  let v := s.semVal u i
  let s := s.semPut u i (min (v + n) semMax)
  if semMax < v + n then s.logEv 0x0301 (fld (s.reg (ownerOff u (i / 64))) 0 12) [i + 2 ^ 13 * u] else s

/-- SUB(n); true when it saturated (R462). -/
def State.semSub (s : State) (u i n : Nat) : State × Bool :=
  let v := s.semVal u i
  (s.semPut u i (v - n), decide (v < n))

/-- A SUB of a ring semaphore, or an ACQUIRE from another port than the ring's (R482). -/
def State.ringForbids (s : State) (u i port : Nat) (acquire : Bool) : Bool :=
  match s.ringOf u i with
  | none => false
  | some (g, isFull) => !acquire || port != (if isFull then g.cons else g.prod)

/-- Test a wait; when it is met, the state after its acquisition (R462, R472, R481, R483). -/
def State.tryWait (s : State) (w : Wait) : Option State :=
  if s.semVal w.unit w.index < w.n then none
  else if !w.acquire then some s
  else
    match s.ringOf w.unit w.index with
    | none => some (s.semPut w.unit w.index (s.semVal w.unit w.index - w.n))
    | some (g, true) =>
      some ((s.setReg (ringOff g.c g.r 20) (BitVec.ofNat 32 (g.head + w.n))).semPut w.unit w.index (s.semVal w.unit w.index - w.n))
    | some (g, false) =>
      if g.isSealed then none
      else some ((s.setReg (ringOff g.c g.r 24) (BitVec.ofNat 32 (g.tail + w.n))).semPut w.unit w.index (s.semVal w.unit w.index - w.n))

/-! ## Lanes and stalls (R454, R455, R501) -/

/-- Waiter port of a descriptor's lane (R455). -/
def Inst.port (x : Inst) : Nat := 16 * x.queue + x.ctx

/-- Descriptors of the same lane fetched before `x` and not completed; a queued re-arm holds only its handle (R113). -/
def State.earlierInLane (s : State) (x : Inst) : List Inst :=
  (s.insts.takeWhile fun y => y.id != x.id).filter fun y => y.ctx == x.ctx && y.queue == x.queue && y.phase != .rearm

/-- A STEP of the context whose access side has started and which has not completed (R672, R673). -/
def State.stepOpen (s : State) (n : Nat) : Bool :=
  s.insts.any fun x => x.ctx == n && x.opcode == 0x0D && (x.phase == .started || x.phase == .done)

/-- The context on whose behalf the cluster's control core works (R457). -/
def State.coreCtx (s : State) (c : Nat) : Option Nat :=
  if s.rf (clusterOff c 0x10C) 4 1 = 1 then some (s.rf (clusterOff c 0x10C) 0 4) else none

def Inst.waits (x : Inst) : Bool := x.phase == .waiting || (x.phase == .started && x.blocked)

/-- The job of a context is stalled (R501). -/
def State.stalled (s : State) (n : Nat) : Bool :=
  let own := s.insts.filter fun x => x.ctx == n && x.phase != .rearm && !(x.opcode == 0x0E && x.phase == .started) &&
    !(x.opcode == 0x10 && x.sq == 1024)
  let cores := (List.range 32).filter fun c => s.coreCtx c == some n && (s.core c).waiting.isSome
  !s.stepOpen n && (!own.isEmpty || !cores.isEmpty) &&
  own.all fun x => x.waits || (x.phase == .queued && (s.earlierInLane x).any Inst.waits)

/-! ## Traps of cores (R40) -/

/-- A hart takes a trap into machine mode, as the privileged architecture that R40 names has it: the cause and the value
of the trap, the stack of modes and interrupt enables; `epc` is the trapping instruction's address (log entry 26). -/
def Hart.take (h : Hart) (cause tval epc : Nat) : Hart :=
  { h with mepc := epc, mcause := cause, mtval := tval, mpie := h.mie, mie := false, mppUser := h.user, user := false }

/-- Cause code of a trap: 2 illegal instruction, 5 load access fault, 7 store access fault. -/
def Trap.cause (t : Trap) (store : Bool) : Nat :=
  match t with | .illegalInstruction => 2 | .accessFault => if store then 7 else 5

/-- A control core (32 and up: a management core) takes a trap; the trapping instruction has no other effect. The
program's addresses are not the block's, so MEPC takes a free value. -/
def State.trapAt (s : State) (c : Nat) (t : Trap) (store : Bool) (tval : Nat) : State :=
  let (epc, s) := s.free 32
  if c < 32 then s.modCore c fun k => { k with trap := some t, hart := k.hart.take (t.cause store) tval epc }
  else { s with mcores := modNth (fun h => h.take (t.cause store) tval epc) (c - 32) s.mcores }

/-- A trap of an Xhsx instruction. -/
def State.trapCore (s : State) (c : Nat) (t : Trap) : State := s.trapAt c t true 0

end Sys2Proof.Machine
end

