-- ==== Sys2Proof/Machine/Net.lean ====
section
/-! DEFINITION. Packets, routes, flows and count groups as a sender sees them (11). -/
namespace Sys2Proof.Machine

/-! ## Packet words (R578 to R580) -/

def kindCode : PKind → Nat
  | .write => 0 | .readReq => 1 | .readRsp => 2 | .signal => 3 | .semOp => 4 | .diac => 5 | .reduce => 6
  | .ack => 7 | .nack => 8 | .ctrlMsg => 9 | .cgCancel => 10 | .reserved k => k

/-- Header bytes 0 to 27, with VC and HOP_LIMIT taken as 0. -/
def pktHead (p : Packet) : List Byte :=
  leBytes 2 p.dst ++ leBytes 2 p.src ++ leBytes 4 (p.job + p.tc * 2 ^ 12 + p.epoch * 2 ^ 15 + kindCode p.kind * 2 ^ 21) ++
  leBytes 4 (p.group + p.payload.length * 2 ^ 16) ++ leBytes 6 p.addr ++ leBytes 2 0 ++ leBytes 4 p.seqFloor ++ leBytes 4 p.arg

def pktHcrc (p : Packet) : Word := crc32c (pktHead p ++ leBytes 3 p.seq)
def pktCrc (p : Packet) : Word := crc32c (pktHead p ++ leBytes 4 p.hcrc.toNat ++ p.payload)

/-- Header-intact (R580). -/
def intact (p : Packet) : Bool := p.hcrc == pktHcrc p
def crcGood (p : Packet) : Bool := p.crc == pktCrc p

def sealPkt (p : Packet) : Packet :=
  let p := { p with hcrc := pktHcrc p }
  { p with crc := pktCrc p }

/-- A packet body before a flow numbers it. -/
def mkPkt (kind : PKind) (dst job tc addr arg : Nat) (payload : List Byte) : Packet :=
  { dst := dst, src := 0, job := job, tc := tc, vc := 0, epoch := 0, hopLimit := 31, kind := kind, group := 0,
    addr := addr, seqFloor := 0, arg := arg, payload := payload, seq := 0, hcrc := 0#32, crc := 0#32 }

def m24 : Nat := 2 ^ 24

/-- Distance from `b` up to `a`, modulo 2^24 (R597). -/
def seqDist (a b : Nat) : Nat := (a + m24 - b % m24) % m24

/-! ## Links and routes (R572, R575, R589 to R595, R856) -/

def State.linkState (s : State) (l : Nat) : Nat := if l / 16 < s.ioDies then s.rf (linkOff l 4) 0 3 else 4
def State.setLinkState (s : State) (l v : Nat) : State := s.setF (linkOff l 4) 0 3 v
def State.peerDev (s : State) (l : Nat) : Nat := s.rf (linkOff l 4) 16 16

/-- Lowest-numbered UP link that satisfies a test. -/
def State.upLink (s : State) (f : Nat → Bool) : Option Nat := (List.range 64).find? fun l => s.linkState l == 2 && f l

/-- RP_CFG of ring port `p` of the device, counted 8 per die. -/
def State.rpCfg (s : State) (p lo w : Nat) : Nat := s.rf (dieOff (p / 8) (0x34000 + 4 * (p % 8))) lo w

/-- Version `v` may route (R593). -/
def State.versionValid (s : State) (v : Nat) : Bool := s.rf (dieOff 0 0x38000) (1 + v) 1 == 1

/-- The route entry a packet looks up in the table of a die. -/
def State.routeEntry (s : State) (die : Nat) (p : Packet) : Word :=
  let ix := if p.dst / 64 = s.devId / 64 then 1024 + p.dst % 64 else p.dst / 64
  s.reg (dieOff die (0x30000 + 0x2000 * p.epoch + 4 * ix))

/-- Port and direction of an entry give the outgoing link (R569, R591, R592). -/
def entryLink (e : Word) (p : Packet) : Nat :=
  let i := (p.src ^^^ p.dst ^^^ (p.seq % 65536)) % (fld e 20 2 + 1)
  2 * fld e (5 * i) 5 + fld e 22 1

inductive Hop where
  | here
  | link (l : Nat)
  | miss
deriving DecidableEq, Repr

/-- Where the switch sends a packet that entered at `die`; `own`: this device injects it. -/
def State.hop (s : State) (die : Nat) (own : Bool) (p : Packet) : Hop :=
  if p.dst = s.devId then .here
  else
    let e := s.routeEntry die p
    if s.versionValid p.epoch ∧ fld e 31 1 = 1 then (if fld e 23 1 = 1 then .miss else .link (entryLink e p))
    else if p.tc ≠ 2 then .miss
    else
      let any := own && !s.versionValid 0 && !s.versionValid 1
      match s.upLink fun l => any || s.peerDev l == p.dst with
      | some l => .link l
      | none => .miss

/-- The link is its ring's dateline link (R575). -/
def State.dateline (s : State) (l : Nat) : Bool := s.rpCfg (l / 2) (6 + l % 2) 1 == 1

/-- VC on which a packet leaves (R589). -/
def State.vcOut (s : State) (from_ : Option Nat) (vc l : Nat) : Nat :=
  if s.dateline l then 1
  else match from_ with
    | some k => if vc = 1 ∧ s.rpCfg (k / 2) 0 3 = s.rpCfg (l / 2) 0 3 then 1 else 0
    | none => 0

/-- One more in a 32-bit saturating counter register. -/
def State.count32 (s : State) (off n : Nat) : State := s.countF off 32 n

def State.linkDrop (s : State) (l : Nat) : State := s.count32 (linkOff l 0x10) 1

/-- The switch takes a packet: delivers it here, queues it for a link, or drops it (R583, R585, R595, R571); a die it crosses is
active (R755). -/
def State.switchPkt (s : State) (die : Nat) (from_ : Option Nat) (p : Packet) : State :=
  let s := s.crossDie die
  match s.hop die from_.isNone p with
  | .here => { s with fab := { s.fab with buf := s.fab.buf ++ [⟨die, none, s.clock.now, p⟩] } }
  | .miss => s.count32 (dieOff 0 0x3800C) 1
  | .link l =>
    let hop := if from_.isSome then p.hopLimit - 1 else p.hopLimit
    if hop = 0 then { s with fab := { s.fab with hopExpired := satAdd 32 s.fab.hopExpired 1 } }
    else if s.linkState l = 3 ∨ s.linkState l = 4 then s.linkDrop l
    else
      let q := { p with hopLimit := hop, vc := s.vcOut from_ p.vc l }
      let s := s.crossDie (l / 16)
      { s with fab := { s.fab with buf := s.fab.buf ++ [⟨l / 16, some l, s.clock.now, q⟩] } }

/-! ## Send flows (R600, R602) -/

def State.sendFlow (s : State) (d : Nat) : SendFlow :=
  match s.fab.send.find? fun f => f.dst == d with | some f => f | none => ⟨d, 0, [], 0⟩

def State.putSend (s : State) (f : SendFlow) : State :=
  if s.fab.send.any fun g => g.dst == f.dst then
    { s with fab := { s.fab with send := s.fab.send.map fun g => if g.dst == f.dst then f else g } }
  else { s with fab := { s.fab with send := s.fab.send ++ [f] } }

/-- Room for `n` more unacknowledged packets in a flow (R597, R600). -/
def State.sendRoom (s : State) (d n : Nat) : Bool :=
  if s.fab.send.any fun g => g.dst == d then decide ((s.sendFlow d).stored.length + n ≤ 4096)
  else decide (s.fab.send.length < 16384)

def State.injEpoch (s : State) : Nat := s.rf (dieOff 0 0x38000) 0 1

/-- Put a formed packet in front of the switch of a die. -/
def State.inject (s : State) (die : Nat) (p : Packet) : State :=
  { s with fab := { s.fab with outbox := s.fab.outbox ++ [(die, p)] } }

/-- Number, seal, store and inject a sequenced packet (R597, R602). -/
def State.sendSeq (s : State) (inst : Option Nat) (die : Nat) (p : Packet) : State :=
  let f := s.sendFlow p.dst
  let floor := match f.stored with | e :: _ => e.pkt.seq | [] => f.next
  let q := sealPkt { p with src := s.devId, seq := f.next, seqFloor := floor, epoch := s.injEpoch }
  let s := s.putSend { f with next := (f.next + 1) % m24, stored := f.stored ++ [⟨q, inst, 0, s.clock.now, none⟩] }
  s.inject die q

/-- Send an ACK or NACK: SEQ 0, never stored (R582). -/
def State.sendRaw (s : State) (p : Packet) : State :=
  s.inject 0 (sealPkt { p with src := s.devId, epoch := s.injEpoch })

/-- ARG of a message to which the spec gives no type code: different for different kinds, none that R853 uses,
otherwise open (log entry 11). -/
def ctrlType (k : Nat) : Nat := 8 * (Config.ctrlCode k % 2 ^ 28 + 8) + k % 8

/-- A manager message of a type to a device; word 0 of the payload holds a job ID (R674, R853). -/
def State.sendCtrl (s : State) (dst type : Nat) (ws : List Nat) : State :=
  s.sendSeq none 0 (mkPkt .ctrlMsg dst 0 2 0 type (ofWords (ws.map (BitVec.ofNat 32))))

/-- A message to manager firmware about a link's new state (R853). -/
def State.tellLink (s : State) (l : Nat) : State :=
  s.sendCtrl s.managerId 0x10 [0, l + s.linkState l * 2 ^ 8, s.peerDev l]

/-- I/O die at which the packets of a queue enter the switch (R855). -/
def queueDie (q : Nat) : Nat :=
  if q < 0x80 then q % 32 / 16
  else if q < 0x90 then (q - 0x80) / 8
  else if q < 0x98 then (q - 0x90) / 4
  else if q < 0x9C then (q - 0x98) / 2
  else if q < 0xA0 then (q - 0x9C) / 2
  else if q < 0xA8 then (q - 0xA0) / 4
  else if q < 0xC8 then (q - 0xA8) / 16
  else if q < 0xE8 then (q - 0xC8) / 8
  else 0

/-! ## Header SIGNAL fields and count groups (R78, R605, R606) -/

def Inst.sigOn (x : Inst) : Bool := bit (x.w 0) 9
def Inst.sigIndex (x : Inst) : Nat := bits (x.w 4) 0 13
def Inst.sigUnit (x : Inst) : Nat := bits (x.w 4) 13 6
def Inst.sigCounted (x : Inst) : Bool := bit (x.w 4) 20
def Inst.sigDev (x : Inst) : Nat := bits (x.w 5) 0 16
def Inst.sigInc (x : Inst) : Nat := bits (x.w 5) 16 16

/-- The next free group number of a flow, in rotation. -/
def State.nextGroup (s : State) (d : Nat) : Nat :=
  let g := (s.sendFlow d).group
  let used := s.fab.sendGroups.filter fun x => x.dst == d
  let cand := (List.range (used.length + 1)).map fun k => (g + k) % 65535 + 1
  (cand.find? fun n => !used.any fun x => x.num == n).getD 1

/-- Open a count group towards a device (R605). -/
def State.openGroup (s : State) (d : Nat) (lane : Option (Nat × Nat)) : State × Nat :=
  let n := s.nextGroup d
  let s := s.putSend { s.sendFlow d with group := n }
  ({ s with fab := { s.fab with sendGroups := s.fab.sendGroups ++ [⟨d, n, lane, 0⟩] } }, n)

def State.laneGroup (s : State) (lane : Nat × Nat) (d : Nat) : Option SendGroup :=
  s.fab.sendGroups.find? fun g => g.dst == d && g.lane == some lane

def State.modGroup (s : State) (d n : Nat) (f : SendGroup → SendGroup) : State :=
  { s with fab := { s.fab with sendGroups := s.fab.sendGroups.map fun g => if g.dst == d && g.num == n then f g else g } }

def State.freeGroup (s : State) (d n : Nat) : State :=
  { s with fab := { s.fab with sendGroups := s.fab.sendGroups.filter fun g => !(g.dst == d && g.num == n) } }

/-- The group that the packets of a descriptor to a device join, opened when it is the first (R606). -/
def State.joinGroup (s : State) (x : Inst) (d : Nat) : State × Nat :=
  if !x.sigCounted || x.sigDev != d || d == s.devId || x.opcode == 0x0B then (s, 0)
  else if x.sigOn then
    match x.cgroup with
    | some (_, n) => (s, n)
    | none =>
      let r := s.openGroup d none
      (r.1.modInst x.id fun y => { y with cgroup := some (d, r.2) }, r.2)
  else
    match s.laneGroup (x.queue, x.ctx) d with
    | some g => (s.modInst x.id fun y => { y with cgroup := some (d, g.num) }, g.num)
    | none =>
      let r := s.openGroup d (some (x.queue, x.ctx))
      (r.1.modInst x.id fun y => { y with cgroup := some (d, r.2) }, r.2)

/-- Bytes of a packet: header, payload, trailer (R578). -/
def pktBytes (p : Packet) : Nat := 40 + p.payload.length

/-- The I/O die that injected a stored packet (R855). -/
def State.storeDie (s : State) (e : Stored) : Nat := match e.inst.bind s.inst? with | some x => queueDie x.queue | none => 0

/-- The 8 MiB retransmit store of an I/O die, a part of its 24 MiB central buffer, has room for a packet (R20, R584). -/
def State.storeRoom (s : State) (die : Nat) (p : Packet) : Bool :=
  decide ((s.fab.send.flatMap fun f => (f.stored.filter fun e => s.storeDie e == die).map fun e => pktBytes e.pkt).sum + pktBytes p ≤ 8 * mib)

/-- The 16 MiB switch buffer of an I/O die has room for a packet (R20, R584). -/
def State.bufRoom (s : State) (die : Nat) (p : Packet) : Bool :=
  decide (((s.fab.buf.filter fun b => b.die == die).map fun b => pktBytes b.pkt).sum + pktBytes p ≤ 16 * mib)

/-- The outstanding-transfer limit of a descriptor's lane: 0 acts as 1, a value above 64 as 64 (R33, R456). -/
def State.laneLimit (s : State) (x : Inst) : Nat :=
  let v := s.rf (ctxOff x.ctx (0x400 + 4 * x.queue)) 0 7
  if v = 0 then 1 else min v 64

/-- Transfers outstanding in the lane of a queue and context: packets not yet acknowledged, and reads whose data is still to come
(R456, R509; log entry 75). -/
def State.laneOut (s : State) (x : Inst) : Nat :=
  let lane := s.insts.filter fun y => y.queue == x.queue && y.ctx == x.ctx
  (lane.map fun y => if y.awaiting = 0 then 0 else y.reads).sum +
  (s.fab.send.map fun f => (f.stored.filter fun e => e.pkt.kind != .readReq && e.inst.any fun i => lane.any fun y => y.id == i).length).sum

/-- The lane may put one more transfer on its way. -/
def State.laneRoom (s : State) (x : Inst) : Bool := decide (s.laneOut x < s.laneLimit x)

/-- A count group can be had for the packets of a descriptor to a device: at most 4,096 are open (R605). -/
def State.groupRoom (s : State) (x : Inst) (d : Nat) : Bool :=
  !x.sigCounted || x.sigDev != d || d == s.devId || x.opcode == 0x0B || x.cgroup.isSome ||
  (!x.sigOn && (s.laneGroup (x.queue, x.ctx) d).isSome) || decide (s.fab.sendGroups.length < 4096)

/-- Send a data packet of a descriptor. -/
def State.sendFor (s : State) (x : Inst) (p : Packet) : State :=
  let x := (s.inst? x.id).getD x
  let (s, n) := s.joinGroup x p.dst
  let s := if n = 0 then s else s.modGroup p.dst n fun g => { g with count := g.count + 1 }
  s.sendSeq (some x.id) (queueDie x.queue) { p with group := n, job := x.job }

/-- The payload of a SIGNAL packet: increment, expected count (R581). -/
def signalPayload (inc expect : Nat) : List Byte := leBytes 4 inc ++ leBytes 4 expect

/-- Send the SIGNAL that closes a group, or an uncounted one (R83, R606). -/
def State.sendSignal (s : State) (x : Inst) (d unit index inc : Nat) (group : Option Nat) : State :=
  let n := group.getD 0
  let expect := match s.fab.sendGroups.find? fun g => g.dst == d && g.num == n with | some g => g.count | none => 0
  let s := s.modGroup d n fun g => { g with lane := none }
  s.sendSeq (some x.id) (queueDie x.queue)
    { mkPkt .signal d x.job 0 0 (index + unit * 2 ^ 13) (signalPayload inc expect) with group := n }

/-- The counted SIGNAL of an OK descriptor, once its group is open or can be opened (R605, R606). -/
def State.sendCounted (s : State) (x : Inst) : State :=
  if x.cgroup.isNone ∧ 4096 ≤ s.fab.sendGroups.length then s
  else
    let (s, n) := match x.cgroup with | some (_, n) => (s, n) | none => s.openGroup x.sigDev none
    (s.sendSignal x x.sigDev x.sigUnit x.sigIndex x.sigInc (some n)).modInst x.id fun y => { y with sigSent := true }

/-- Execution ends with a status: a counted remote SIGNAL of an OK descriptor is sent after its last packet, and a
group that gets no SIGNAL is cancelled (R83, R606, R610). -/
def State.endInst (s : State) (x : Inst) (status detail : Nat) (cnt : Counters) : State :=
  let x := (s.inst? x.id).getD x
  let s := s.finish x status detail cnt
  if !x.sigOn || x.sigSent then s
  else if status = 0 ∧ x.sigCounted ∧ x.sigDev ≠ s.devId then
    s.sendCounted x
  else if status ≠ 0 then
    match x.cgroup with
    | some (d, n) =>
      s.sendSeq (some x.id) (queueDie x.queue) { mkPkt .cgCancel d x.job 0 0 0 [] with group := n }
    | none => s
  else s

/-- An access outside the grants found while the descriptor runs: E_ACCESS and a record (R796); none for function 0's
own rings, which R796 exempts, nor for another device's host memory (R847). -/
def State.endDeny (s : State) (x : Inst) (addr : Nat) : State :=
  let t := s.endInst x 0xF 0 {}
  if x.fromPf || addr / 2 ^ 48 != s.devId then t else t.logViolation x.ctx addr

/-- A format fault found after the fetch, in a block or entry that was not at hand there: the descriptor is rejected without
executing, and both stamps give that moment (R79, R91). -/
def State.endFormat (s : State) (x : Inst) (detail : Nat) : State :=
  (s.modInst x.id fun y => { y with startTs := s.clock.fab }).endInst x 8 detail {}

/-- A packet of the descriptor is still unacknowledged, or a read has not brought its data (R604). -/
def State.packetsOut (s : State) (x : Inst) : Bool :=
  x.awaiting != 0 || s.fab.send.any fun f => f.stored.any fun e => e.inst == some x.id

end Sys2Proof.Machine
end

