-- ==== Sys2Proof/Machine/Clock.lean ====
section
/-! DEFINITION. One period of the 25 MHz reference: what time alone does (R503, R583, R618, R779, R832). -/
namespace Sys2Proof.Machine

/-- The calendar advances by 40 ns; a held calendar counts its hold down first (R779, R781). -/
def Clock.calTick (c : Clock) : Clock :=
  let f := c.calFrac + 40 * 32768
  if f < 1000000000 then { c with calFrac := f }
  else if 0 < c.calHold then { c with calFrac := f - 1000000000, calHold := c.calHold - 1 }
  else { c with calFrac := f - 1000000000, cal := (c.cal + 1) % 2 ^ 64 }

/-- Fabric time advances from the reference, its offset corrected by at most 200 ppm: 1 ns in 5,000 (R618). -/
def Clock.fabTick (c : Clock) : Clock :=
  let d : Int := if c.now % 5000 ≠ 0 then 0 else if c.slew < 0 then -1 else if 0 < c.slew then 1 else 0
  { c with fab := (c.fab + (40 + d).toNat) % 2 ^ 64, slew := c.slew - d }

/-- The Run-On count of a context: counts while its job is stalled (R503). -/
def State.runOnTick (s : State) (n : Nat) : State :=
  if s.running n ∧ s.stalled n then s.modCtx n fun c => { c with runOn := c.runOn + 1 }
  else s.modCtx n fun c => { c with runOn := 0, runOnFired := c.runOnFired && s.stalled n }

/-- A packet queued for a link that is UP leaves on it within the period (log entry 41). -/
def State.drainUp (s : State) : State :=
  { s with fab := { s.fab with buf := s.fab.buf.filter fun b =>
      match b.link with | some l => s.linkState l != 2 | none => true } }

/-- PPS_OUT stays high for the first 100 ms of a second of fabric time, while LOCKED (R832). -/
def State.ppsFall (s : State) : State :=
  let on := s.rst.ppsOut && s.rf (dieOff 0 0x38020) 0 1 == 1 && decide (s.clock.fab % 1000000000 < 100000000)
  { s with rst := { s.rst with ppsOut := on } }

/-- One period of the reference. While it is absent the device is held and only the calendar runs (R730, R779). -/
def tick (s : State) : State :=
  let c := { s.clock with now := s.clock.now + 40 }.calTick
  if s.rst.clockHeld then { s with clock := c }
  else ((List.range 16).foldl State.runOnTick { s with clock := c.fabTick }).drainUp.ppsFall

end Sys2Proof.Machine
end

