-- ==== Sys2Proof/Machine/Completion.lean ====
section
/-! DEFINITION. Rings, doorbells and completion records (02: R67 to R77, R83, R90 to R98, R107 to R113, R846). -/
namespace Sys2Proof.Machine

/-! ## Ring registers -/

/-- Entries of a ring from its LOG2_SIZE field: 6 to 16, other values act as 6 (R67, R68). -/
def ringSize (v : Nat) : Nat := if 6 ≤ v ∧ v ≤ 16 then 2 ^ v else 64

def State.sqEnabled (s : State) (g : Nat) : Bool := s.rf (sqOff g 8) 16 1 == 1
def State.sqSize (s : State) (g : Nat) : Nat := ringSize (s.rf (sqOff g 8) 0 5)
def State.sqHead (s : State) (g : Nat) : Nat := s.rf (sqOff g 0xC) 0 16
def State.sqTail (s : State) (g : Nat) : Nat := s.rf (sqOff g 0x10) 0 16
/-- Global CQ of an SQ. -/
def State.cqOf (s : State) (g : Nat) : Nat := g / 64 * 64 + s.rf (sqOff g 8) 8 6
def State.cqEnabled (s : State) (g : Nat) : Bool := s.rf (cqOff g 8) 16 1 == 1
def State.cqSize (s : State) (g : Nat) : Nat := ringSize (s.rf (cqOff g 8) 0 5)
def State.cqHead (s : State) (g : Nat) : Nat := s.rf (cqOff g 0xC) 0 16
def State.cqTail (s : State) (g : Nat) : Nat := s.rf (cqOff g 0x10) 0 16

/-- Where the memory of the model holds the byte at a plain 64-bit host address (R847): those that a local address names
(R66) stand at that local address, those above follow. -/
def hostLocal (a : Nat) : Nat := hostBit + a % 2 ^ 64

def State.pairReg (s : State) (lo hi : Nat) : Nat := (s.reg lo).toNat + 2 ^ 32 * (s.reg hi).toNat

def State.cqs (s : State) (g : Nat) : CqState :=
  match s.host.cqs.find? fun c => c.cq == g with | some c => c | none => ⟨g, true, 0, 0, none⟩

def State.putCq (s : State) (c : CqState) : State :=
  let l := if s.host.cqs.any fun d => d.cq == c.cq then s.host.cqs.map fun d => if d.cq == c.cq then c else d
    else s.host.cqs ++ [c]
  { s with host := { s.host with cqs := l } }

/-- Entries of a CQ reserved or written and not yet consumed (R74). -/
def State.cqInUse (s : State) (g : Nat) : Nat :=
  (s.cqs g).reserved + (s.cqTail g + s.cqSize g - s.cqHead g) % s.cqSize g

/-! ## Doorbells (R72, R73) -/

/-- Global ring of a doorbell page. -/
def pageRing (f : Fn) (page : Nat) : Nat := match f with | .vf n => 64 * n + page | _ => page

def State.dbReject (s : State) (g page off : Nat) : State :=
  (s.setF (sqOff g 0x14) 0 1 1).logEv 0x0102 (s.jobId (g / 64)) [page, off]

/-- Doorbells arrive only through a usable BAR2 (R744). -/
def State.sqDoorbell (s : State) (f : Fn) (page off width value : Nat) : State :=
  let g := pageRing f page
  if !s.ready then s
  else if width ≠ 4 ∨ off ≠ 0 ∨ s.sqSize g ≤ value % 65536 ∨ !s.sqEnabled g then s.dbReject g page off
  else
    let s := s.setF (sqOff g 0x10) 0 16 value
    let pf := if f = .pf then insNat g s.host.sqPf else s.host.sqPf.filter fun x => x != g
    { s with host := { s.host with sqPf := pf } }

def State.cqDoorbell (s : State) (f : Fn) (page off width value : Nat) : State :=
  let g := pageRing f page
  if !s.ready then s
  else if width ≠ 4 ∨ off ≠ 8 ∨ s.cqSize g ≤ value % 65536 ∨ !s.cqEnabled g then s.dbReject g page off
  else s.setF (cqOff g 0xC) 0 16 value

/-- SQ_TAIL_DB (R72, R73, R694): a rejected write sets DB_ERR and writes a record. -/
def execSqTailDb (f : Fn) (page off width value : Nat) (s : State) : Host.Outcome State Fault Refusal :=
  act (.sqTailDb f page off width value) (s.sqDoorbell f page off width value)

/-- CQ_HEAD_DB (R72, R73): frees consumed entries for reservation. -/
def execCqHeadDb (f : Fn) (page off width value : Nat) (s : State) : Host.Outcome State Fault Refusal :=
  act (.cqHeadDb f page off width value) (s.cqDoorbell f page off width value)

/-- CTR_HEAD_DB (R98): frees counter records. R98 gives no check of the value: one that is not below the ring size is taken
as it is, unlike R73's doorbells (DESIGN CHOICE, log entry 72). -/
def State.ctrDoorbell (s : State) (f : Fn) (n value : Nat) : State :=
  if f.isHost ∧ !s.ready then s else s.modCtx n fun c => { c with ctrHead := value % 65536 }

def execCtrHeadDb (f : Fn) (ctx value : Nat) (s : State) : Host.Outcome State Fault Refusal :=
  act (.ctrHeadDb f ctx value) (s.ctrDoorbell f ctx value)

/-! ## Interrupt moderation (R846) -/

/-- Raise the vector of a CQ: count and timer start afresh; VECTOR 0 of function 0's table raises nothing. -/
def State.cqRaise (s : State) (g : Nat) : State :=
  let s := s.putCq { s.cqs g with count := 0, timer := none }
  let v := s.rf (cqOff g 8) 20 11
  if s.rf (cqOff g 8) 31 1 = 1 then (if v = 0 then s else s.raise 0 v) else s.raise (g / 64 + 1) v

/-- A completion counts towards the vector. -/
def State.cqCount (s : State) (g : Nat) (irq bad : Bool) : State :=
  let err := bad && s.rf (cqOff g 8) 17 1 == 1
  if !irq && !err then s
  else
    let c := s.cqs g
    let c := { c with count := c.count + 1, timer := some (c.timer.getD s.clock.now) }
    let s := s.putCq c
    if err || decide (max 1 (s.rf (cqOff g 0x14) 0 16) ≤ c.count) then s.cqRaise g else s

/-- The coalescing timer reaches CQ_COAL.TIME microseconds. -/
def State.coalTimer (s : State) (g : Nat) : State :=
  match (s.cqs g).timer with
  | some t =>
    let us := s.rf (cqOff g 0x14) 16 16
    if us ≠ 0 ∧ t + 1000 * us ≤ s.clock.now ∧ s.cqEnabled g then s.cqRaise g else s
  | none => s

def execCqCoalTimer (cq : Nat) (s : State) : Host.Outcome State Fault Refusal := act (.cqCoalTimer cq) (s.coalTimer cq)

/-! ## Completion records -/

/-- The seven counters in the order of R93. -/
def Counters.list (c : Counters) : List Nat := [c.sat, c.flush, c.nan, c.outl, c.promo, c.ovf, c.zgrp]

/-- Counters of an ended descriptor go into the running totals and the totals of its step (R94, R98, R448). -/
def State.addTotals (s : State) (n : Nat) (c : Counters) : State :=
  let s := (c.list.zipIdx).foldl (fun s p => if p.1 = 0 then s else s.count32 (ctxOff n (0x100 + 4 * p.2)) p.1) s
  s.modCtx n fun k => { k with stepCnt := k.stepCnt.add c }

def Counters.zero (c : Counters) : Bool := c.list.all fun v => v == 0

def State.ctrSize (s : State) (n : Nat) : Nat := ringSize (s.rf (ctxOff n 0x128) 0 5)

/-- Write the counter record of a descriptor: (state, CNT, CNT_LOST) (R93, R94). -/
def State.counterRecord (s : State) (x : Inst) : State × Bool × Bool :=
  if x.cnt.zero || s.rf (ctxOff x.ctx 0x128) 16 1 == 0 then (s, false, false)
  else
    let c := s.ctx x.ctx
    let size := s.ctrSize x.ctx
    if (c.ctrTail + size - c.ctrHead) % size = size - 1 then (s.count32 (ctxOff x.ctx 0x130) 1, true, true)
    else
      let w1 := x.sq % 1024 + (if c.ctrPhase then 2 ^ 31 else 0)
      let ws := [x.w 1, w1] ++ x.cnt.list.map (satw 32) ++ List.replicate 7 0
      let a := hostLocal (s.jr64 x.ctx 0x120 + 64 * c.ctrTail)
      let s := s.wrPhys a (ofWords (ws.map (BitVec.ofNat 32)))
      let t := (c.ctrTail + 1) % size
      (s.modCtx x.ctx fun k => { k with ctrTail := t, ctrPhase := if t = 0 then !k.ctrPhase else k.ctrPhase }, true, false)

/-- Write the completion record at CQ_TAIL with the current phase (R74, R90, R845). -/
def State.cqWrite (s : State) (x : Inst) (cnt lost : Bool) : State :=
  let g := x.cq
  if !s.cqEnabled g then s
  else
    let c := s.cqs g
    let long := decide (2 ^ 32 ≤ x.endTs - x.startTs)
    let b := fun (v : Bool) i => if v then 2 ^ i else 0
    let w1 := x.status + x.detail % 256 * 2 ^ 8 + x.sq % 1024 * 2 ^ 16 + b cnt 26 + b lost 27 + b long 28 + b c.phase 31
    let ws := [x.w 1, w1, x.startTs % 2 ^ 32, x.endTs % 2 ^ 32]
    let t := s.cqTail g
    let s := s.wrPhys (hostLocal (s.pairReg (cqOff g 0) (cqOff g 4) + 16 * t)) (ofWords (ws.map (BitVec.ofNat 32)))
    let t := (t + 1) % s.cqSize g
    let s := s.putCq { c with reserved := c.reserved - 1, phase := if t = 0 then !c.phase else c.phase }
    (s.setF (cqOff g 0x10) 0 16 t).cqCount g (bit (x.w 0) 10) (x.status != 0)

/-- Status codes that a STEP_DONE reports (R97). -/
def reported (st : Nat) : Bool := st != 0 && st != 1 && st != 2 && st != 8

def State.addErr (s : State) (n st : Nat) : State :=
  if reported st then s.modCtx n fun c => { c with errMask := if bit c.errMask st then c.errMask else c.errMask + 2 ^ st } else s

/-- A job's last fetched descriptor has gone while it was QUIESCING (R101). -/
def State.quiesceDone (s : State) (n : Nat) : State :=
  if s.jobState n = 3 ∧ !s.insts.any (fun y => y.ctx == n && y.sq != 1024) then s.setJobState n 1 else s

/-- Queue of a descriptor that was rejected at fetch and entered no lane. -/
def noQueue : Nat := 0xFF

/-- Handle that a persistent MOVE or VSTREAM holds (R107); one rejected at fetch was never accepted. -/
def Inst.handle (x : Inst) : Option Nat :=
  if (x.opcode = 1 ∨ x.opcode = 3) ∧ bit (x.w 6) 31 ∧ x.queue ≠ noQueue then some (bits (x.w 6) 0 8) else none

/-- The re-arm queued behind an instance learns how it ended: stage 1 OK, 2 failed (R109, R111). -/
def State.tellRearm (s : State) (x : Inst) : State :=
  match x.handle with
  | none => s
  | some h => { s with insts := s.insts.map fun y =>
      if y.phase == .rearm && y.ctx == x.ctx && y.handle == some h then { y with stage := if x.status = 0 then 1 else 2 } else y }

/-- Drop a completed descriptor from the lanes. -/
def State.dropInst (s : State) (i : Nat) : State := { s with insts := s.insts.filter fun y => y.id != i }

/-- Local SIGNAL of an OK descriptor, applied once all its writes are visible (R83). -/
def State.localSignal (s : State) (x : Inst) : State :=
  if x.status = 0 ∧ x.sigOn ∧ !x.sigSent ∧ x.sigDev = s.devId then s.semAdd x.sigUnit x.sigIndex x.sigInc else s

/-- Parity deltas are sent and acknowledged: DELTAS_DONE for their step (R698, R700, R717). -/
def State.deltasSent (s : State) (x : Inst) : State :=
  if x.opcode ≠ 0x10 ∨ bits (x.w 6) 0 4 ≠ 0 ∨ x.status ≠ 0 then s
  else
    let t := x.step - 1
    let fail := (s.ctx x.ctx).deltasFail
    (s.modCtx x.ctx fun c => { c with deltasStep := t + 1, deltasFail := false }).sendCtrl s.managerId 0x23
      [s.jobId x.ctx, t, if fail then 1 else 0]

/-- Everything that a descriptor's completion does (R83, R90 to R98, R101, R104). -/
def State.complete (s : State) (x : Inst) : State :=
  let s := (s.localSignal x).deltasSent x
  let s := s.addTotals x.ctx x.cnt
  let (s, cnt, lost) := s.counterRecord x
  let s := (s.cqWrite x cnt lost).addErr x.ctx x.status
  let s := if x.status = 1 ∧ x.sq < 1024 then s.count32 (sqOff x.sq 0x18) 1 else s
  (((s.tellRearm x).dropInst x.id)).quiesceDone x.ctx

/-- A PLAN's record ends inside its PLAN: SIGNAL, totals and error report as for any descriptor, but no record;
its counters and its status go to the PLAN (R118, R119). -/
def State.completeChild (s : State) (x : Inst) (parent : Nat) : State :=
  let s := ((s.localSignal x).deltasSent x).addErr x.ctx x.status
  let s := s.modInst parent fun p =>
    { p with
      cnt := p.cnt.add x.cnt, progress := p.progress + 1, endTs := max p.endTs x.endTs,
      status := if x.status ≠ 0 ∧ (p.status = 0 ∨ x.recIx < p.detail) then x.status else p.status,
      detail := if x.status ≠ 0 ∧ (p.status = 0 ∨ x.recIx < p.detail) then x.recIx else p.detail }
  let s := (s.tellRearm x).dropInst x.id
  match s.inst? parent with
  | some p => if p.phase = .started ∧ p.progress = p.stage then s.endInst p p.status p.detail p.cnt else s
  | none => s

/-- How a prefetch failed is kept for the work that consumes its set (R452). -/
def State.notePrefetch (s : State) (x : Inst) : State :=
  let mine := fun (o : Ofl) => match o.fetch with | some p => p.1 == x.id | none => false
  if x.status = 0 ∨ !(s.ctx x.ctx).ofl.any mine then s
  else s.modCtx x.ctx fun c => { c with ofl := c.ofl.map fun o => if mine o then { o with fail := some (x.status, x.detail) } else o }

/-- A descriptor whose execution has ended completes once its packets are acknowledged; an uncounted remote SIGNAL
goes out first (R76, R83, R604). R84 lets such a SIGNAL arrive before the data; the model sends it only when every data
packet is acknowledged, one of the orders that R84 allows (DESIGN CHOICE, log entry 72). Nothing is written while no PCIe port carries host transfers. -/
def State.completionRecord (s : State) (i : Nat) : State :=
  match s.inst? i with
  | none => s
  | some x =>
    if x.phase ≠ .done ∨ s.packetsOut x ∨ (x.sq < 1024 ∧ !s.hostUp) then s
    else if x.status = 0 ∧ x.sigOn ∧ !x.sigSent ∧ x.sigDev ≠ s.devId then
      if x.sigCounted then s.sendCounted x
      else (s.sendSignal x x.sigDev x.sigUnit x.sigIndex x.sigInc none).modInst i fun y => { y with sigSent := true }
    else match x.parent with
      | some p => s.completeChild x p
      | none => if x.sq < 1024 then s.complete x else (((((s.deltasSent x).addErr x.ctx x.status).notePrefetch x).tellRearm x).dropInst i)

/-- COMPLETION_RECORD. -/
def execCompletionRecord (i : Nat) (s : State) : Host.Outcome State Fault Refusal :=
  act (.completionRecord i) (s.completionRecord i)

/-- A queued re-arm starts once its predecessor has written its last completion, or ends with E_ABORT if that was
not OK (R109, R111). It takes its place at the end of its lane. -/
def State.rearmStart (s : State) (n h : Nat) : State :=
  match s.insts.find? fun y => y.phase == .rearm && y.ctx == n && y.handle == some h with
  | none => s
  | some y =>
    if y.stage = 0 then s
    else
      let z := { y with phase := .queued, stage := 0 }
      let s' := { s with insts := (s.insts.filter fun x => x.id != y.id) ++ [z] }
      if y.stage = 1 then s'
      else s'.setInst { z with phase := .done, status := 0xC, startTs := s.clock.fab, endTs := s.clock.fab }

def execRearmStart (ctx handle : Nat) (s : State) : Host.Outcome State Fault Refusal :=
  act (.rearmStart ctx handle) (s.rearmStart ctx handle)

end Sys2Proof.Machine
end

