-- ==== Sys2Proof/Machine/JobCtl.lean ====
section
/-! DEFINITION. Job contexts: commands of JOB_CTL, aborts, ring enables, FLR (02: R69 to R71, R98 to R106, R844, R845; 13: R682). -/
namespace Sys2Proof.Machine

/-! ## Ending a context's work -/

/-- A PLAN that has records in flight: their completions end it (R119). -/
def State.planRuns (s : State) (x : Inst) : Bool := x.opcode == 0x0E && s.insts.any fun y => y.parent == some x.id

/-- A fetched descriptor whose execution has not ended ends with a status (R101, R727). A PLAN with records in flight ends
with the last of them, so that its status, DETAIL and counters are those of R119. -/
def State.abortInst (s : State) (status : Nat) (x : Inst) : State :=
  if x.phase = .done ∨ s.planRuns x then s
  else
    let s := if x.phase = .started then s else s.modInst x.id fun y => { y with startTs := s.clock.fab }
    s.endInst x status 0 {}

/-- The windows that the context's OPENs own, and its shadow entries, are gone (R539). -/
def State.dropWindows (s : State) (n : Nat) : State :=
  { s with fab := { s.fab with windows := s.fab.windows.filter fun w => w.ctx != n } }

/-- Count groups of a job whose context has left ACTIVE and QUIESCING (R610). -/
def State.dropGroups (s : State) (n : Nat) : State :=
  { s with fab := { s.fab with groups := s.fab.groups.filter fun g => g.job != s.jobId n } }

/-- Every fetched, uncompleted descriptor of a context ends with a status; its windows and count groups go. -/
def State.abortCtx (s : State) (n status : Nat) : State :=
  (((s.insts.filter fun x => x.ctx == n).foldl (fun s x => s.abortInst status x) s).dropWindows n).dropGroups n

/-- Clear ENABLE of the 64 SQs and 64 CQs of a context; a stopped CQ holds no reservation (R71, R845). Pending count and
timer of R846 stay, as at CQ_DISABLE (DESIGN CHOICE, log entry 72). -/
def State.disableRings (s : State) (n : Nat) : State :=
  let s := (upto (64 * n) 64).foldl (fun s g => if s.sqEnabled g then s.setF (sqOff g 8) 16 1 0 else s) s
  let s := (upto (64 * n) 64).foldl (fun s g => if s.cqEnabled g then s.setF (cqOff g 8) 16 1 0 else s) s
  { s with host := { s.host with cqs := s.host.cqs.map fun c => if c.cq / 64 == n then { c with reserved := 0 } else c } }

/-- A fatal context error: FAULTED with its cause, in-flight work ends with E_ABORT (R101). -/
def State.faultCtx (s : State) (n cause : Nat) : State :=
  if s.jobState n = 0 then s
  else (((s.abortCtx n 0xC).setJobState n 5).setF (ctxOff n 4) 4 1 1).setF (ctxOff n 4) 8 8 cause

/-- A command not legal in the state (R103). -/
def State.cmdErr (s : State) (n : Nat) : State := s.setF (ctxOff n 4) 3 1 1

/-- Function 0 and the management complex (R843). -/
def isPf : Fn → Bool
  | .pf => true
  | .mgmt => true
  | .vf _ => false
  | .core _ => false

/-- The access reaches the registers: a PCIe function only while READY (R744). -/
def State.reaches (s : State) (f : Fn) : Bool := !f.isHost || s.ready

/-- The requester may write JOB_CTL of the context: function 0, or the context's own VF (R102). -/
def jobFn (f : Fn) (n : Nat) : Bool := isPf f || f == .vf n

def State.bind (s : State) (f : Fn) (n : Nat) : State :=
  if !s.reaches f || !isPf f then s
  else if s.jobState n = 0 then s.setJobState n 1
  else s.cmdErr n

/-- Ranges that a region and its banks occupy. -/
def State.bankRanges (s : State) (n : Nat) (g : Region) : List (Nat × Nat) :=
  if g.kind = 1 then [(g.base, g.size)] else (List.range (s.banks n)).map fun k => (g.base + k * g.stride, g.size)

def overlaps (a b : Nat × Nat) : Bool := decide (a.1 < b.1 + b.2) && decide (b.1 < a.1 + a.2)

/-- No two of the ranges overlap. -/
def disjointAll : List (Nat × Nat) → Bool
  | [] => true
  | a :: t => t.all (fun b => !overlaps a b) && disjointAll t

/-- START is refused on these configurations (R682). -/
def State.startOk (s : State) (n : Nat) : Bool :=
  decide (s.detectN n < s.banks n) && disjointAll ((s.regions n).flatMap (s.bankRanges n)) &&
  (!s.parityEn n || (s.rf (ctxOff n 0x834) 0 24 != 0 && s.rf (ctxOff n 0x834) 0 24 % s.groupG n == 0))

/-- The registers a rank record carries: JOB_CFG, recovery registers, checkpoint table, windows and grants (R707). -/
def rankOffsets : List Nat :=
  [8] ++ (List.range 24).map (0x40 + 4 * ·) ++ (List.range 14).map (0x800 + 4 * ·) ++
  (List.range 32).flatMap fun r => (List.range 7).map fun k => 0x900 + 0x20 * r + 4 * k

/-- Send the rank record in pieces of 120 words after job ID and index of the first word (R707, log entry 11). -/
def State.sendRankRecord (s : State) (n : Nat) : State :=
  let ws := rankOffsets.map fun o => s.jr n o
  ((pieces 120 ws).zipIdx).foldl (fun s p => s.sendCtrl s.managerId (ctrlType 5) ([s.jobId n, 120 * p.2] ++ p.1)) s

/-- The firmware's plan of basic work rests on the clusters in service now (R704, R848). -/
def State.noteService (s : State) (n : Nat) : State :=
  s.modCtx n fun c => { c with outAtStop := (List.range 32).filter s.outOfService }

/-- The rank of each context begins at START: its committed-state bookkeeping is fresh. -/
def State.start (s : State) (f : Fn) (n : Nat) : State :=
  if !s.reaches f || !jobFn f n then s
  else if s.jobState n = 1 ∧ s.startOk n then ((s.setJobState n 2).noteService n).sendRankRecord n
  else s.cmdErr n

def State.quiesce (s : State) (f : Fn) (n : Nat) : State :=
  if !s.reaches f || !jobFn f n then s
  else if s.jobState n = 2 then
    if s.insts.any fun x => x.ctx == n && x.sq != 1024 then s.setJobState n 3 else (s.setJobState n 1).dropGroups n
  else s.cmdErr n

def State.abort (s : State) (f : Fn) (n : Nat) : State :=
  if !s.reaches f || !jobFn f n then s
  else if s.jobState n = 2 ∨ s.jobState n = 3 then (s.abortCtx n 0xC).setJobState n 1
  else s.cmdErr n

/-- Registers that RELEASE clears: JOB_CFG, windows and grants, host Diacritic window, totals (R101). -/
def releaseRel (rel : Nat) : Bool :=
  rel == 8 || (decide (0x40 ≤ rel) && decide (rel < 0x120)) || (decide (0x340 ≤ rel) && decide (rel < 0x354))

def State.freeCtx (s : State) (n : Nat) : State :=
  let s := s.disableRings n
  let s := s.dropRegs fun o => decide (ctxOff n 0 ≤ o) && decide (o < ctxOff n 0x4000) && releaseRel (o - ctxOff n 0)
  ((s.setJobState n 0).setF (ctxOff n 4) 4 1 0).setF (ctxOff n 4) 8 8 0

def State.release (s : State) (f : Fn) (n : Nat) : State :=
  if !s.reaches f || !isPf f then s
  else if s.jobState n = 1 ∨ s.jobState n = 5 then s.freeCtx n
  else s.cmdErr n

/-- The completion records of a context's ended work that can be written now; those of PLANs after their records'. -/
def State.flushCtx (s : State) (n : Nat) : State :=
  let run := fun (s : State) => (s.insts.filter fun x => x.ctx == n).foldl (fun s x => s.completionRecord x.id) s
  run (run s)

/-- FLR of a VF: as ABORT, then as RELEASE, from any state (R101). ABORT completes the fetched descriptors before RELEASE
disables their rings. -/
def State.flr (s : State) (n : Nat) : State := ((s.abortCtx n 0xC).flushCtx n).freeCtx n

/-- JOB_CTL BIND (R101, R102). -/
def execBind (f : Fn) (ctx : Nat) (s : State) : Host.Outcome State Fault Refusal := act (.bind f ctx) (s.bind f ctx)
/-- JOB_CTL START (R101, R682, R707). -/
def execStart (f : Fn) (ctx : Nat) (s : State) : Host.Outcome State Fault Refusal := act (.start f ctx) (s.start f ctx)
/-- JOB_CTL QUIESCE (R101). -/
def execQuiesce (f : Fn) (ctx : Nat) (s : State) : Host.Outcome State Fault Refusal := act (.quiesce f ctx) (s.quiesce f ctx)
/-- JOB_CTL ABORT (R101). -/
def execAbort (f : Fn) (ctx : Nat) (s : State) : Host.Outcome State Fault Refusal := act (.abort f ctx) (s.abort f ctx)
/-- JOB_CTL RELEASE (R101). -/
def execRelease (f : Fn) (ctx : Nat) (s : State) : Host.Outcome State Fault Refusal := act (.release f ctx) (s.release f ctx)
/-- Function-level reset of a VF (R101). -/
def execFlr (vf : Nat) (s : State) : Host.Outcome State Fault Refusal := act (.flr vf) (s.flr vf)

/-! ## Ring enables (R69 to R71, R844, R845) -/

/-- A requester may write the rings of a context: function 0 or its VF. -/
def ringFn (f : Fn) (g : Nat) : Bool := jobFn f (g / 64)

/-- SQ_CFG while ENABLE is 0 takes every field of the write (R67, R69). -/
def State.sqCfg (s : State) (g : Nat) (v : Word) : State :=
  s.setReg (sqOff g 8) (BitVec.ofNat 32 (fld v 0 5 + fld v 8 6 * 2 ^ 8 + s.rf (sqOff g 8) 16 1 * 2 ^ 16))

def State.sqEnable (s : State) (f : Fn) (g : Nat) (v : Word) : State :=
  if !s.reaches f || !ringFn f g || s.sqEnabled g then s
  else
    let s := (s.sqCfg g v).setF (sqOff g 8) 16 1 1
    (((s.setReg (sqOff g 0xC) 0#32).setReg (sqOff g 0x10) 0#32).setReg (sqOff g 0x18) 0#32).setF (sqOff g 0x14) 1 1 0

def State.sqDisable (s : State) (f : Fn) (g : Nat) (v : Word) : State :=
  if !s.reaches f || !ringFn f g then s
  else if s.sqEnabled g then s.setF (sqOff g 8) 16 1 0
  else s.sqCfg g v

/-- VEC_PF is written by function 0 and the management complex only; ERR_IRQ and VECTOR at any time (R68, R69). -/
def State.cqVec (s : State) (f : Fn) (g : Nat) (v : Word) : State :=
  let s := (s.setF (cqOff g 8) 17 1 (fld v 17 1)).setF (cqOff g 8) 20 11 (fld v 20 11)
  if isPf f then s.setF (cqOff g 8) 31 1 (fld v 31 1) else s

/-- R845 starts a CQ that is enabled again empty, with fresh reservations; that the pending count and timer of R846 survive
is the model's choice (DESIGN CHOICE, log entry 72). -/
def State.cqEnable (s : State) (f : Fn) (g : Nat) (v : Word) : State :=
  if !s.reaches f || !ringFn f g then s
  else if s.cqEnabled g then s.cqVec f g v
  else
    let s := ((s.cqVec f g v).setF (cqOff g 8) 0 5 (fld v 0 5)).setF (cqOff g 8) 16 1 1
    ((s.setReg (cqOff g 0xC) 0#32).setReg (cqOff g 0x10) 0#32).putCq { s.cqs g with phase := true, reserved := 0 }

/-- Disabling a CQ (R845); its pending count and timer stay (DESIGN CHOICE, log entry 72). -/
def State.cqDisable (s : State) (f : Fn) (g : Nat) (v : Word) : State :=
  if !s.reaches f || !ringFn f g then s
  else
    let s := if s.cqEnabled g then s else s.setF (cqOff g 8) 0 5 (fld v 0 5)
    let s := (s.cqVec f g v).setF (cqOff g 8) 16 1 0
    s.putCq { s.cqs g with reserved := 0 }

def State.fetchErrClear (s : State) (f : Fn) (g : Nat) : State :=
  if !s.reaches f || !ringFn f g then s else s.setF (sqOff g 0x14) 1 1 0

/-- A write of SQ_CFG with ENABLE 1 to a disabled ring. -/
def execSqEnable (f : Fn) (sq : Nat) (v : Word) (s : State) : Host.Outcome State Fault Refusal :=
  act (.sqEnable f sq v) (s.sqEnable f sq v)
/-- A write of SQ_CFG with ENABLE 0. -/
def execSqDisable (f : Fn) (sq : Nat) (v : Word) (s : State) : Host.Outcome State Fault Refusal :=
  act (.sqDisable f sq v) (s.sqDisable f sq v)
/-- A write of CQ_CFG with ENABLE 1. -/
def execCqEnable (f : Fn) (cq : Nat) (v : Word) (s : State) : Host.Outcome State Fault Refusal :=
  act (.cqEnable f cq v) (s.cqEnable f cq v)
/-- A write of CQ_CFG with ENABLE 0. -/
def execCqDisable (f : Fn) (cq : Nat) (v : Word) (s : State) : Host.Outcome State Fault Refusal :=
  act (.cqDisable f cq v) (s.cqDisable f cq v)
/-- Writing 1 to FETCH_ERR clears it, and fetching resumes at SQ_HEAD (R844). -/
def execFetchErrClear (f : Fn) (sq : Nat) (s : State) : Host.Outcome State Fault Refusal :=
  act (.fetchErrClear f sq) (s.fetchErrClear f sq)

end Sys2Proof.Machine
end

