-- ==== Sys2Proof/Machine/Reset.lean ====
section
/-! DEFINITION. Reset levels, sources, assertion and release; tiles and capacity; boot (14, 05 R281 to R286, 16 R784 to R789). -/
namespace Sys2Proof.Machine

/-! ## Tiles and capacity (R51, R52, R281 to R286) -/

/-- Physical tiles of a cluster retired, in the order of retirement. -/
def State.retiredOf (s : State) (c : Nat) : List Nat := (s.stores.retired.filter fun p => p.1 == c).map Prod.snd

/-- Physical tile of logical tile `n`: itself, or the spare when it was the first of tiles 0 to 7 to retire. -/
def tileOf (ret : List Nat) (n : Nat) : Nat :=
  if !ret.contains n then n
  else if !ret.contains 8 && (ret.filter fun t => t != 8).head? == some n then 8
  else 0xF

def tilesActive (ret : List Nat) : List Nat := ((List.range 8).map (tileOf ret)).filter fun t => t != 0xF

/-- TILE_MAP and TILE_STATUS of a cluster from its retirements (R282, R283). -/
def State.tileRegs (s : State) (c : Nat) : State :=
  let ret := s.retiredOf c
  let act := tilesActive ret
  let map := ((List.range 8).zipIdx).foldl (fun a p => a + tileOf ret p.1 * 16 ^ p.2) 0
  let mask := fun (l : List Nat) => (List.range 9).foldl (fun a t => if l.contains t then a + 2 ^ t else a) 0
  let spare := (List.range 9).any fun t => !ret.contains t && !act.contains t
  let b := fun (v : Bool) i => if v then 2 ^ i else 0
  (s.setReg (clusterOff c 0x100) (BitVec.ofNat 32 map)).setReg (clusterOff c 0x104)
    (BitVec.ofNat 32 (mask act + mask ret * 2 ^ 9 + b spare 18 + b (decide (act.length < 8)) 19 + b act.isEmpty 20))

/-- DEV_CAPACITY as the tiles, stacks and I/O dies in service make it. -/
def State.capacityNow (s : State) : Nat :=
  let acts := (List.range 32).map fun c => (tilesActive (s.retiredOf c)).length
  let spares := (List.range 32).filter fun c => s.rf (clusterOff c 0x104) 18 1 == 1
  let deg := acts.filter fun a => decide (a < 8)
  acts.foldl (· + ·) 0 + spares.length * 2 ^ 9 + deg.length * 2 ^ 16 + s.rf 0x10 24 4 * 2 ^ 24 + s.rf 0x10 28 4 * 2 ^ 28

/-- Recompute DEV_CAPACITY; a change writes a capacity-update record (R52). -/
def State.capacity (s : State) : State :=
  let v := BitVec.ofNat 32 s.capacityNow
  if s.reg 0x10 = v then s else (s.setReg 0x10 v).logEv 0x0105 0 [v.toNat]

/-- Retire a physical tile into the retirement store, which records the step its successor starts from (R281, R285, R669). -/
def State.retireTile (s : State) (c t : Nat) : State :=
  if (s.retiredOf c).contains t then s
  else
    let last := sget 0 (s.stores.lastPass.map fun e => (16 * e.1.1 + e.1.2, e.2)) (16 * c + t)
    let st := { s.stores with
      retired := s.stores.retired ++ [(c, t)],
      lastPass := if (s.retiredOf c).contains 8 || last == 0 then s.stores.lastPass
        else s.stores.lastPass.filter (fun e => e.1 != (c, 8)) ++ [((c, 8), last)] }
    State.capacity (State.tileRegs { s with stores := st } c)

/-! ## Cluster reset (R510, R726, R727) -/

/-- Queue numbers of the lanes of a cluster (R455). -/
def clusterQueue (c q : Nat) : Bool := decide (q < 0x80) && q % 32 == c

/-- SEM_BANK_OWNER.VALID, semaphore values and ring ENABLE of a unit are cleared. -/
def State.clearSync (s : State) (u : Nat) : State :=
  let owners := if u < 32 then 64 else 128
  let s := s.dropRegs fun o => decide (semOff u 0 ≤ o) && decide (o < semOff u 0 + 4 * semCount u)
  let s := (List.range owners).foldl (fun s b => if s.rf (ownerOff u b) 12 1 = 1 then s.setF (ownerOff u b) 12 1 0 else s) s
  let s := { s with wakes := s.wakes.filter fun w => w.1 != u }
  if u < 32 then (List.range 64).foldl (fun s r => if s.rf (ringOff u r 16) 0 1 = 1 then s.setF (ringOff u r 16) 0 1 0 else s) s
  else s

/-- The SSM of a cluster reads zero and its side store is cleared (R654, R726). -/
def State.clearSsm (s : State) (c : Nat) : State :=
  { s with
    mem := memClear s.mem (ssmBase c) (ssmBase c + ssmSize),
    diacs := memClear s.diacs (4 * (ssmBase c / 1024)) (4 * ((ssmBase c + ssmSize) / 1024)) }

/-- The hot-row directory of the Lexicon engine homed in a cluster is emptied; LEX_HOT_ENTRIES shows that, its other registers keep
their values (R363). -/
def State.clearHot (s : State) (c : Nat) : State :=
  if c % 4 = 0 then
    ({ s with hot := s.hot.filter fun h => h.1 != c / 4 }.dropRegs fun o => o == clusterOff c 0x38008)
  else s

/-- Cores of other clusters that waited on the cluster's semaphores end with 0 and an access-fault trap (R727). -/
def State.trapCores (s : State) (c : Nat) : State :=
  (List.range 32).foldl (fun s d =>
    match (s.core d).waiting with
    | some (rd, w, _, _) =>
      if d ≠ c ∧ w.unit = c then
        (s.modCore d fun k => { k with x := sset 0#32 rd 0#32 k.x, waiting := none }).trapCore d .accessFault
      else s
    | none => s) s

/-- Work that a cluster reset ends: descriptors executing on the cluster, and waits on its semaphores and rings. -/
def clusterWork (c : Nat) (x : Inst) : Bool :=
  (clusterQueue c x.queue && x.phase == .started) ||
  (match x.wait with | some w => w.unit == c && x.phase != .done | none => false)

/-- A level 0 reset is recognised: its record, and the cluster is in reset until CLUSTER_RESET (R727, R733, R734). -/
def State.clusterAssert (s : State) (c source : Nat) : State :=
  if s.rst.phase ≠ .ready then s.logEv 0x0704 0 [source, 0, c]
  else
    let s := s.logEv 0x0701 0 [source, 0, c]
    let s := { s with rst := { s.rst with clusterInReset := insNat c s.rst.clusterInReset } }
    (s.insts.filter (clusterWork c)).foldl (fun s x => s.abortInst 0xC x) s

/-- The cluster's own state is reset and it returns to service. -/
def State.clusterReset (s : State) (c : Nat) : State :=
  if !s.rst.clusterInReset.contains c then s
  else
    let s := (((s.clearSync c).clearSsm c).clearHot c).trapCores c
    let s := s.modCore c fun _ => Core.reset
    { s with tileq := s.tileq.filter (fun e => e.1 / 9 != c), rst := { s.rst with clusterInReset := s.rst.clusterInReset.filter fun d => d != c } }

/-- CLUSTER_RESET. -/
def execClusterReset (c : Nat) (s : State) : Host.Outcome State Fault Refusal := act (.clusterReset c) (s.clusterReset c)

/-! ## Device resets (R713, R726, R729, R733) -/

/-- GPIO0 follows READY, and GPIO1 the issue limit, once the firmware has the pins (R816). -/
def State.setReady (s : State) (b : Bool) : State :=
  let s := s.setF globalStatus 0 1 (if b then 1 else 0)
  let busy := s.rf 0x20014 11 2 != 0 || s.pow.clamp
  let ps := modNth (fun p => { p with drive := if b then 2 else 1 }) 0 s.rst.pins
  { s with rst := { s.rst with pins := if b then modNth (fun p => { p with drive := if busy then 2 else 1 }) 1 ps else ps } }

/-- The fuse state of the configurable pins; a reserved code acts as 0 (R739). -/
def State.fusePins (s : State) : List Pin :=
  s.stores.pinMap.map fun e => ⟨if bits e 0 2 = 3 then 0 else bits e 0 2, if bits e 2 2 = 3 then 0 else bits e 2 2⟩

/-- Records of WARM_RESET: SQ_HEAD of every enabled SQ, four to a record (R713, log entry 16). -/
def State.logWarm (s : State) : State :=
  let sqs := (List.range 1024).filter s.sqEnabled
  let ws := sqs.map fun g => g + 2 ^ 16 * s.sqHead g
  if ws.isEmpty then s.logEv 0x0605 0 [] else (pieces 4 ws).foldl (fun s l => s.logEv 0x0605 0 l) s

/-- What every device reset clears: SSM, semaphores, rings, cores, windows, count groups, flows, directories,
descriptors in flight, management cores, finished-tile queues, TILE_CHECK_FAIL (R284, R713, R726). -/
def State.warmClear (s : State) : State :=
  let s := (List.range 32).foldl (fun s c => ((((s.clearSync c).clearSsm c).clearHot c).modCore c fun _ => Core.reset).dropRegs fun o => o == clusterOff c 0x108) s
  let s := (upto 32 4).foldl (fun s u => s.clearSync u) s
  let s := (List.range 16).foldl (fun s n =>
    let s := s.disableRings n
    if s.jobState n = 2 ∨ s.jobState n = 3 ∨ s.jobState n = 4 then s.setJobState n 4 else s) s
  let s := ((s.setF 0x10010 16 1 0).setF 0x30004 0 2 0)
  { s with
    insts := [], wakes := [], wc := [], hot := [], tileq := [], mcores := List.replicate 4 Hart.reset,
    host := { s.host with cqs := s.host.cqs.map (fun c => { c with reserved := 0, timer := none }), latches := [], planCache := [], raised := [], held := [] },
    fab := { Fabric.reset with
      links := s.fab.links, hopExpired := s.fab.hopExpired, pktAged := s.fab.pktAged, badKind := s.fab.badKind,
      injectOff := s.fab.injectOff },
    pow := { s.pow with asleep := [], deepDies := [], ioLight := [], wakes := [], lent := [], poolOffers := [] },
    rst := { s.rst with clusterInReset := [] } }

/-- Registers of a Lexicon engine that every reset keeps (R363). -/
def lexKept (o : Nat) : Bool :=
  match blockOf o with
  | (.compute c, rel) => c % 4 == 0 && (rel == 0x38000 || rel == 0x38004 || rel == 0x3800C)
  | _ => false

/-- Offsets that the AOD keeps through a cold reset: RESET/CLOCK, PWR_EMERG, the measured inputs, repair counts, serial number. -/
def aodKept (o : Nat) : Bool :=
  (decide (0x10000 ≤ o) && decide (o < 0x20000)) || o == 0x20028 || o == 0x20010 || o == 0x20020 ||
  o == 0x30010 || o == 0x30014 ||
  (decide (0x200000 ≤ o) && decide (o < 0x2F0000) && (o % 0x10000 == 0x10 || o % 0x10000 == 0x14))

/-- What a cold reset clears beyond a warm one: every register outside the AOD, HBM contents and Diacritics, contexts (R645, R726). -/
def State.coldClear (s : State) : State :=
  let s := s.dropRegs fun o => !aodKept o && !lexKept o
  { s with
    mem := memClear s.mem hbmBase hostBit, diacs := [], poison := [],
    ctxs := List.replicate 16 Ctx.reset, mgr := Manager.reset, fab := Fabric.reset,
    host := { HostIf.reset with perst := s.host.perst, busMaster := false },
    clock := { s.clock with fab := 0, slew := 0, fabSet := false, lostLogged := false, reqT1 := none, ppsAt := none },
    pow := { Power.reset with
      flow100 := s.pow.flow100, tin := s.pow.tin, tout := s.pow.tout, coolSeen := s.pow.coolSeen,
      dieTemp := s.pow.dieTemp, thermSeen := s.pow.thermSeen },
    sec := { s.sec with running := none } }

/-- State of the AOD, lost with 3.3 V standby; the VBAT domain keeps the calendar and its VALID (R726, R780, R810). -/
def State.standbyLost (s : State) : State :=
  let s := s.dropRegs fun o => o != 0x30010 && o != 0x30014 && o != 0x10048 && !lexKept o
  { s with
    log := { recs := [], next := 1 },
    sec := { Secure.reset with
      slotA := s.sec.slotA, slotB := s.sec.slotB, activeB := s.sec.activeB, nonceCtr := s.sec.nonceCtr,
      aliasIssued := s.sec.aliasIssued },
    rst := { s.rst with wdtLast := none, aodUp := false, faultL := false, pins := List.replicate 9 ⟨0, 0⟩ } }

/-- Assertion of a device reset of level 1 or above (R726, R733, R734, R740). -/
def State.assertReset (s : State) (level source : Nat) : State :=
  let s := s.setReady false
  let s := if level = 1 then s.logWarm else s
  let s := s.warmClear
  let s := if 2 ≤ level then { s.coldClear with rst := { s.rst with pins := s.fusePins } } else s
  let s := if level = 3 then s.standbyLost else s
  let s := s.setF globalStatus 1 1 (if s.rst.faultL then 1 else 0)
  let n := if level = 3 then 0 else satAdd 16 (s.rf 0x10004 8 16) 1
  let s := s.setReg 0x10004 (BitVec.ofNat 32 (source + level * 2 ^ 4 + n * 2 ^ 8))
  let s := { s with rst := { s.rst with phase := .asserted, level := level, source := source } }
  if level = 3 then s else s.logEv 0x0701 0 [source, level, 0, s.clock.cal % 2 ^ 32]

/-- A source of a lower level than the reset in progress is absorbed (R729). -/
def State.absorbs (s : State) (level : Nat) : Bool := s.rst.phase != .ready && decide (level < s.rst.level)

/-- A source of level 1 or above is recognised (R729), or absorbed. -/
def State.recognise (s : State) (level source : Nat) : State :=
  if s.absorbs level then s.logEv 0x0704 0 [source, level]
  else s.assertReset level source

/-- A source that lets the device tell its manager first (R714): the WARM_NOTICE leaves before the reset. -/
def State.recogniseNoticed (s : State) (source : Nat) : State :=
  if s.rst.phase ≠ .ready ∨ s.isManager then s.recognise 1 source
  else
    let q := { s with fab := { s.fab with buf := [], outbox := [] } }.sendCtrl s.managerId 0x27 [0, source]
    let out := q.fab.outbox.foldl (fun q p => q.switchPkt p.1 none p.2) { q with fab := { q.fab with outbox := [] } }
    let s := s.recognise 1 source
    { s with fab := { s.fab with buf := out.fab.buf } }

/-- Nothing holds the device in reset: pins high, rails and reference good, no emergency (R729, R737, R775). -/
def State.mayRelease (s : State) : Bool :=
  !s.rst.rstLow && !s.rst.wrstLow && s.rst.rail54 && s.rst.rail33 && !s.rst.clockHeld && !s.rst.leakHeld && !s.rst.emergHeld

/-! ### Sources -/

/-- 3.3 V standby rises through 3.05 V (R728). Without VBAT the calendar starts from 0 and is not valid (R782). -/
def State.powerOn (s : State) (kept : Bool) : State :=
  let s := s.assertReset 3 0
  let s := if kept then s else State.setF { s with clock := { s.clock with cal := 0, calFrac := 0, calHold := 0 } } 0x10048 0 1 0
  { s with rst := { s.rst with rail33 := true, clockHeld := false, leakHeld := false, emergHeld := false, faultL := false } }

def State.brownOut33 (s : State) : State :=
  let s := s.assertReset 3 1
  { s with rst := { s.rst with rail33 := false } }

def State.brownOut54 (s : State) : State :=
  let s := { s with rst := { s.rst with rail54 := false } }
  s.recognise 2 2

/-- Outcome of a filtered low pulse: ignored, undefined (a free choice), recognised (R737, R834). -/
def State.pulse (s : State) (lo hi ns : Nat) : Bool × State :=
  if ns < lo then (false, s)
  else if hi ≤ ns then (true, s)
  else let (v, s) := s.free 1; (v == 1, s)

/-- FAULT follows FAULT_L (R132). An RST_L pulse also releases the holds of a leak that has ended and of emergencies clear for 10 s (R729, R775). -/
def State.pulseHolds (s : State) : State :=
  let leak := s.rst.leakHeld && s.rst.leakLow
  let em := s.rst.emergHeld && !(match s.rst.emergClearAt with | some t => decide (t + 10000000000 ≤ s.clock.now) | none => false)
  let fault := s.rst.faultL && (leak || em)
  { s with rst := { s.rst with leakHeld := leak, emergHeld := em, faultL := fault } }.setF globalStatus 1 1 (if fault then 1 else 0)

/-- RST_L; a failed device repeats its attempt (R750). An absorbed pulse holds nothing (R729, R825). -/
def State.rstPulse (s : State) (ns : Nat) : State :=
  match s.pulse 1000 5000 ns with
  | (false, s) => s
  | (true, s) =>
    let s := State.pulseHolds { s with rst := { s.rst with rstLow := s.rst.rstLow || s.rst.phase == .failed || !s.absorbs 2 } }
    if s.rst.phase = .failed then s.assertReset 2 3 else s.recognise 2 3

/-- WRST_L; only RST_L acts while both are low (R738). An absorbed pulse holds nothing (R729). -/
def State.wrstPulse (s : State) (ns : Nat) : State :=
  match s.pulse 1000 5000 ns with
  | (false, s) => s
  | (true, s) => if s.rst.rstLow then s else { s with rst := { s.rst with wrstLow := s.rst.wrstLow || !s.absorbs 1 } }.recognise 1 4

/-- The pins have been high for 1 µs (R737). -/
def State.releasePins (s : State) : State :=
  let s := { s with rst := { s.rst with rstLow := false, wrstLow := false } }
  if s.rst.phase = .asserted ∧ s.mayRelease then { s with rst := { s.rst with phase := .released } } else s

def execPowerOn (kept : Bool) (s : State) : Host.Outcome State Fault Refusal := act (.powerOn kept) (s.powerOn kept)
def execBrownOut3v3 (s : State) : Host.Outcome State Fault Refusal := act .brownOut3v3 s.brownOut33
def execBrownOut54v (s : State) : Host.Outcome State Fault Refusal := act .brownOut54v s.brownOut54
def execRstL (ns : Nat) (s : State) : Host.Outcome State Fault Refusal := act (.rstL ns) (s.rstPulse ns)
def execWrstL (ns : Nat) (s : State) : Host.Outcome State Fault Refusal := act (.wrstL ns) (s.wrstPulse ns)
def execResetRelease (s : State) : Host.Outcome State Fault Refusal := act .resetRelease s.releasePins
/-- 54 V within its rating again (R728). -/
def execP54vRestored (s : State) : Host.Outcome State Fault Refusal :=
  act .p54vRestored { s with rst := { s.rst with rail54 := true } }

/-- PERST of a port resets only that port's link and configuration space (R735). -/
def State.perst (s : State) (port : Nat) (low : Bool) : State :=
  if low then
    { s with host := { s.host with perst := insNat port s.host.perst, trained := s.host.trained.filter (fun p => p != port),
                                   busMaster := s.host.busMaster && port != 0 } }
  else { s with host := { s.host with perst := s.host.perst.filter fun p => p != port } }

def execPerst (port : Nat) (low : Bool) (s : State) : Host.Outcome State Fault Refusal := act (.perst port low) (s.perst port low)

/-- A port finishes link training or loses its link (R57, log entry 13). -/
def State.pcieLink (s : State) (port : Nat) (up : Bool) : State :=
  if up ∧ s.host.perst.contains port then s
  else
    let t := if up then insNat port s.host.trained else s.host.trained.filter fun p => p != port
    { s with host := { s.host with trained := t, busMaster := s.host.busMaster || (up && port == 0) } }

def execPcieLinkTraining (port : Nat) (up : Bool) (s : State) : Host.Outcome State Fault Refusal :=
  act (.pcieLinkTraining port up) (s.pcieLink port up)

/-- The watchdog has counted its timeout (R731). -/
def State.watchdog (s : State) : State :=
  if s.rf 0x10010 16 1 = 0 ∨ s.clock.now < s.rst.wdtStart + 1000000 * min 10000 (max 10 (s.rf 0x10010 0 14)) then s
  else
    let again := match s.rst.wdtLast with | some t => decide (s.clock.now ≤ t + 10000000000) | none => false
    let s := if again then s.recognise 2 6 else s.recogniseNoticed 5
    { s with rst := { s.rst with wdtLast := some s.clock.now } }

def execWatchdogExpiry (s : State) : Host.Outcome State Fault Refusal := act .watchdogExpiry s.watchdog

/-- RST_CTL with GO (R733): LEVEL 3 is ignored and sets ERR. -/
def State.go (s : State) (f : Fn) (level c : Nat) : State :=
  if !s.reaches f || !isPf f then s
  else
    let s := (s.setF 0x10000 0 2 level).setF 0x10000 2 5 c
    if level = 3 then s.setF 0x10000 9 1 1
    else if level = 2 then s.recognise 2 7
    else if level = 1 then s.recogniseNoticed 7
    else s.clusterAssert c 7

def execGo (f : Fn) (level cluster : Nat) (s : State) : Host.Outcome State Fault Refusal :=
  act (.go f level cluster) (s.go f level cluster)

/-- Level of debug access in force (R791). -/
def State.granted (s : State) : Nat := s.rf 0x30004 0 2

/-- A reset asked for by an authorised debugger (R728, R793). -/
def State.debugReset (s : State) (f : Fn) (level c : Nat) : State :=
  if s.granted = 0 ∨ !s.reaches f ∨ !isPf f then s
  else if level = 0 then s.clusterAssert c 8 else s.recognise 1 8

def execDebugReset (f : Fn) (level cluster : Nat) (s : State) : Host.Outcome State Fault Refusal :=
  act (.debugReset f level cluster) (s.debugReset f level cluster)

/-- Stacks whose STATE is one code take another (R660). -/
def State.stackStates (s : State) (a b : Nat) : State :=
  (List.range 12).foldl (fun s k => if s.rf (stackOff k 4) 0 3 = a then s.setF (stackOff k 4) 0 3 b else s) s

/-- The reference stops: write combining flushed, stacks in self-refresh, everything held; a release in progress
stops (R660, R729, R730). -/
def State.clockFail (s : State) : State :=
  if s.rst.clockHeld then s
  else
    let s := State.stackStates { s with wc := [] } 3 4
    let s := if s.rst.phase = .ready then s.assertReset 1 9
      else if s.rst.phase = .failed then s.recognise 1 9
      else { s with rst := { s.rst with phase := .asserted, level := max 1 s.rst.level } }
    { s with rst := { s.rst with clockHeld := true, refOk := false } }

/-- The reference returns: self-refresh exit, and the release restarts from assertion. -/
def State.clockBack (s : State) : State :=
  if !s.rst.clockHeld then s
  else { s.stackStates 4 3 with rst := { s.rst with clockHeld := false, refOk := true } }

def execClockFailure (s : State) : Host.Outcome State Fault Refusal := act .clockFailure s.clockFail
def execClockReturn (s : State) : Host.Outcome State Fault Refusal := act .clockReturn s.clockBack

/-- R732: a control core locks up. -/
def execControlCoreLockup (c : Nat) (s : State) : Host.Outcome State Fault Refusal :=
  act (.controlCoreLockup c) (s.clusterAssert c 0xA)
/-- R732: a management core locks up. -/
def execManagementCoreLockup (s : State) : Host.Outcome State Fault Refusal :=
  act .managementCoreLockup (s.recogniseNoticed 0xB)

/-! ### Emergencies (R775, R776, R833 to R837) -/

def emergencyBit : Emergency → Nat
  | .leak => 0 | .flow => 1 | .inlet => 2 | .outlet => 3 | .die => 4

/-- The condition of an emergency holds now; a failed thermistor counts as the condition of its side (R775, R837). -/
def State.emergencyNow (s : State) (e : Emergency) : Bool :=
  match e with
  | .leak => s.rst.leakLow
  | .flow => s.pow.coolSeen && decide (s.pow.flow100 < 160)
  | .inlet => s.pow.thermSeen && (match s.pow.tin with | some t => decide (50 ≤ t) | none => true)
  | .outlet => s.pow.thermSeen && (match s.pow.tout with | some t => decide (62 ≤ t) | none => true)
  | .die => decide (110 ≤ s.pow.dieTemp)

def emergencies : List Emergency := [.leak, .flow, .inlet, .outlet, .die]

/-- The sensor of an emergency's quantity and what it reads (R803; the dies' hottest sensor stands as sensor 1, log entry 78). -/
def State.emergencySensor (s : State) : Emergency → Nat × Nat
  | .leak => (43, if s.rst.leakLow then 1 else 0)
  | .flow => (42, s.pow.flow100)
  | .inlet => (40, s.pow.tin.getD 0)
  | .outlet => (41, s.pow.tout.getD 0)
  | .die => (1, s.pow.dieTemp)

/-- Thresholds of R775 crossed since a state are told to the event receiver (R803). -/
def State.tellCrossings (s was : State) : State :=
  emergencies.foldl (fun t e => if s.emergencyNow e = was.emergencyNow e then t else t.sensorEvent (s.emergencySensor e).1 (s.emergencySensor e).2) s

/-- Emergency power-down: rails off, FAULT_L, record, PWR_EMERG, level 2 hold. -/
def State.emergency (s : State) (e : Emergency) : State :=
  let s := s.logEv 0x0702 0 [emergencyBit e]
  let s := s.setF 0x20028 (emergencyBit e) 1 1
  let s := if s.rst.phase ≠ .ready ∧ s.rst.level = 3 then { s with rst := { s.rst with phase := .asserted } } else s.assertReset 2 0xC
  let s := s.setF globalStatus 1 1 1
  { s with rst := { s.rst with faultL := true, leakHeld := s.rst.leakHeld || e == .leak,
                               emergHeld := s.rst.emergHeld || e != .leak, emergClearAt := none } }

/-- Since when every emergency condition has been clear. -/
def State.emergWatch (s : State) : State :=
  let any := emergencies.any s.emergencyNow
  { s with rst := { s.rst with emergClearAt := if any then none else some (s.rst.emergClearAt.getD s.clock.now) } }

def State.emergencyDown (s : State) (e : Emergency) : State := if s.emergencyNow e then s.emergency e else s

def State.leakPulse (s : State) (ns : Nat) : State :=
  match s.pulse 20000 100000 ns with
  | (false, s) => s
  | (true, s) => (State.tellCrossings { s with rst := { s.rst with leakLow := true } } s).emergency .leak

def execLeakL (ns : Nat) (s : State) : Host.Outcome State Fault Refusal := act (.leakL ns) (s.leakPulse ns)
def execEmergencyPowerDown (cause : Emergency) (s : State) : Host.Outcome State Fault Refusal :=
  act (.emergencyPowerDown cause) (s.emergencyDown cause)
def execLeakLDeassert (s : State) : Host.Outcome State Fault Refusal :=
  act .leakLDeassert (State.emergWatch { s with rst := { s.rst with leakLow := false } })

/-! ## Boot (R784 to R789) -/

/-- The image's key is an unrevoked fuse entry, its signature verifies, and its SVN is not below the counter. -/
def State.imageOk (s : State) (i : Image) : Bool :=
  let d := Config.sha384 i.key
  ((List.range s.stores.keyDigests.length).any fun k => s.stores.keyDigests.getD k 0#384 == d && !s.stores.keyRevoked.contains k) &&
  Config.ecdsaVerify i.key (Config.sha384 i.bytes) i.sig && decide (s.stores.rollback ≤ i.svn)

/-- The image that boots, and whether it came from the slot not named by ACTIVE_SLOT. -/
def State.bootPick (s : State) : Option (Image × Bool) :=
  let a := if s.sec.activeB then s.sec.slotB else s.sec.slotA
  let b := if s.sec.activeB then s.sec.slotA else s.sec.slotB
  match a.filter s.imageOk, b.filter s.imageOk with
  | some i, _ => some (i, false)
  | none, some i => some (i, true)
  | none, none => none

/-- Measurement 3: SVN, anti-rollback counter, ACTIVE_SLOT (R789). -/
def State.measure3 (s : State) (i : Image) : BitVec 384 :=
  Config.sha384 (leBytes 1 i.svn ++ leBytes 1 s.stores.rollback ++ leBytes 1 (if s.sec.activeB then 1 else 0))

/-- The measurements taken at a cold release; indices 1 and 4 are read from the fuses and from debugHigh (R789). -/
def State.measure (s : State) (i : Image) : List (BitVec 384) :=
  [0#384, Config.sha384 i.bytes, s.measure3 i, 0#384,
   Config.sha384 (leBytes 4 (s.reg 0).toNat ++ leBytes 1 s.rst.strapRole ++ leBytes 2 s.rst.strapDev)]

/-! ## Release (R742 to R751) -/

/-- Step 1: fuse map and straps (R6, R11, R12, R613, R739, R741). -/
def State.fuseLoad (s : State) : State :=
  let v := s.stores.variant
  let s := s.setReg 0 (BitVec.ofNat 32 (v + s.ioDies * 2 ^ 4 + s.stacks * 2 ^ 8 + s.stores.stepping * 2 ^ 16 + 0x94 * 2 ^ 24))
  let s := (s.setReg 0x30010 (BitVec.ofNat 32 s.stores.serial)).setReg 0x30014 (BitVec.ofNat 32 (s.stores.serial / 2 ^ 32))
  let s := s.setReg (dieOff 0 0x38008) (BitVec.ofNat 32 s.rst.strapDev)
  let mgr := s.rst.strapDev % 64 == 0
  let role := s.rst.strapRole
  let s := { s with
    rst := { s.rst with
      role := if mgr then (if role = 2 then 2 else 1) else 0,
      pins := s.fusePins },
    fab := { s.fab with injectOff := role == 3 && !mgr } }
  let s := if role = 3 then s.logEv 0x0103 0 [role] else s
  if (mgr && (role == 0 || role == 3)) || (!mgr && (role == 1 || role == 2)) then s.logEv 0x0104 0 [role] else s

/-- Partition numbers of a failing tile: tiles of a cluster on its compute die (log entry 18). -/
def State.failDevice (s : State) (die part : Nat) (secrets : Bool) : State :=
  let w := 1 + (if secrets then 4 else 0) + die * 2 ^ 4 + part % 256 * 2 ^ 8 + 0x1FF * 2 ^ 16
  let s := (s.setReg 0x10020 (BitVec.ofNat 32 w)).setF globalStatus 1 1 1
  { s with rst := { s.rst with phase := .failed, faultL := true } }

/-- Steps 2 to 4: secrets, self-test, retirements (R747 to R751). None when the device fails. -/
def State.selfTest (s : State) (o : ColdObs) : State × Bool :=
  if !o.secretsClear then (s.failDevice 7 0 false, false)
  else match o.otherFail with
  | some (die, part) => (s.failDevice die part true, false)
  | none =>
    let fails := (o.tileFails.foldl (fun l t => insNat (9 * t.1 + t.2) l) []).filter fun t => !(s.retiredOf (t / 9)).contains (t % 9)
    let (s, first, bad) := fails.foldl (fun (p : State × Option Nat × Option Nat) t =>
      if p.2.2.isNone && p.1.rf (clusterOff (t / 9) 0x104) 18 1 == 1 then (p.1.retireTile (t / 9) (t % 9), some (p.2.1.getD t), none)
      else (p.1, p.2.1, some (p.2.2.getD t))) (s, none, none)
    let s' := match bad with
      | some t => s.failDevice (t / 144) (t % 144) true
      | none => s.setReg 0x10020 (BitVec.ofNat 32 (7 + 7 * 2 ^ 4))
    (s'.setF 0x10020 16 9 (first.getD 0x1FF), bad.isNone)

/-- Step 5: the boot ROM picks an image (R785, R789). -/
def State.boot (s : State) : State × Bool :=
  match s.bootPick with
  | none =>
    let s := s.setF globalStatus 1 1 1
    ({ s with rst := { s.rst with phase := .failed, faultL := true } }, false)
  | some (i, fell) =>
    let s := if fell then s.logEv 0x0802 0 [] else s
    let s := { s with sec := { s.sec with running := some i, runB := s.sec.activeB != fell, meas := s.measure i, aliasIssued := s.sec.aliasIssued + 1 } }
    (s.logEv 0x0801 0 [i.svn], true)

/-- Step 7: every link UP or FAILED; a FAILED one is reported as R571 says (R571, R852). -/
def State.trainLinks (s : State) (o : ColdObs) : State :=
  (List.range (16 * s.ioDies)).foldl (fun s l =>
    match o.peers.find? fun p => p.1 == l && !o.linkFails.contains l with
    | some (_, port, dev) => s.setReg (linkOff l 4) (BitVec.ofNat 32 (2 + port * 2 ^ 8 + dev * 2 ^ 16))
    | none => ((s.setReg (linkOff l 4) 3#32).logEv 0x0403 0 [l]).tellLink l) s

/-- Step 8: lanes repaired, stacks READY or FAILED, repair counts, and the capacity that results, one record for each stack that
is lost (R52, R623, R624, R644 to R647). -/
def State.trainStacks (s : State) (o : ColdObs) : State :=
  let lanes := o.laneRepairs.foldl (fun l p => sput p.1 (sget 0 l p.1 + p.2) l) s.stores.lanesRepaired
  let s := { s with stores := { s.stores with lanesRepaired := lanes } }
  let ok := (List.range s.stacks).filter fun k => !o.stackFails.contains k
  let s := (List.range s.stacks).foldl (fun s k =>
    let s := s.setF (stackOff k 4) 0 3 (if o.stackFails.contains k then 6 else 3)
    (s.setF (stackOff k 0x10) 0 16 (satw 16 (sget 0 s.stores.rowsRemapped k))).setF (stackOff k 0x14) 0 16 (satw 16 (sget 0 s.stores.lanesRepaired k))) s
  let s := { s with rst := { s.rst with stacksIn := ok } }
  let s := (s.setReg 0x2F0000 (BitVec.ofNat 32 (47616 * ok.length))).setF 0x10 24 4 s.stacks
  (upto 1 (s.stacks - ok.length)).foldl (fun s k => let s := s.setF 0x10 24 4 (s.stacks - k); s.logEv 0x0105 0 [(s.reg 0x10).toNat]) s

/-- Seconds of the calendar as nanoseconds of fabric time. -/
def calNs (cal : Nat) : Nat := cal * 1000000000 / 32768

/-- The time master starts fabric time from its calendar, from PLDM, or from 0 (R616, R782). -/
def State.startTime (s : State) : State :=
  if s.devId ≠ 0 then s
  else
    let s := s.setF (dieOff 0 0x38020) 1 1 1
    let s := s.setF (dieOff 0 0x38020) 0 1 1
    if s.rf 0x10048 0 1 = 1 then { s with clock := { s.clock with fab := calNs s.clock.cal % 2 ^ 64, fabSet := true } }
    else State.logEv { s with clock := { s.clock with fab := (s.clock.pldmTime.getD 0) * 1000000000 % 2 ^ 64, fabSet := true } } 0x0703 0 []

/-- Quaseos blows fuses up to the SVN of a committing image that first reaches READY (R787). -/
def State.advanceSvn (s : State) : State :=
  match s.sec.running with
  | some i => if i.commit ∧ s.stores.rollback < i.svn then
      let s := { s with stores := { s.stores with rollback := i.svn } }
      State.logEv { s with sec := { s.sec with meas := s.sec.meas.set 2 (s.measure3 i) } } 0x0803 0 [i.svn]
    else s
  | none => s

/-- The last steps of a release: READY, and the firmware runs (R742 steps 9 and 10, R745 step 8). -/
def State.reachReady (s : State) : State :=
  let s := { s with rst := { s.rst with phase := .ready }, fab := { s.fab with admitted := s.isManager } }
  ((List.range 38).foldl State.touch (s.setReady true)).advanceSvn

/-- A cold release from its beginning to READY, or to the failing step (R742, R749, R750, R785). -/
def State.coldRelease (s : State) (o : ColdObs) : State :=
  if s.rst.level < 2 ∨ s.rst.phase = .ready ∨ s.rst.phase = .failed ∨ !s.mayRelease ∨ (s.rst.level = 3 ∧ !s.rst.aodUp) then s
  else
    let s := State.fuseLoad { s with sec := { s.sec with debugHigh := 0 } }
    let s := (List.range 32).foldl State.tileRegs s
    let s := (s.setF 0x10 28 4 s.ioDies).setF 0x10 24 4 s.stacks
    let s := s.setReg 0x10 (BitVec.ofNat 32 s.capacityNow)
    match s.selfTest o with
    | (s, false) => s
    | (s, true) =>
      match s.boot with
      | (s, false) => s
      | (s, true) =>
        let s := ((s.trainLinks o).trainStacks o)
        let s := s.capacity
        let s := (s.setF 0x20014 0 11 1800).startTime
        s.reachReady.raise 0 0

/-- P1 to P3 of a power-on: the AOD runs and its records of level 3 are written (R734, R743). -/
def State.powerOnRelease (s : State) : State :=
  if s.rst.level ≠ 3 ∨ s.rst.phase = .ready ∨ s.rst.phase = .failed ∨ !s.mayRelease ∨ s.rst.aodUp then s
  else
    let s := { s with rst := { s.rst with aodUp := true } }
    s.logEv 0x0701 0 [s.rst.source, 3, 0, s.clock.cal % 2 ^ 32]

/-- A warm release: the kept image is verified again, else the reset becomes level 2 (R745, R786). -/
def State.warmRelease (s : State) : State :=
  if s.rst.level ≠ 1 ∨ s.rst.phase = .ready ∨ s.rst.phase = .failed ∨ !s.mayRelease then s
  else match s.sec.running.filter s.imageOk with
    | none => s.assertReset 2 s.rst.source
    | some _ => s.reachReady

def execWarmReset (s : State) : Host.Outcome State Fault Refusal := act .warmReset s.warmRelease
def execColdRelease (o : ColdObs) (s : State) : Host.Outcome State Fault Refusal := act (.coldRelease o) (s.coldRelease o)
def execPowerOnRelease (s : State) : Host.Outcome State Fault Refusal := act .powerOnRelease s.powerOnRelease

end Sys2Proof.Machine
end

