-- ==== Sys2Proof/Machine/Registers.lean ====
section
/-! DEFINITION. Register reads and writes by access code, the registers whose writes act, broadcast aliases and BAR4 (02 R16 to R19, R61 to R64, R92, R122 to R133, R841 to R843). -/
namespace Sys2Proof.Machine

/-! ## Reading -/

/-- The offset in function 0's map that a requester's offset names (R61): a VF sees its own context's block. -/
def fnOff (f : Fn) (off : Nat) : Option Nat :=
  match f with
  | .vf n => if off < 0x8000 then some (canonOff (ctxOff n off)) else none
  | _ => some (canonOff off)

/-- The offset lies outside every block, or in an instance that is not fitted (R123). -/
def State.unmapped (s : State) (off : Nat) : Bool :=
  match (blockOf off).1 with
  | .none => true
  | .fabric d => decide (s.ioDies ≤ d)
  | .memory k => decide (s.stacks ≤ k)
  | _ => false

/-- A descriptor of the ring is fetched and uncompleted. -/
def State.sqBusy (s : State) (g : Nat) : Bool := s.insts.any fun x => x.sq == g

/-- Requester number of the fabric-time latches (R92). -/
def latchIx : Fn → Nat
  | .mgmt => 1
  | .core c => 2 + c
  | _ => 0

/-- The register holds a WO field alone, so that a read returns 0 (R16): the debug key and signature. -/
def writeOnly (off : Nat) : Bool :=
  (decide (0x30080 ≤ off) && decide (off < 0x300E4)) || (decide (0x30100 ≤ off) && decide (off < 0x30160))

/-- Value of the register at a canonical offset as a requester reads it. -/
def State.regVal (s : State) (f : Fn) (off : Nat) : Word :=
  if writeOnly off then 0#32
  else if off = 0x30 then BitVec.ofNat 32 s.clock.fab
  else if off = 0x34 then sget 0#32 s.host.latches (latchIx f)
  else if off = 0x10040 then BitVec.ofNat 32 s.clock.cal
  else if off = 0x10044 then s.clock.calLatch
  else if off = 0x10100 then (match s.log.recs with | e :: _ => BitVec.ofNat 32 e.1 | [] => BitVec.ofNat 32 s.log.next)
  else if off = 0x10104 then BitVec.ofNat 32 s.log.next
  else if 0x50000 ≤ off ∧ off < 0x60000 ∧ off % 0x40 = 0x14 then
    setFld (s.reg off) 2 1 (if s.sqBusy ((off - 0x50000) / 0x40) then 0 else 1)
  else
    match blockOf off with
    | (.job n, 0x308) => setFld (s.reg off) 1 1 (if s.stalled n then 1 else 0)
    | (.fabric d, rel) => if s.ioDies ≤ d then (if rel < 0x20000 ∧ rel % 0x2000 = 4 then 4#32 else 0#32) else s.reg off
    | (.memory k, _) => if s.stacks ≤ k then 0#32 else s.reg off
    | _ => if (findRow off).isSome then s.reg off else 0#32

/-- What a read does besides answering: the latches of R92 and R780, UNMAPPED (R123). -/
def State.readEffect (s : State) (f : Fn) (off : Nat) : State :=
  if off = 0x30 then
    { s with host := { s.host with latches := sset 0#32 (latchIx f) (BitVec.ofNat 32 (s.clock.fab / 2 ^ 32)) s.host.latches } }
  else if off = 0x10040 then { s with clock := { s.clock with calLatch := BitVec.ofNat 32 (s.clock.cal / 2 ^ 32) } }
  else if s.unmapped off then s.setF globalStatus 4 1 1
  else s

/-- A read of one register: its value and the state after. -/
def State.regRead (s : State) (f : Fn) (off : Nat) : Word × State :=
  match fnOff f off with
  | none => (0#32, s)
  | some o => (s.regVal f o, s.readEffect f o)

/-- The data of a read goes back to its requester. -/
def State.answer (s : State) (f : Fn) (bs : List Byte) (poisoned : Bool) : State :=
  { s with host := { s.host with lastRead := some (f, bs, poisoned) } }

/-- A read of one register by its row. -/
def State.readReg (s : State) (f : Fn) (off : Nat) : State :=
  if !s.reaches f then s
  else let (v, s) := s.regRead f off; s.answer f (leBytes 4 v.toNat) false

/-- FABRIC_TIME_LO loads the requester's latch (R92); a VF's BAR0 does not hold it. -/
def execFabricTimeLoRead (f : Fn) (s : State) : Host.Outcome State Fault Refusal :=
  act (.fabricTimeLoRead f) (match f with | .vf _ => s | _ => s.readReg f 0x30)
/-- CAL_LO latches CAL_HI (R780). -/
def execCalLoRead (f : Fn) (s : State) : Host.Outcome State Fault Refusal :=
  act (.calLoRead f) (match f with | .vf _ => s | _ => s.readReg f 0x10040)

/-! ## Writes with an action of their own -/

/-- A waiter sleeps on the bank (R460). -/
def State.bankWaited (s : State) (u b : Nat) : Bool :=
  (s.insts.any fun x => match x.wait with | some w => x.waits && w.unit == u && w.index / 64 == b | none => false) ||
  s.cores.any fun k => match k.waiting with | some (_, w, _, _) => w.unit == u && w.index / 64 == b | none => false

/-- SEM_BANK_OWNER (R460): a change sets the bank's values to 0 and fires its wake wire. -/
def State.ownerWrite (s : State) (f : Fn) (u b : Nat) (v : Word) : State :=
  if !s.reaches f || !isPf f || !s.unitFitted u || decide (semCount u / 64 ≤ b) then s
  else if s.bankWaited u b then s.logEv 0x0302 0 [b + 2 ^ 7 * u]
  else
    let w := BitVec.ofNat 32 (fld v 0 13)
    if s.reg (ownerOff u b) = w then s
    else
      let s := (upto (64 * b) 64).foldl (fun s i => if s.semVal u i = 0 then s else s.semPut u i 0) s
      let s := s.setReg (ownerOff u b) w
      { s with wakes := if s.wakes.contains (u, b) then s.wakes else s.wakes ++ [(u, b)] }

def execSemBankOwnerWrite (f : Fn) (unit bank : Nat) (v : Word) (s : State) : Host.Outcome State Fault Refusal :=
  act (.semBankOwnerWrite f unit bank v) (s.ownerWrite f unit bank v)

/-- SEM_VALUE (R511 to R513). -/
def State.debugSem (s : State) (f : Fn) (u i : Nat) (v : Word) : State :=
  if !s.reaches f || !s.unitFitted u || decide (semCount u ≤ i) then s
  else if s.granted = 0 ∨ !isPf f then s.logViolation 0 (semOff u i)
  else
    let ok := s.ready && !(List.range 16).any fun n => s.jobState n == 4
    let old := s.semVal u i
    let s := if ok then s.semPut u i v.toNat else s
    s.logEv 0x0305 0 [i + 2 ^ 13 * u, old, v.toNat, if ok then 1 else 0]

def execDebugSemWrite (f : Fn) (unit index : Nat) (v : Word) (s : State) : Host.Outcome State Fault Refusal :=
  act (.debugSemWrite f unit index v) (s.debugSem f unit index v)

/-- The configuration checks of RING_CTL.ENABLE (R480). -/
def State.ringOk (s : State) (g : Ring) (n : Nat) : Bool :=
  decide (3 ≤ g.slots ∧ g.slots ≤ 256) && decide (1024 ≤ g.slotBytes ∧ g.slotBytes ≤ 12288 * 1024) &&
  decide (g.base + g.slots * g.slotBytes ≤ ssmSize) && g.full != g.empty &&
  s.semOwned g.c g.full (s.jobId n) && s.semOwned g.c g.empty (s.jobId n)

/-- RING_CTL with ENABLE 1: the checks, then the ring and its semaphores start afresh (R480). -/
def State.ringEnable (s : State) (f : Fn) (c r n : Nat) : State :=
  if !s.reaches f || !isPf f then s
  else
    let g := s.ring c r
    if g.enabled then s.setF (ringOff c r 16) 1 4 n
    else
      let s := s.setF (ringOff c r 16) 1 4 n
      if !s.ringOk g n then s.setF (ringOff c r 28) 2 1 1
      else
        let s := ((s.setReg (ringOff c r 20) 0#32).setReg (ringOff c r 24) 0#32).setF (ringOff c r 28) 0 1 0
        ((s.semPut c g.full 0).semPut c g.empty g.slots).setF (ringOff c r 16) 0 1 1

def execRingEnable (f : Fn) (c r ctx : Nat) (s : State) : Host.Outcome State Fault Refusal :=
  act (.ringEnable f c r ctx) (s.ringEnable f c r ctx)

/-- Offset of a register of Lexicon engine `n` (R352). -/
def lexOff (n rel : Nat) : Nat := clusterOff (4 * n) (0x38000 + rel)

/-- LEX_HOT_CFG: SIZE and OWNER while EN is 0, and EN; going to 1 empties the directory (R353). -/
def State.lexHotCfg (s : State) (f : Fn) (n : Nat) (v : Word) : State :=
  if !s.reaches f || !isPf f then s
  else
    let en := s.rf (lexOff n 4) 12 1
    if en = 1 then s.setF (lexOff n 4) 12 1 (fld v 12 1)
    else
      let s := s.setReg (lexOff n 4) (BitVec.ofNat 32 (fld v 0 13))
      if fld v 12 1 = 1 then
        (({ s with hot := s.hot.filter fun h => h.1 != n }.setReg (lexOff n 8) 0#32).setReg (lexOff n 0xC) 0#32)
      else s

def execLexHotEn (f : Fn) (n : Nat) (v : Word) (s : State) : Host.Outcome State Fault Refusal :=
  act (.lexHotEn f n v) (s.lexHotCfg f n v)

/-- STEP0 in FREE or BOUND also sets FS_STEP, PS_STEP and SETTLED_STEP (R681). -/
def State.step0 (s : State) (f : Fn) (n : Nat) (v : Word) : State :=
  if !s.reaches f || !isPf f || decide (2 ≤ s.jobState n) then s
  else (((s.setReg (ctxOff n 0x810) v).setReg (ctxOff n 0x804) v).setReg (ctxOff n 0x808) v).setReg (ctxOff n 0x80C) v

def execStep0Write (f : Fn) (ctx : Nat) (v : Word) (s : State) : Host.Outcome State Fault Refusal :=
  act (.step0Write f ctx v) (s.step0 f ctx v)

/-- The local part of a fabric or host address, when it names this device (R847). -/
def State.own (s : State) (a : Nat) : Option Nat := if a / 2 ^ 48 = s.devId then some (a % 2 ^ 48) else none

/-- Readable range of this device: mapped outside the registers, unpoisoned, host reachable. -/
def State.readable (s : State) (n : Option Nat) (a len : Nat) : Bool :=
  s.mapped a len && decide (0x4000000 ≤ a) && !s.rdPoison n a len && (!isHost a || s.hostUp)

/-- Local address of the recipe version `v` of a context; none where RCP_BASE is 0 or names another device (R406). -/
def State.recipeBase (s : State) (n v : Nat) : Option Nat :=
  let a := s.jr64 n 0x200
  if a = 0 then none else (s.own a).map fun b => b + 0x10000 * v

def State.epoch (s : State) (n : Nat) : Nat := s.rf (ctxOff n 0x20C) 0 1
def State.rcpPending (s : State) (n : Nat) : Bool := s.rf (ctxOff n 0x20C) 1 1 == 1

/-- RCP_CTL.ARM (R410, R413). -/
def State.arm (s : State) (f : Fn) (n : Nat) : State :=
  if !s.reaches f || !jobFn f n then s
  else if s.rcpPending n then s.setF (ctxOff n 0x20C) 2 1 1
  else match s.recipeBase n (1 - s.epoch n) with
    | some b =>
      if s.readable (some n) b 64 then
        let tag := leNat (s.rd (some n) (b + 8) 4)
        (s.modCtx n fun c => { c with armTag := BitVec.ofNat 32 tag }).setF (ctxOff n 0x20C) 1 1 1
      else s.setF (ctxOff n 0x20C) 2 1 1
    | none => s.setF (ctxOff n 0x20C) 2 1 1

/-- RCP_CTL.DISARM (R413). -/
def State.disarm (s : State) (f : Fn) (n : Nat) : State :=
  if !s.reaches f || !jobFn f n then s else s.setF (ctxOff n 0x20C) 1 1 0

def execArm (f : Fn) (ctx : Nat) (s : State) : Host.Outcome State Fault Refusal := act (.arm f ctx) (s.arm f ctx)
def execDisarm (f : Fn) (ctx : Nat) (s : State) : Host.Outcome State Fault Refusal := act (.disarm f ctx) (s.disarm f ctx)

/-! ### Debug authentication (R791 to R794) -/

/-- Byte string of a range of registers. -/
def State.regRange (s : State) (off n : Nat) : List Byte :=
  ((List.range ((n + 3) / 4)).flatMap fun k => leBytes 4 (s.reg (off + 4 * k)).toNat).take n

def State.challenge (s : State) (f : Fn) : State :=
  if !s.reaches f || !isPf f then s
  else
    let n := Config.nonce s.sec.nonceCtr
    let s := (List.range 12).foldl (fun s k => s.setReg (0x30040 + 4 * k) (BitVec.ofNat 32 (n.toNat / 2 ^ (32 * k)))) s
    State.setF { s with sec := { s.sec with nonceCtr := s.sec.nonceCtr + 1, nonceAt := s.clock.now } } 0x30004 2 1 1

def State.submitOk (s : State) (level slot : Nat) : Bool :=
  let key := s.regRange 0x30080 97
  let msg := s.regRange 0x30040 48 ++ s.regRange 0x30010 8 ++ leBytes 1 level
  s.rf 0x30004 2 1 == 1 && decide (s.clock.now < s.sec.nonceAt + 60000000000) && decide (s.rf 0x30004 4 4 < 8) &&
  decide (1 ≤ level ∧ level ≤ 2) && (s.stores.debugDigests[slot]? == some (Config.sha384 key)) &&
  Config.ecdsaVerify key (Config.sha384 msg) (s.regRange 0x30100 96)

/-- SUBMIT consumes the nonce whatever its outcome (R792); eight failures since cold release refuse every later one. -/
def State.submit (s : State) (f : Fn) (level slot : Nat) : State :=
  if !s.reaches f || !isPf f then s
  else
    let ok := s.submitOk level slot
    let s := s.setF 0x30004 2 1 0
    if ok then
      State.logEv { s.setF 0x30004 0 2 level with sec := { s.sec with debugHigh := max s.sec.debugHigh level } } 0x0804 0 [level, slot]
    else ((s.setF 0x30004 3 1 1).setF 0x30004 4 4 (satAdd 4 (s.rf 0x30004 4 4) 1)).logEv 0x0805 0 [level, slot]

def State.drop (s : State) (f : Fn) : State := if !s.reaches f || !isPf f then s else s.setF 0x30004 0 2 0

def execDbgChallenge (f : Fn) (s : State) : Host.Outcome State Fault Refusal := act (.dbgChallenge f) (s.challenge f)
def execSubmit (f : Fn) (level slot : Nat) (s : State) : Host.Outcome State Fault Refusal :=
  act (.submit f level slot) (s.submit f level slot)
def execDrop (f : Fn) (s : State) : Host.Outcome State Fault Refusal := act (.drop f) (s.drop f)

/-! ### Margining (R648, R649) -/

/-- MEM_MARGIN.RUN, in effect only from an authorised debugger with every context FREE or BOUND. -/
def State.marginRun (s : State) (f : Fn) (k : Nat) (v : Word) : State :=
  if !s.reaches f || decide (s.stacks ≤ k) then s
  else if s.granted = 0 ∨ !isPf f ∨ (List.range 16).any (fun n => decide (2 ≤ s.jobState n)) then s.logViolation 0 (stackOff k 0x100)
  else if s.rf (stackOff k 4) 0 3 ≠ 3 then s
  else
    let s := ((s.setF (stackOff k 0x100) 0 7 (fld v 0 7)).setF (stackOff k 0x100) 8 1 0).setF (stackOff k 4) 0 3 5
    let n := max 1 s.stacksOk
    { s with wc := s.wc.filter fun e => s.rst.stacksIn.getD (hbmMap (256 * e.line) n).stack 12 != k }

/-- The sweep ends: DONE, its result, the stack's Diacritic region zeroed, READY again. Diacritic addresses are
mapped by the function of R626 with `u` counted from each region's base (R653). -/
def State.marginEnd (s : State) (k lo hi : Nat) : State :=
  if s.rf (stackOff k 4) 0 3 ≠ 5 then s
  else
    let steps := s.rf (stackOff k 0x100) 0 6
    let s := ((s.setF (stackOff k 0x100) 8 1 1).setF (stackOff k 0x100) 16 6 (min lo steps)).setF (stackOff k 0x100) 24 6 (min hi steps)
    let n := max 1 s.stacksOk
    let keep := fun (a : Nat) => decide (a < 4 * (hbmBase / 1024)) ||
      s.rst.stacksIn.getD (hbmMap (a - 4 * (hbmBase / 1024)) n).stack 12 != k
    let ps := s.poison.filter fun c => decide (c < 2 ^ 42) || keep (64 * (c - 2 ^ 42))
    State.setF { s with diacs := s.diacs.filter (fun c => keep c.1), poison := ps } (stackOff k 4) 0 3 3

def execMarginRun (f : Fn) (stack : Nat) (v : Word) (s : State) : Host.Outcome State Fault Refusal :=
  act (.marginRun f stack v) (s.marginRun f stack v)
def execMarginRunEnd (stack lo hi : Nat) (s : State) : Host.Outcome State Fault Refusal :=
  act (.marginRunEnd stack lo hi) (s.marginEnd stack lo hi)

/-! ### Event log registers (R808, R809) -/

/-- EVLOG_SEL copies the record of a SEQ into EVLOG_DATA, all 0 when it is not held. -/
def State.evlogSel (s : State) (f : Fn) (seq : Nat) : State :=
  if !s.reaches f then s
  else match f with
  | .vf _ => s
  | _ =>
    let s := s.setReg 0x10108 (BitVec.ofNat 32 seq)
    let r := match s.log.recs.find? fun e => e.1 == seq with | some e => e.2 | none => []
    (List.range 8).foldl (fun s k => s.setReg (0x10120 + 4 * k) (r.getD k 0#32)) s

def execEvlogSel (f : Fn) (seq : Nat) (s : State) : Host.Outcome State Fault Refusal := act (.evlogSel f seq) (s.evlogSel f seq)

/-! ### Link registers (R571, R572, R851, R852) -/

def State.linkFails (s : State) (l : Nat) : LinkHid := sget ⟨0, 0, 0⟩ s.fab.links l
def State.putLink (s : State) (l : Nat) (h : LinkHid) : State := { s with fab := { s.fab with links := sput l h s.fab.links } }

/-- LINK_CFG.RETRAIN restarts training; from FAILED only for manager firmware. -/
def State.retrain (s : State) (f : Fn) (l : Nat) : State :=
  if !s.reaches f || !isPf f || s.linkState l == 4 then s
  else if s.linkState l = 3 ∧ f ≠ .mgmt then s
  else if s.rf (linkOff l 0) 0 1 = 0 then s
  else (s.putLink l ⟨0, 0, s.clock.now⟩).setLinkState l 1

/-- LINK_CFG.ENABLE: 0 holds the link down, 1 lets a DOWN link train. -/
def State.linkEnable (s : State) (f : Fn) (l : Nat) (on : Bool) : State :=
  if !s.reaches f || !isPf f || s.linkState l == 4 then s
  else
    let s := s.setF (linkOff l 0) 0 1 (if on then 1 else 0)
    if on then (if s.linkState l = 0 then (s.putLink l ⟨0, 0, s.clock.now⟩).setLinkState l 1 else s)
    else if s.linkState l = 3 then s else s.setLinkState l 0

def execRetrain (f : Fn) (link : Nat) (s : State) : Host.Outcome State Fault Refusal := act (.retrain f link) (s.retrain f link)
def execLinkEnable (f : Fn) (link : Nat) (on : Bool) (s : State) : Host.Outcome State Fault Refusal :=
  act (.linkEnable f link on) (s.linkEnable f link on)

/-! ## Writing by access code -/

/-- The field's value after a write of `x` to it (R16, R841). -/
def fieldWrite (a : Field) (old x : Nat) (locked : Bool) : Nat :=
  match a.acc with
  | .ro => old
  | .rw => x
  | .rw1c => (List.range a.w).foldl (fun v i => if bit x i then setBits v i 1 0 else v) old
  | .ctr => if x = 0 then old else 0
  | .wo => old
  | .rwl => if locked then old else x

/-- The register after a write by its access codes. -/
def rowWrite (r : RegRow) (old v : Word) (locked : Bool) : Word :=
  r.fields.foldl (fun w a => setFld w a.lo a.w (fieldWrite a (fld w a.lo a.w) (fld v a.lo a.w) locked)) old

/-- A requester may write a register of the given kind at an offset. -/
def State.mayWrite (s : State) (f : Fn) (w : Writer) (off : Nat) : Bool :=
  let idle := match (blockOf off).1 with | .job n => decide (s.jobState n < 2) | _ => true
  match w with
  | .any => true
  | .pf => isPf f
  | .pfFB => isPf f && idle
  | .fb => idle
  | .mgmt => f == .mgmt
  | .hw => false
  | .dbg => false
  | .owner => isPf f
  | .ringOff => isPf f && s.rf (off / 0x40 * 0x40 + 0x10) 0 1 == 0
  | .lexOff => isPf f && s.rf (off / 0x10 * 0x10 + 4) 12 1 == 0
  | .sqOff => s.rf (off / 0x40 * 0x40 + 8) 16 1 == 0
  | .cqOff => s.rf (off / 0x40 * 0x40 + 8) 16 1 == 0
  | .tbl => true

/-- A plain write. Write-only words that a later action reads are kept: the debug key, of 97 bytes, and signature (R791). -/
def State.plainWrite (s : State) (f : Fn) (off : Nat) (v : Word) : State :=
  match findRow off with
  | none => s
  | some r =>
    if !s.mayWrite f r.writer off then s
    else if r.name = "DBG_PUBKEY" ∨ r.name = "DBG_SIG" then s.setReg off (if off = 0x300E0 then setFld 0#32 0 8 (fld v 0 8) else v)
    else s.setReg off (rowWrite r (s.reg off) v (s.rf 0x2002C 0 1 == 1))

/-- JOB_CTL: the command of bits [2:0]; other values are ignored (R99). -/
def State.jobCtl (s : State) (f : Fn) (n : Nat) (v : Word) : State :=
  let c := fld v 0 3
  if c = 1 then s.bind f n else if c = 2 then s.start f n else if c = 3 then s.quiesce f n
  else if c = 4 then s.abort f n else if c = 5 then s.release f n else s

/-- CTR_CFG: enabling the counter ring starts it afresh, as a CQ (R98). -/
def State.ctrCfg (s : State) (f : Fn) (n : Nat) (v : Word) : State :=
  let was := s.rf (ctxOff n 0x128) 16 1
  let s := s.plainWrite f (ctxOff n 0x128) v
  if was = 0 ∧ fld v 16 1 = 1 then s.modCtx n fun c => { c with ctrHead := 0, ctrTail := 0, ctrPhase := true } else s

/-- WDT_CFG restarts the watchdog (R731). -/
def State.wdtCfg (s : State) (f : Fn) (v : Word) : State :=
  if f ≠ .mgmt then s else State.plainWrite { s with rst := { s.rst with wdtStart := s.clock.now } } f 0x10010 v

/-- DBG_REQ: CHALLENGE, SUBMIT, DROP, in bit order. -/
def State.dbgReq (s : State) (f : Fn) (v : Word) : State :=
  let s := if fld v 8 1 = 1 then s.challenge f else s
  let s := if fld v 9 1 = 1 then s.submit f (fld v 0 2) (fld v 2 1) else s
  if fld v 10 1 = 1 then s.drop f else s

/-- A write in the DIAGNOSTIC block by an authorised debugger may clear a store (R285, R644, log entry 17); the tile registers and
DEV_CAPACITY follow the retirement store (R282, R283, R52). -/
def State.diagWrite (s : State) (f : Fn) (off : Nat) : State :=
  if s.granted = 0 ∨ !isPf f then s
  else if Config.diagOp off = 1 then
    State.capacity ((List.range 32).foldl State.tileRegs { s with stores := { s.stores with retired := [] } })
  else if Config.diagOp off = 2 then
    { s with stores := { s.stores with rowsRemapped := [], lanesRepaired := [], remaps := [] } }
  else s

def tblOff (n t rel : Nat) : Nat := ctxOff n (0x1000 + 0x20 * t + rel)

/-- LEX_HOT_ENTRIES follows the directory. -/
def State.hotCount (s : State) (e : Nat) : State := s.setF (lexOff e 8) 0 18 (s.hot.filter fun h => h.1 == e).length

/-- TBL_VERSION of a slot increments; a wrap empties the slot's entries (R359). -/
def State.bumpTable (s : State) (n t : Nat) : State :=
  let v := (s.rf (tblOff n t 28) 0 16 + 1) % 65536
  let s := s.setF (tblOff n t 28) 0 16 v
  if v ≠ 0 then s
  else
    let gone := fun (h : Nat × HotEntry) => h.2.slot == t && s.rf (lexOff h.1 4) 8 4 == n
    let s := { s with hot := s.hot.filter fun h => !gone h }
    (List.range 8).foldl (fun s e => s.hotCount e) s

/-- A write of a table slot's register (R359). -/
def State.tblWrite (s : State) (f : Fn) (n rel : Nat) (v : Word) : State :=
  (s.plainWrite f (ctxOff n rel) v).bumpTable n ((rel - 0x1000) / 0x20)

/-- A write at a canonical offset that is no broadcast alias. -/
def State.writeAt (s : State) (f : Fn) (off : Nat) (v : Word) : State :=
  if s.unmapped off then s.setF globalStatus 4 1 1
  else match blockOf off with
  | (.reset, 0) => if fld v 8 1 = 1 then (s.plainWrite f off v).go f (fld v 0 2) (fld v 2 5) else s.plainWrite f off v
  | (.reset, 0x10) => s.wdtCfg f v
  | (.reset, 0x108) => s.evlogSel f v.toNat
  | (.security, 0) => s.dbgReq f v
  | (.job n, rel) =>
    if rel = 0 then s.jobCtl f n v
    else if rel = 0x128 then s.ctrCfg f n v
    else if rel = 0x12C then s.ctrDoorbell f n v.toNat
    else if rel = 0x208 then (let s := if fld v 0 1 = 1 then s.arm f n else s; if fld v 1 1 = 1 then s.disarm f n else s)
    else if rel = 0x810 then s.step0 f n v
    else if 0x1000 ≤ rel ∧ rel < 0x1800 ∧ rel % 0x20 < 0x1C then s.tblWrite f n rel v
    else s.plainWrite f off v
  | (.host, rel) =>
    if 0x10000 ≤ rel ∧ rel < 0x20000 ∧ rel % 0x40 = 8 then
      (if fld v 16 1 = 1 then s.sqEnable f ((rel - 0x10000) / 0x40) v else s.sqDisable f ((rel - 0x10000) / 0x40) v)
    else if 0x20000 ≤ rel ∧ rel < 0x30000 ∧ rel % 0x40 = 8 then
      (if fld v 16 1 = 1 then s.cqEnable f ((rel - 0x20000) / 0x40) v else s.cqDisable f ((rel - 0x20000) / 0x40) v)
    else s.plainWrite f off v
  | (.fabric d, rel) =>
    if 0x20000 ≤ rel ∧ rel < 0x28000 then s.debugSem f (32 + d) ((rel - 0x20000) / 4) v
    else if 0x28000 ≤ rel ∧ rel < 0x28200 then s.ownerWrite f (32 + d) ((rel - 0x28000) / 4) v
    else if rel < 0x20000 ∧ rel % 0x2000 = 0 then
      let s := s.linkEnable f (16 * d + rel / 0x2000) (fld v 0 1 == 1)
      if fld v 1 1 = 1 then s.retrain f (16 * d + rel / 0x2000) else s
    else s.plainWrite f off v
  | (.memory k, rel) =>
    if rel = 0x100 then (if fld v 7 1 = 1 then s.marginRun f k v else s.plainWrite f off v) else s.plainWrite f off v
  | (.compute c, rel) =>
    if 0x10000 ≤ rel ∧ rel < 0x14000 then s.debugSem f c ((rel - 0x10000) / 4) v
    else if 0x14000 ≤ rel ∧ rel < 0x14100 then s.ownerWrite f c ((rel - 0x14000) / 4) v
    else if 0x2000 ≤ rel ∧ rel < 0x3000 ∧ rel % 0x40 = 0x10 then
      (if fld v 0 1 = 1 then s.ringEnable f c ((rel - 0x2000) / 0x40) (fld v 1 4) else s.plainWrite f off v)
    else if rel = 0x38004 ∧ c % 4 = 0 then s.lexHotCfg f (c / 4) v
    else s.plainWrite f off v
  | (.diagnostic, _) => s.diagWrite f off
  | _ => s.plainWrite f off v

/-! ## Broadcast aliases (R124 to R131) -/

/-- Tiles of cluster `c` that offset `rel` of its block mirrors: every active one at 0x3_4000, those of BCAST_GROUP.TILES at
0x3_6000 (R125, R127). -/
def State.mirrorSel (s : State) (c rel : Nat) : List (Nat × Nat) :=
  ((List.range 9).filter fun t => s.rf (clusterOff c 0x104) t 1 == 1 && (rel < 0x36000 || s.rf 0x104 (12 + t) 1 == 1)).map
    fun t => (9 * c + t, clusterOff c (0x20000 + 0x2000 * t + rel % 0x2000))

/-- The cluster whose tile mirrors a unicast offset names, and the offset within its block. -/
def mirrorAt (off : Nat) : Option (Nat × Nat) :=
  match blockOf off with
  | (.compute c, rel) => if 0x34000 ≤ rel ∧ rel < 0x38000 then some (c, rel) else none
  | _ => none

/-- Selected instances of an alias offset, each with its number and its unicast offset. -/
def State.bcastSel (s : State) (off : Nat) : List (Nat × Nat) :=
  match mirrorAt off with
  | some (c, rel) => s.mirrorSel c rel
  | none =>
  let group := decide (0x2800000 ≤ off)
  let rel := if group then off - 0x2800000 else off - 0x2000000
  let cl := (List.range 32).filter fun c => !group || s.rf 0x100 c 1 == 1
  if rel < 0x34000 ∨ (0x38000 ≤ rel ∧ rel < 0x40000) then cl.map fun c => (c, clusterOff c rel)
  else if rel < 0x38000 then
    cl.flatMap fun c => s.mirrorSel c rel
  else if 0x400000 ≤ rel ∧ rel < 0x410000 then
    ((List.range 12).filter fun k => s.rst.stacksIn.contains k && (!group || s.rf 0x104 k 1 == 1)).map fun k => (k, stackOff k (rel - 0x400000))
  else if 0x600000 ≤ rel ∧ rel < 0x602000 then
    ((List.range 64).filter fun l => decide (s.linkState l < 3) && (!group || s.rf (0x108 + 4 * (l / 32)) (l % 32) 1 == 1)).map
      fun l => (l, linkOff l (rel - 0x600000))
  else []

/-- The offset lies in a sub-window of the aliases. -/
def bcastMapped (off : Nat) : Bool :=
  (mirrorAt off).isSome ||
  let rel := (off - 0x2000000) % 0x800000
  decide (rel < 0x40000) || (decide (0x400000 ≤ rel) && decide (rel < 0x410000)) || (decide (0x600000 ≤ rel) && decide (rel < 0x602000))

def bcastFn (f : Fn) : Bool := match f with | .vf _ => false | _ => true

def State.bcastWrite (s : State) (f : Fn) (off : Nat) (v : Word) : State :=
  if !s.reaches f || !bcastFn f then s
  else if !bcastMapped off then s.setF globalStatus 4 1 1
  else match s.bcastSel off with
    | [] => s.setF globalStatus 3 1 1
    | l => l.foldl (fun s p => s.writeAt f p.2 v) s

/-- A broadcast read: the value of the lowest-numbered instance, BCAST_MISMATCH and MISMATCH_INST (R129, R130). -/
def State.bcastRead (s : State) (f : Fn) (off : Nat) : Word × State :=
  if !bcastMapped off then (0#32, s.setF globalStatus 4 1 1)
  else match s.bcastSel off with
    | [] => (0#32, s.setF globalStatus 3 1 1)
    | p :: rest =>
      let v := s.regVal f p.2
      match rest.find? fun q => s.regVal f q.2 != v with
      | none => (v, s)
      | some q => (v, (s.setF globalStatus 2 1 1).setF globalStatus 16 9 q.1)

def State.bcastReadCmd (s : State) (f : Fn) (off : Nat) : State :=
  if !s.reaches f || !bcastFn f then s
  else let (v, s) := s.bcastRead f off; s.answer f (leBytes 4 v.toNat) false

def execBroadcastWrite (f : Fn) (off : Nat) (v : Word) (s : State) : Host.Outcome State Fault Refusal :=
  act (.broadcastWrite f off v) (s.bcastWrite f off v)
def execBroadcastRead (f : Fn) (off : Nat) (s : State) : Host.Outcome State Fault Refusal :=
  act (.broadcastRead f off) (s.bcastReadCmd f off)

/-- The offset is a broadcast alias: an alias window, or the tile mirrors of one cluster (R124, R125). -/
def isAlias (o : Nat) : Bool := (decide (0x2000000 ≤ o) && decide (o < 0x3000000)) || (mirrorAt o).isSome

/-! ### PCIe configuration space and the role (R8, R11, R59, R60, R61, R846; log entries 13 and 71) -/

/-- The functions that the two ports present (R56). -/
inductive PcieFn where
  | pf | vf (n : Nat) | port1
deriving DecidableEq, Repr

/-- Configuration identity of a function (R59). -/
structure PcieId where
  vendor : Nat
  device : Nat
  classCode : Nat
  subVendor : Nat
  subsystem : Nat
deriving DecidableEq, Repr

/-- The identity that a function's configuration space reports; the subsystem ID is the fused variant (R8, R59). -/
def State.pcieId (s : State) (f : PcieFn) : PcieId :=
  { vendor := 0x1E6B, device := (match f with | .vf _ => 0x9401 | _ => 0x9400), classCode := 0x120000, subVendor := 0x1E6B,
    subsystem := s.stores.variant + (match f with | .port1 => 0x8000 | _ => 0) }

/-- Where the model names configuration registers: from 2^32 up. -/
def cfgBase : Nat := 2 ^ 32

/-- MSI-X function number of a requester: 0 for function 0, n + 1 for VF n. -/
def msixFn : Fn → Nat
  | .vf n => n + 1
  | _ => 0

/-- The Resizable BAR control of function 0: bits [13:8] give the size as 2^20 times a power of two; BAR4 takes 1 GiB to
512 GiB (R61). -/
def State.resizeBar (s : State) (v : Word) : State :=
  let k := 20 + fld v 8 6
  if 30 ≤ k ∧ k ≤ 39 then { s with host := { s.host with bar4Log2 := k } } else s

/-- A write to the configuration space of a function, by offset from `cfgBase`: 0x4 Command (bit 2, Bus Master Enable),
0x1000 MSI-X control (bit 31, enable), 0x1004 the Resizable BAR control; from 0x2000, 0x10 × vector + 0xC is the vector
control of an MSI-X table entry (bit 0, mask). A vector that pended is sent when it may be. -/
def State.cfgWrite (s : State) (f : Fn) (o : Nat) (v : Word) : State :=
  let fn := msixFn f
  if o = 4 then (if f = .pf then { s with host := { s.host with busMaster := fld v 2 1 == 1 } } else s)
  else if o = 0x1000 then
    let off := s.host.msixOff.filter fun n => n != fn
    State.sendHeld { s with host := { s.host with msixOff := if fld v 31 1 = 1 then off else off ++ [fn] } } fn
  else if o = 0x1004 then (if f = .pf then s.resizeBar v else s)
  else if 0x2000 ≤ o ∧ o < 0xA000 ∧ o % 0x10 = 0xC then
    let q : Irq := ⟨fn, (o - 0x2000) / 0x10⟩
    let l := s.host.masked.filter fun p => p != q
    State.sendHeld { s with host := { s.host with masked := if fld v 0 1 = 1 then l ++ [q] else l } } fn
  else s

/-- Manager firmware gives a device a role by R10's codes, which lifts the hold that R11 puts on a device with an invalid
strap; the invalid code changes nothing, and a member number decides between manager and worker (R12). -/
def State.assignRole (s : State) (v : Word) : State :=
  let r := fld v 0 2
  if r = 3 then s
  else { s with
    rst := { s.rst with role := if s.devId % 64 = 0 then (if r = 2 then 2 else 1) else 0 },
    fab := { s.fab with injectOff := false } }

/-- A register write through a requester's own map; within every cluster block, 0x3_4000 and 0x3_6000 mirror the
cluster's tiles, which hold no register (R125, log entry 20). -/
def State.regWrite (s : State) (f : Fn) (off : Nat) (v : Word) : State :=
  if cfgBase ≤ off then
    (if f = .mgmt then (if off = cfgBase + 0xF000 then s.assignRole v else s)
     else if f.isHost then s.cfgWrite f (off - cfgBase) v else s)
  else if !s.reaches f then s
  else match fnOff f off with
    | none => s
    | some o => if isAlias o then s.bcastWrite f o v else s.writeAt f o v

/-- REGISTER_WRITE. -/
def execRegisterWrite (f : Fn) (off : Nat) (v : Word) (s : State) : Host.Outcome State Fault Refusal :=
  act (.registerWrite f off v) (s.regWrite f off v)

/-! ## BAR4 (R61 to R64, R640) -/

/-- HBM offset that a BAR4 access reaches; none outside the BAR. -/
def State.bar4Off (s : State) (f : Fn) (off len : Nat) : Option Nat :=
  match f with
  | .vf n => if off + len ≤ 2 ^ 28 then some ((s.win n 0).1 + off) else none
  | _ =>
    let size := 2 ^ s.host.bar4Log2
    let base := (s.reg 0x40100).toNat + 2 ^ 32 * s.rf 0x40104 0 16
    if off + len ≤ size then some (base / size * size + off) else none

/-- The access stays inside the window of the VF's job (R63); function 0 reaches all HBM. -/
def State.bar4Ok (s : State) (f : Fn) (off len : Nat) : Bool :=
  match f with
  | .vf n => decide (off + len ≤ (s.win n 0).2.1)
  | _ => true

/-- BAR4 neither checks nor updates Diacritics and reaches physical addresses; poison returns a poisoned TLP. -/
def State.bar4 (s : State) (f : Fn) (off len : Nat) (data : Option (List Byte)) : State :=
  if !s.ready then s
  else match s.bar4Off f off len with
  | none => s
  | some o =>
    if !s.bar4Ok f off len then
      let s := s.logViolation (match f with | .vf n => n | _ => 0) o
      match data with | some _ => s | none => s.answer f (List.replicate len 0#8) false
    else
      let a := hbmBase + o
      let ok := decide (o + len ≤ s.dataBytes)
      match data with
      | some d => if ok then s.wrPhys a d else s
      | none =>
        if !ok then s.answer f (List.replicate len 0#8) false
        else if s.poisonPhys a len then
          let bad := (touchedCw a len).find? fun c => s.poison.contains c
          let off := 64 * bad.getD 0 - hbmBase
          (s.logEv 0x0501 0 [off % 2 ^ 32, off / 2 ^ 32]).answer f (memRead s.mem a len) true
        else s.answer f (memRead s.mem a len) false

def execBar4Access (f : Fn) (off len : Nat) (data : Option (List Byte)) (s : State) : Host.Outcome State Fault Refusal :=
  act (.bar4Access f off len data) (s.bar4 f off len data)

end Sys2Proof.Machine
end

