-- ==== Sys2Proof/Machine/Flags.lean ====
section
/-! DEFINITION. Numeric flags and the attribution of counters to layer groups (08 R442 to R447). -/
namespace Sys2Proof.Machine

/-- Raise a numeric flag for a layer group. -/
def State.raiseFlag (s : State) (n b lg : Nat) : State :=
  let off := ctxOff n (if b = 3 then 0x230 else 0x22C)
  let lo := if b = 0 then 0 else if b = 1 then 8 else if b = 4 then 16 else if b = 2 then 24 else 0
  let had := s.rf (ctxOff n 0x224) b 1 == 1
  let inStep := (s.ctx n).flagsLg.any fun e => bit e.2 b
  let s := s.modCtx n fun c => { c with flagsLg := sput lg (let v := sget 0 c.flagsLg lg; if bit v b then v else v + 2 ^ b) c.flagsLg }
  if had then (if inStep && decide (lg < s.rf off lo 8) then s.setF off lo 8 lg else s)
  else
    let s := (s.setF (ctxOff n 0x224) b 1 1).setF off lo 8 lg
    if s.rf (ctxOff n 0x228) b 1 = 1 then s.raise (n + 1) (s.rf (ctxOff n 0x228) 20 11) else s

/-- Counters of a descriptor go to a layer group; OUTLIER_OVERFLOW and NAN_SEEN are raised at once. -/
def State.noteCounts (s : State) (n lg : Nat) (c : Counters) : State :=
  let s := s.modCtx n fun k =>
    { k with satLg := sset 0 lg (sget 0 k.satLg lg + c.sat) k.satLg, nanLg := sset 0 lg (sget 0 k.nanLg lg + c.nan) k.nanLg }
  let s := if 0 < c.ovf then s.raiseFlag n 0 lg else s
  if 0 < c.nan then s.raiseFlag n 4 lg else s

/-- A converting engine ends a descriptor. -/
def State.endEngine (s : State) (x : Inst) (status detail : Nat) (cnt : Counters) (lg : Nat) : State :=
  (s.noteCounts x.ctx lg cnt).endInst x status detail cnt

end Sys2Proof.Machine
end

