-- ==== Sys2Proof/Machine/Engine.lean ====
section
/-! DEFINITION. What every engine shares: addresses and grants, operand granules and their checks, outputs and their Diacritics, recipe entries (04 R228 to R234; 08 R406 to R412; 12; 16 R796). -/
namespace Sys2Proof.Machine

/-! ## Addresses of a descriptor (R796, R847) -/

def devOf (a : Nat) : Nat := a / 2 ^ 48
def locOf (a : Nat) : Nat := a % 2 ^ 48

/-- Words `k` and `k + 1` as a 64-bit address. -/
def Inst.a64 (x : Inst) (k : Nat) : Nat := x.w k + 2 ^ 32 * x.w (k + 1)

/-- A field of a descriptor word. -/
def Inst.f (x : Inst) (k lo w : Nat) : Nat := bits (x.w k) lo w

def State.isOwn (s : State) (a : Nat) : Bool := devOf a == s.devId

/-- The 64-bit range may be read (`b` = 0) or written (`b` = 1). Another device judges by its own windows (R797); its
host memory is out of reach (R847). -/
def State.mayAcc (s : State) (x : Inst) (b a len : Nat) : Bool :=
  len == 0 ||
  (if s.isOwn a then s.mayAccess x.who b (locOf a) len
   else decide (locOf a + len ≤ hostBit))

/-- Bytes of the register range, as function 0 reads them. -/
def State.regBytesPf (s : State) (a n : Nat) : List Byte :=
  (List.range n).map fun i => BitVec.ofNat 8 ((s.regVal .pf (canonOff ((a + i) / 4 * 4))).toNat / 256 ^ ((a + i) % 4))

/-- Bytes at a 64-bit address: memory as the context sees it, or what READ_RSP packets have brought. -/
def State.rdx (s : State) (x : Inst) (a len : Nat) : List Byte :=
  if s.isOwn a then (if locOf a < 0x4000000 then s.regBytesPf (locOf a) len else s.rd (some x.ctx) (locOf a) len)
  else memRead x.staged a len

def State.poisonx (s : State) (x : Inst) (a len : Nat) : Bool := s.isOwn a && s.rdPoison (some x.ctx) (locOf a) len

/-- Pieces of a read of another device: at most 65,536 B each (R581). -/
def readPieces (a len : Nat) : List (Nat × Nat) :=
  (List.range (cdiv len 65536)).map fun k => (a + 65536 * k, min 65536 (len - 65536 * k))

/-- Ask another device for a piece: a READ_REQ whose read tag is the descriptor's number (R581, log entry 28). -/
def State.askPiece (s : State) (x : Inst) (p : Nat × Nat) : State :=
  s.sendFor x (mkPkt .readReq (devOf p.1) x.job 0 (locOf p.1) (x.id % 2 ^ 32) (leBytes 8 (locOf p.1) ++ leBytes 4 p.2))

/-- Pieces on other devices that the descriptor still needs. -/
def State.missing (s : State) (x : Inst) (rs : List (Nat × Nat)) : List (Nat × Nat) :=
  ((rs.filter fun r => !s.isOwn r.1).flatMap fun r => readPieces r.1 r.2).eraseDups.filter fun p => !x.asked.contains p

/-- Bytes of other devices that the descriptor still needs: ask for as many pieces as its lane may have outstanding (R456), or
wait; none when all are here. -/
def State.want (s : State) (x : Inst) (rs : List (Nat × Nat)) : Option State :=
  let miss := s.missing x rs
  if x.awaiting ≠ 0 then some s
  else if miss.isEmpty then none
  else
    let now := miss.take (s.laneLimit x - s.laneOut x)
    if !now.isEmpty && now.all (fun p => s.sendRoom (devOf p.1) ((now.filter fun q => devOf q.1 == devOf p.1).length) && s.groupRoom x (devOf p.1)) then
      some ((now.foldl (fun s p => s.askPiece x p) s).modInst x.id fun y =>
        { y with asked := y.asked ++ now, awaiting := (now.map Prod.snd).sum, reads := now.length, blocked := false })
    else some (s.modInst x.id fun y => { y with blocked := true })

/-- A poisoned input ends the descriptor with E_POISON and its record (R640). -/
def State.endPoison (s : State) (x : Inst) (rs : List (Nat × Nat)) : State :=
  (s.logPoison (some x.ctx) x.job ((rs.filter fun r => s.isOwn r.1).map fun r => (locOf r.1, r.2))).endInst x 9 0 {}

/-- The operand block or program of a started descriptor: read already, read now, or asked for. -/
def State.withBlock (s : State) (x : Inst) (a len : Nat) : Except State (State × Inst) :=
  if x.block.length = len then .ok (s, x)
  else if !s.mayAcc x 0 a len then .error (s.endDeny x a)
  else if s.isOwn a ∧ isHost (locOf a) ∧ !s.hostUp then .error (s.endInst x 7 0 {})
  else if s.poisonx x a len then .error (s.endPoison x [(a, len)])
  else match s.want x [(a, len)] with
    | some s' => .error s'
    | none =>
      let y := { x with block := s.rdx x a len }
      .ok (s.setInst y, y)

/-- 64-bit address of a cluster's SSM offset 0. -/
def State.ssm0 (s : State) (cl : Nat) : Nat := s.devId * 2 ^ 48 + ssmBase cl

/-- A field of a 64-byte operand block. -/
def Inst.blk (x : Inst) (k lo w : Nat) : Nat := bits (leAt x.block (4 * k) 4) lo w
def Inst.blk64 (x : Inst) (k : Nat) : Nat := x.blk k 0 32 + 2 ^ 32 * x.blk (k + 1) 0 32

/-! ## Input granules (R228 to R233, R640) -/

/-- A granule with its paired scale block: 64-bit addresses, bytes of real scale words, bytes of padding scale
words (R155), tensor ID, granule index, input stream number (R231). -/
structure Gran where
  a : Nat
  sa : Nat
  sl : Nat
  pad : Nat
  tid : Nat
  ix : Nat
  op : Nat
deriving DecidableEq, Repr

/-- A granule of unscaled data. -/
def plainGran (a tid ix op : Nat) : Gran := ⟨a, 0, 0, 0, tid, ix, op⟩

/-- The Diacritic held for a granule; the spec gives another device's no transport, so it is a free value (log entry 29). -/
def State.diacx (s : State) (x : Inst) (a : Nat) : Word :=
  if s.isOwn a then s.diac x.ctx (locOf a)
  else BitVec.ofNat 32 (Config.freeValue (2 ^ 64 * (s.freeCtr + 1) + a / 1024)).toNat

def State.granMatch (s : State) (x : Inst) (g : Gran) (sa : Nat) : Bool :=
  diacOf (s.rdx x g.a 1024) (s.rdx x sa g.sl ++ List.replicate g.pad 0#8) g.tid g.ix == s.diacx x g.a

/-- The check of a granule: none when it passes, else status and DETAIL (R228, R231, R640). -/
def State.granBad (s : State) (x : Inst) (g : Gran) : Option (Nat × Nat) :=
  if s.poisonx x g.a 1024 || s.poisonx x g.sa g.sl || (s.isOwn g.a && s.diacPoison (s.physRead (some x.ctx) (locOf g.a))) then some (9, 0)
  else if s.granMatch x g g.sa then none
  else if g.sl ≠ 0 ∧ s.mayAcc x 0 (g.sa + g.sl) g.sl ∧ s.granMatch x g (g.sa + g.sl) then some (3, g.op)
  else if g.sl ≠ 0 ∧ g.sl ≤ g.sa ∧ s.mayAcc x 0 (g.sa - g.sl) g.sl ∧ s.granMatch x g (g.sa - g.sl) then
    some (3, g.op + 8)
  else some (4, g.op)

/-- Counters of several pieces together. -/
def sumCnt (l : List Counters) : Counters := l.foldl Counters.add {}

/-! ## Work: pieces in processing order, each with its inputs, outputs and counts -/

/-- Bytes written at a 64-bit address, as a part of the output granule `key`. -/
structure Out where
  a : Nat
  bs : List Byte
  key : Nat
deriving DecidableEq, Repr

/-- Bytes written to plain output, cut at granule boundaries. -/
def outAt (a : Nat) (bs : List Byte) : List Out :=
  (granPieces a bs.length).map fun p => ⟨p.1, slice bs (p.1 - a) p.2, p.1 / 1024⟩

/-- One piece of an engine's work; `bad` is a failure that the piece itself finds (status, DETAIL), `who` the granule
that its record names, `car` Diacritics carried unchanged: (granule's 64-bit address, tensor ID, index, Diacritic). -/
structure Chunk where
  need : List Gran
  use : List (Nat × Nat)
  outs : List Out
  ren : List Gran
  cnt : Counters
  bad : Option (Nat × Nat)
  who : Option Gran := none
  /-- counts of the piece's input groups with their granules, in processing order (R233) -/
  part : List (Gran × Counters) := []
  car : List (Nat × Nat × Nat × Word) := []
deriving DecidableEq, Repr

def Chunk.empty : Chunk := { need := [], use := [], outs := [], ren := [], cnt := {}, bad := none }

/-- The work of a descriptor: what it reads, its pieces, what it writes at its successful end, the layer group of
its counters (R442), DETAIL on success, traffic class of packets to other devices. -/
structure Work where
  reads : List (Nat × Nat)
  chunks : List Chunk
  fin : Chunk
  lg : Nat
  detail : Nat
  tc : Nat
deriving DecidableEq, Repr

/-- Where a run halts: status, DETAIL, the granule whose check failed, the address that a record of a refusal names. -/
structure Halt where
  status : Nat
  detail : Nat
  gran : Option Gran
  deny : Option Nat := none
deriving DecidableEq, Repr

/-- The first failure of a piece. -/
def State.chunkBad (s : State) (x : Inst) (c : Chunk) : Option Halt :=
  if c.use.any fun r => s.poisonx x r.1 r.2 then some ⟨9, 0, none, none⟩
  else
    match (if x.checkDiac then c.need.findSome? fun g => (s.granBad x g).map fun b => (⟨b.1, b.2, some g, none⟩ : Halt) else none) with
    | some h => some h
    | none => c.bad.map fun b => ⟨b.1, b.2, c.who, none⟩

/-- The pieces before the first failure, the pieces from it on, and the failure. -/
def State.runChunks (s : State) (x : Inst) : List Chunk → List Chunk → List Chunk × List Chunk × Option Halt
  | done, [] => (done, [], none)
  | done, c :: t =>
    match s.chunkBad x c with
    | some h => (done, c :: t, some h)
    | none => s.runChunks x (done ++ [c]) t

/-- A piece that reads or writes what the descriptor may not, or whose Diacritic lies in no window (R655, R796). -/
def State.chunkDenied (s : State) (x : Inst) (c : Chunk) : Option Halt :=
  let rd := (c.use.find? fun r => !s.mayAcc x 0 r.1 r.2).map Prod.fst
  let wr := (c.outs.find? fun o => !s.mayAcc x 1 o.a o.bs.length).map Out.a
  let hostBad := fun (a : Nat) => s.isOwn a && isHost (locOf a) && !s.inHdw x.ctx (locOf a)
  match rd.or wr with
  | some a => some ⟨0xF, 0, none, some a⟩
  | none =>
    if (((if x.checkDiac || !c.car.isEmpty then c.need else []) ++ c.ren).map Gran.a ++ c.car.map Prod.fst).any hostBad then
      some ⟨0xF, 0, none, none⟩ else none

/-- As `runChunks`, where some range of the work is refused: the refusal halts the run when the piece that meets it is
reached, after the pieces and the faults before it (R35). -/
def State.runGranted (s : State) (x : Inst) : List Chunk → List Chunk → List Chunk × List Chunk × Option Halt
  | done, [] => (done, [], none)
  | done, c :: t =>
    match (s.chunkDenied x c).or (s.chunkBad x c) with
    | some h => (done, c :: t, some h)
    | none => s.runGranted x (done ++ [c]) t

/-- A refused range that no piece names by itself, so that the work cannot begin. -/
def State.workShut (s : State) (x : Inst) (w : Work) : Option Nat :=
  (w.reads.find? fun r => !s.mayAcc x 0 r.1 r.2 && !(w.chunks ++ [w.fin]).any fun c => c.use.any fun u => overlaps u r).map Prod.fst

/-- A range that the descriptor may not access, if there is one, and whether its windows refuse it (R796); a granule
outside the host Diacritic window is refused without a record (R655). -/
def State.workDenied (s : State) (x : Inst) (w : Work) : Option (Nat × Bool) :=
  let all := w.chunks ++ [w.fin]
  let rd := (w.reads.find? fun r => !s.mayAcc x 0 r.1 r.2).map Prod.fst
  let wr := ((all.flatMap Chunk.outs).find? fun o => !s.mayAcc x 1 o.a o.bs.length).map Out.a
  let hostBad := fun (a : Nat) => s.isOwn a && isHost (locOf a) && !s.inHdw x.ctx (locOf a)
  let cars := all.flatMap Chunk.car
  let chk := (((if x.checkDiac || !cars.isEmpty then all.flatMap Chunk.need else []) ++ all.flatMap Chunk.ren).map Gran.a ++
    cars.map Prod.fst).find? hostBad
  ((rd.or wr).map fun a => (a, true)).or (chk.map fun a => (a, false))

/-- Host memory is named while no port carries host transfers. -/
def State.workHostDown (s : State) (w : Work) : Bool :=
  !s.hostUp && ((w.reads.any fun r => s.isOwn r.1 && isHost (locOf r.1) && r.2 != 0) ||
    (w.chunks ++ [w.fin]).any fun c => c.outs.any fun o => s.isOwn o.a && isHost (locOf o.a))

/-- Write local outputs; a descriptor of function 0 may write registers, by word. -/
def State.putOut (s : State) (x : Inst) (o : Out) : State :=
  if !s.isOwn o.a then s
  else if locOf o.a < 0x4000000 then
    ((toWords o.bs).zipIdx).foldl (fun s p => s.regWrite .pf (locOf o.a + 4 * p.2) p.1) s
  else s.wr (some x.ctx) (locOf o.a) o.bs

/-- Fresh Diacritic of a local output granule, from what now stands in memory (R296, R652). -/
def State.renew (s : State) (x : Inst) (g : Gran) : State :=
  if !s.isOwn g.a then s
  else s.setDiac x.ctx (locOf g.a) (diacOf (s.rdx x g.a 1024) (s.rdx x g.sa g.sl ++ List.replicate g.pad 0#8) g.tid g.ix)

/-! ### Outputs on another device (R581, R605 to R609) -/

/-- Join outputs that follow one another. -/
def joinOuts : List Out → List Out
  | [] => []
  | o :: t =>
    match joinOuts t with
    | [] => [o]
    | p :: r => if o.a + o.bs.length = p.a then ⟨o.a, o.bs ++ p.bs, o.key⟩ :: r else o :: p :: r

/-- WRITE packets of at most 512 B. -/
def writePkts (job tc : Nat) (o : Out) : List Packet :=
  ((pieces 512 o.bs).zipIdx).map fun p => mkPkt .write (devOf o.a) job tc (locOf o.a + 512 * p.2) 0 p.1

/-- Runs of at most 127 consecutive granules: (address, tensor ID, first index, Diacritics). -/
def diacRuns : List (Nat × Nat × Nat × Word) → List (Nat × Nat × Nat × List Word)
  | [] => []
  | (a, t, i, d) :: r =>
    match diacRuns r with
    | [] => [(a, t, i, [d])]
    | (a', t', i', ds) :: q =>
      if a + 1024 = a' ∧ t = t' ∧ i + 1 = i' ∧ ds.length < 127 then (a, t, i, d :: ds) :: q
      else (a, t, i, [d]) :: (a', t', i', ds) :: q

def diacPkts (job : Nat) (l : List (Nat × Nat × Nat × Word)) : List Packet :=
  (diacRuns l).map fun p => mkPkt .diac (devOf p.1) job 0 (locOf p.1) p.2.1 (leBytes 4 p.2.2.1 ++ ofWords p.2.2.2)

/-- Packets of the outputs on other devices, data first; granules with scale words are left to their consumers (R609). -/
def State.remotePkts (s : State) (x : Inst) (tc : Nat) (outs : List Out) (ren : List Gran) (cars : List (Nat × Nat × Nat × Word)) :
    List Packet :=
  let outs := outs.filter fun o => !s.isOwn o.a
  let img := outs.foldl (fun m o => memWrite m o.a o.bs) []
  let ds := ((ren.filter fun g => !s.isOwn g.a && g.sl == 0 && g.pad == 0).eraseDups).map fun g =>
    (g.a, g.tid, g.ix, diacOf (memRead img g.a 1024) [] g.tid g.ix)
  (joinOuts outs).flatMap (writePkts x.job tc) ++ diacPkts x.job (ds ++ cars.filter fun c => !s.isOwn c.1)

/-- Send packets while their flows, the descriptor's lane and the die's retransmit store have room (R456, R584, R600); answers how
many went. -/
def State.sendSome (s : State) (x : Inst) : List Packet → Nat → State × Nat
  | [], k => (s, k)
  | p :: t, k => if s.laneRoom x && s.storeRoom (queueDie x.queue) p && s.sendRoom p.dst 1 && s.groupRoom ((s.inst? x.id).getD x) p.dst then (s.sendFor x p).sendSome x t (k + 1) else (s, k)

/-! ## Running work -/

/-- Sleep unit of a queue: a cluster, a compute die from 32, an I/O die from 34 (R755). -/
def queueUnit (q : Nat) : Nat := if q < 0x80 then q % 32 else if q < 0xC8 then 32 + queueDie q else 34 + queueDie q

/-- The records of a halt: CHECK_HALT with job, tensor, granule and status; MEM_POISON with the offset (R229, R640). -/
def State.logHalt (s : State) (x : Inst) (h : Halt) (use : List (Nat × Nat)) : State :=
  if h.status = 9 then s.logPoison (some x.ctx) x.job ((use.filter fun r => s.isOwn r.1).map fun r => (locOf r.1, r.2))
  else if h.status = 0xF then
    match h.deny with
    | some a => if x.fromPf || a / 2 ^ 48 != s.devId then s else s.logViolation x.ctx a
    | none => s
  else match h.gran with
  | some g => if h.status = 3 ∨ h.status = 4 then s.logEv 0x0202 x.job [g.tid, g.ix, h.status] else s
  | none => if h.status = 3 then s.logEv 0x0202 x.job [0, 0, 3] else s

/-- Ranges that a failing piece reads. -/
def Chunk.ranges (c : Chunk) : List (Nat × Nat) :=
  c.use ++ c.need.flatMap fun g => [(g.a, 1024), (g.sa, g.sl)]

/-- The outputs and Diacritics of finished pieces; those of a granule that a failing or later piece shares are left out (R230). -/
def keptOuts (good rest : List Chunk) (fin : List Chunk) (halted : Bool) : List Out × List Gran :=
  let parts := good ++ fin
  let late := (rest.flatMap Chunk.outs).map Out.key
  let outs := (parts.flatMap Chunk.outs).filter fun o => !halted || !late.contains o.key
  (outs, ((parts.flatMap Chunk.ren).eraseDups).filter fun g =>
    outs.any fun o => decide (o.a < g.a + 1024) && decide (g.a < o.a + o.bs.length))

/-- Diacritics carried with finished pieces; those of a granule that a failing or later piece shares are left out. -/
def keptCars (good rest : List Chunk) (halted : Bool) : List (Nat × Nat × Nat × Word) :=
  let late := (rest.flatMap Chunk.outs).map Out.key
  (good.flatMap Chunk.car).filter fun c => !halted || !late.contains (c.1 / 1024)

/-- Write outputs on this device and renew their Diacritics. -/
def State.putAll (s : State) (x : Inst) (outs : List Out) (ren : List Gran) : State :=
  ren.foldl (fun s g => s.renew x g) (outs.foldl (fun s o => s.putOut x o) s)

/-- Store carried Diacritics of granules on this device. -/
def State.putCars (s : State) (x : Inst) (cars : List (Nat × Nat × Nat × Word)) : State :=
  cars.foldl (fun s c => if s.isOwn c.1 then s.setDiac x.ctx (locOf c.1) c.2.2.2 else s) s

/-- Work inside another descriptor: local effects only, without ending anything; status and counts. -/
def State.applyWork (s : State) (x : Inst) (w : Work) : State × Option Halt × Counters :=
  let (good, rest, halt) := s.runChunks x [] w.chunks
  let (outs, ren) := keptOuts good rest (if halt.isNone then [w.fin] else []) halt.isSome
  (s.putAll x outs ren, halt, sumCnt ((good ++ (if halt.isNone then [w.fin] else [])).map Chunk.cnt))

/-- Counts of the groups that a failing piece has processed before its halt (R233). -/
def Chunk.before (c : Chunk) (h : Halt) : Counters :=
  match h.gran with
  | some g => sumCnt ((c.part.takeWhile fun p => p.1 != g).map Prod.snd)
  | none => {}

/-- Counts of a run: its finished pieces, its end where it does not halt, and what the failing piece has processed. -/
def ranCounts (good rest fin : List Chunk) (halt : Option Halt) : Counters :=
  match halt, rest with
  | some h, c :: _ => (sumCnt (good.map Chunk.cnt)).add (c.before h)
  | some _, [] => sumCnt (good.map Chunk.cnt)
  | none, _ => sumCnt ((good ++ fin).map Chunk.cnt)

/-- What a run of work answers: the state, where it halted, the ranges of the failing piece, the counts. -/
structure Ran where
  s : State
  halt : Option Halt
  ranges : List (Nat × Nat)
  cnt : Counters
deriving DecidableEq, Repr

/-- Run the pieces: those before the first failure, the rest, and the failure. -/
def State.runPieces (s : State) (x : Inst) (w : Work) : List Chunk × List Chunk × Option Halt :=
  match s.workDenied x w with
  | none => s.runChunks x [] w.chunks
  | some _ =>
    let (good, rest, halt) := s.runGranted x [] w.chunks
    (good, rest, halt.or (s.chunkDenied x w.fin))

/-- Run work: pieces in order up to the first that is refused or whose inputs fail (R35, R796); outputs of the granules that no
failing or later piece contributes to are written (R229, R230), journal space and send credits permitting. An error is
the state in which the descriptor has ended or waits. -/
def State.partWork (s : State) (x : Inst) (w : Work) : Except State Ran :=
  match s.workShut x w with
  | some a => .error (s.endDeny x a)
  | none =>
    if s.workHostDown w then .error (s.endInst x 7 0 {})
    else
      let (good, rest, halt) := s.runPieces x w
      let (outs, ren) := keptOuts good rest (if halt.isNone then [w.fin] else []) halt.isSome
      let cars := keptCars good rest halt.isSome
      let own := (outs.filter fun o => s.isOwn o.a).map fun o => (locOf o.a, o.bs.length)
      if !s.jnlRoom x.ctx own then
        .error (if x.blocked then s else (s.jnlWait x.ctx).modInst x.id fun y => { y with blocked := true })
      else
        let pk := (s.remotePkts x w.tc outs ren cars).drop x.progress
        let (s, k) := s.sendSome x pk 0
        if k < pk.length then .error (s.modInst x.id fun y => { y with progress := y.progress + k, blocked := true })
        else
          let s := (s.putAll x outs ren).putCars x cars
          let s := if w.chunks.any fun c => c.need.any fun g => !s.isOwn g.a then { s with freeCtr := s.freeCtr + 1 } else s
          .ok ⟨s.touch (queueUnit x.queue), halt, (rest.head?.map Chunk.ranges).getD [],
            ranCounts good rest [w.fin] halt⟩

/-- A run of work that ends its descriptor. -/
def State.endWork (x : Inst) (lg detail : Nat) (r : Ran) : State :=
  match r.halt with
  | none => r.s.endEngine x 0 detail r.cnt lg
  | some h => (r.s.logHalt x h r.ranges).endEngine x h.status h.detail r.cnt lg

/-- Run work and end the descriptor, unless it has to wait. -/
def State.runWork (s : State) (x : Inst) (w : Work) : State :=
  match s.partWork x w with
  | .error s' => s'
  | .ok r => State.endWork x w.lg w.detail r

/-! ## Recipe entries (R406 to R412) -/

/-- A recipe entry: its eight words. -/
structure Entry where
  ws : List Word
deriving DecidableEq, Repr

def Entry.f (e : Entry) (k lo w : Nat) : Nat := bits (wd e.ws k) lo w
def Entry.fmt (e : Entry) : Nat := e.f 0 22 4
def Entry.gs (e : Entry) : Nat := e.f 0 26 2
def Entry.cap (e : Entry) : Nat := e.f 1 0 32
/-- P; a field above its range of 0 to 4,096 reads as 4,096 (DESIGN CHOICE, log entry 73). -/
def Entry.promo (e : Entry) : Nat := min 4096 (e.f 2 0 13)
/-- LOG2_SLICE_ROWS: 3 to 16, 0 reads as 7; other values end the descriptor with E_FORMAT. -/
def Entry.sliceOk (e : Entry) : Bool := let v := e.f 2 13 5; v == 0 || decide (3 ≤ v ∧ v ≤ 16)
def Entry.sliceRows (e : Entry) : Nat := let v := e.f 2 13 5; 2 ^ (if v = 0 then 7 else v)
def Entry.rotId (e : Entry) : Nat := e.f 3 0 24
/-- Word 0 bits [21:0] with T = 0 read as 16. -/
def Entry.qctl (e : Entry) : Nat := let v := e.f 0 0 22; if bits v 12 7 = 0 then v + 16 * 2 ^ 12 else v
/-- The same for a basic expansion, which sets RESCUE (R212). -/
def Entry.basicQctl (e : Entry) : Nat := setBits e.qctl 6 1 1

/-- Local base of the recipe version of a descriptor: 1 E_STATE without a table, 0xF where it cannot be reached,
9 where it is poisoned. -/
def State.recipeOf (s : State) (x : Inst) : Except Nat Nat :=
  if s.jr64 x.ctx 0x200 = 0 then .error 1
  else match s.recipeBase x.ctx x.epoch with
    | none => .error 0xF
    | some b => if !s.mapped b 32832 ∨ b < 0x4000000 then .error 0xF
      else if isHost b ∧ !s.hostUp then .error 7 else .ok b

/-- The entry of a layer group and role. -/
def State.entry (s : State) (x : Inst) (lg role : Nat) : Except Nat Entry :=
  match s.recipeOf x with
  | .error e => .error e
  | .ok b =>
    let a := b + 64 + 32 * (4 * lg + role)
    if s.rdPoison (some x.ctx) a 32 then .error 9 else .ok ⟨toWords (s.rd (some x.ctx) a 32)⟩

/-- Where the entries of layer groups and roles lie: 64-bit address and bytes. -/
def State.entryRanges (s : State) (x : Inst) (ks : List (Nat × Nat)) : List (Nat × Nat) :=
  match s.recipeBase x.ctx x.epoch with
  | none => [(s.jr64 x.ctx 0x200, 0)]
  | some b => ks.map fun k => (s.devId * 2 ^ 48 + b + 64 + 32 * (4 * k.1 + k.2), 32)

/-- A descriptor ends for a recipe entry that it cannot read. -/
def State.endEntry (s : State) (x : Inst) (st : Nat) (ks : List (Nat × Nat)) : State :=
  let rs := s.entryRanges x ks
  if st = 0xF then s.endDeny x ((rs.head?.map Prod.fst).getD 0) else if st = 9 then s.endPoison x rs else s.endInst x st 0 {}

/-- The job seed; 0 without a recipe table (R407). -/
def State.seed (s : State) (x : Inst) : Nat :=
  match s.recipeOf x with
  | .ok b => leNat (s.rd (some x.ctx) b 8)
  | .error _ => 0

end Sys2Proof.Machine
end

