-- ==== Sys2Proof/Machine/Num.lean ====
section
/-! DEFINITION. Number formats: exact values, element codes, scale words, rounding, dither, group encoding (03). -/
namespace Sys2Proof.Machine

def Val.zero : Val := .fin false 0

def Val.ofRat (q : Rat) : Val := if q < 0 then .fin true (-q) else .fin false q

def Val.isNan : Val → Bool | .nan => true | _ => false
def Val.isInf : Val → Bool | .inf _ => true | _ => false
def Val.isFin : Val → Bool | .fin _ _ => true | _ => false
def Val.isZero : Val → Bool | .fin _ m => m == 0 | _ => false
def Val.neg : Val → Bool | .nan => false | .inf n => n | .fin n _ => n

/-- The rational value of a finite value; 0 for a non-finite one. -/
def Val.rat : Val → Rat | .fin n m => if n then -m else m | _ => 0

/-- Magnitude of a finite value. -/
def Val.mag : Val → Rat | .fin _ m => m | _ => 0

def pow2 (e : Int) : Rat := if 0 ≤ e then ((2 ^ e.toNat : Nat) : Rat) else 1 / ((2 ^ (-e).toNat : Nat) : Rat)

/-- Exponent of a positive rational: the e with 2^e ≤ q < 2^(e+1). -/
def ilog2 (q : Rat) : Int :=
  let e : Int := (Nat.log2 q.num.natAbs : Int) - (Nat.log2 q.den : Int)
  if pow2 e ≤ q then e else e - 1

/-! ## Format codes (R134) -/

def E2M1 := 0x0
def INT4 := 0x1
def UINT4 := 0x2
def INT2 := 0x3
def TERN := 0x4
def INT8 := 0x5
def UINT8 := 0x6
def E4M3 := 0x7
def E5M2 := 0x8
def FP16 := 0x9
def BF16 := 0xA
def I16B := 0xB

def fmtBits (f : Nat) : Nat := if f ≤ 2 then 4 else if f ≤ 4 then 2 else if f ≤ 8 then 8 else 16
def fmtScaled (f : Nat) : Bool := decide (f ≤ 8)
def fmt16 (f : Nat) : Bool := f == FP16 || f == BF16
/-- Group size of a GSIZE code (R136). -/
def groupOf (gs : Nat) : Nat := 32 * 2 ^ gs

/-- Parameters of a floating kind: exponent bits, fraction bits, bias (R140). -/
structure FloatFmt where
  e : Nat
  f : Nat
  bias : Nat
  maxFin : Rat
  hasInf : Bool
  nanCode : Nat
  infCode : Nat
deriving DecidableEq, Repr

def floatFmt (f : Nat) : FloatFmt :=
  if f = E4M3 then ⟨4, 3, 7, 448, false, 0x7F, 0x7F⟩
  else if f = E5M2 then ⟨5, 2, 15, 57344, true, 0x7E, 0x7C⟩
  else if f = FP16 then ⟨5, 10, 15, 65504, true, 0x7E00, 0x7C00⟩
  else ⟨8, 7, 127, (255 / 128 : Rat) * pow2 127, true, 0x7FC0, 0x7F80⟩

def FloatFmt.minNormal (p : FloatFmt) : Rat := pow2 (1 - (p.bias : Int))

/-- A floating code read exactly; a subnormal reads as a zero of its sign (R142). -/
def decodeFloat (p : FloatFmt) (c : Nat) : Val :=
  let s := bit c (p.e + p.f)
  let x := bits c p.f p.e
  let q := bits c 0 p.f
  if x = 2 ^ p.e - 1 ∧ p.hasInf then (if q = 0 then .inf s else .nan)
  else if x = 2 ^ p.e - 1 ∧ q = 2 ^ p.f - 1 then .nan
  else if x = 0 then .fin s 0
  else .fin s ((1 + (q : Rat) / (2 ^ p.f : Nat)) * pow2 ((x : Int) - p.bias))

/-- A floating code is subnormal: exponent field 0 and a fraction (R140). -/
def isSubnormal (f c : Nat) : Bool :=
  decide (7 ≤ f ∧ f ≤ 10) && (let p := floatFmt f; bits c p.f p.e == 0 && bits c 0 p.f != 0)

def e2m1Mags : List Rat := [0, 1 / 2, 1, 3 / 2, 2, 3, 4, 6]

/-- Sign and zero-magnitude test of an element code in an INF group (R840). -/
def codeNeg (f c : Nat) : Bool :=
  if f = TERN then c == 2 else if f = INT2 then bit c 1 else bit c (fmtBits f - 1)
def codeMagZero (f c : Nat) : Bool :=
  if f = TERN then c == 0
  else if f = INT2 then bits c 0 1 == 0
  else if f = INT4 ∨ f = INT8 then c == 0
  else bits c 0 (fmtBits f - 1) == 0

/-- The element value before the scale (R137, R138); the low nibble is the zero point of the asymmetric kinds. -/
def elemVal (f low c : Nat) : Val :=
  if f = E2M1 then .fin (bit c 3) (e2m1Mags.getD (bits c 0 3) 0)
  else if f = INT4 then Val.ofRat (signed 4 c)
  else if f = UINT4 then Val.ofRat ((c : Rat) - low)
  else if f = INT2 then .fin (bit c 1) (if bit c 0 then 3 / 2 else 1 / 2)
  else if f = TERN then (if c = 0 then .fin false 0 else .fin (c == 2) 1)
  else if f = INT8 then Val.ofRat (signed 8 c)
  else if f = UINT8 then Val.ofRat ((c : Rat) - 16 * low)
  else decodeFloat (floatFmt f) c

/-- The scale of a normal scale word (R145). -/
def scaleOf (sw : Nat) : Rat := (1 + (bits sw 4 4 : Rat) / 16) * pow2 ((bits sw 8 8 : Int) - 127)

def Val.scale (s : Rat) : Val → Val
  | .fin n m => .fin n (m * s)
  | v => v

/-- The exact value of an element of a group (pseudocode of R176); unscaled kinds ignore the scale word. -/
def decode (f sw c : Nat) : Val :=
  if fmt16 f then decodeFloat (floatFmt f) c
  else if f = TERN ∧ c = 3 then .nan
  else if bits sw 8 8 = 0xFF then .nan
  else if bits sw 8 8 = 0 then .fin false 0
  else if bits sw 8 8 = 0xFE then (if codeMagZero f c then .fin (codeNeg f c) 0 else .inf (codeNeg f c))
  else (elemVal f (bits sw 0 4) c).scale (scaleOf sw)

/-- A whole group; a TERN code 0b11 poisons it (R139). -/
def decodeGroup (f sw : Nat) (cs : List Nat) : List Val :=
  if f = TERN ∧ cs.contains 3 then cs.map fun _ => .nan else cs.map (decode f sw)

/-! ## Rounding (R164 to R171) -/

/-- The chosen magnitude between two neighbours, and whether the upper one is taken: nearest with the given tie,
or stochastic with a 12-bit dither (R169, R170). -/
def pick (t lo hi : Rat) (tieHi : Bool) (r : Option Nat) : Bool :=
  match r with
  | none => if 2 * t < lo + hi then false else if lo + hi < 2 * t then true else tieHi
  | some d => decide (4096 ≤ ((4096 * (t - lo) / (hi - lo)).floor.toNat) + d)

/-- Round a magnitude in a table of magnitudes, index parity deciding ties; answers the index. A magnitude below the whole table
takes its first entry: so an INT2 element below 0.5 becomes 0.5 under either rounding, for the spec gives it no lower
neighbour (DESIGN CHOICE, log entry 73). -/
def roundTable (tab : List Rat) (t : Rat) (r : Option Nat) : Nat :=
  let k := (tab.filter fun m => decide (m ≤ t)).length
  if k = 0 then 0
  else if k = tab.length then k - 1
  else if pick t (tab.getD (k - 1) 0) (tab.getD k 0) (k % 2 == 0) r then k else k - 1

/-- Round a magnitude to an integer. -/
def roundInt (t : Rat) (r : Option Nat) : Nat :=
  let lo := t.floor.toNat
  if pick t lo (lo + 1) (lo % 2 == 1) r then lo + 1 else lo

/-- Round a magnitude to a significand of `p` bits at any exponent. -/
def roundSig (p : Nat) (t : Rat) (r : Option Nat) : Rat :=
  if t ≤ 0 then 0
  else
    let u := pow2 (ilog2 t - (p : Int) + 1)
    (roundInt (t / u) r : Rat) * u

/-- Round an exact value to a float format with overflow to infinity and flush of subnormals (R167, R168); the
result is a value that the format holds. -/
structure Rounded where
  v : Val
  /-- a finite value overflowed -/
  sat : Bool
  /-- a non-zero value became zero -/
  flush : Bool
deriving DecidableEq, Repr

def roundFloat (f : Nat) (x : Val) (r : Option Nat) : Rounded :=
  match x with
  | .nan => ⟨.nan, false, false⟩
  | .inf n => ⟨.inf n, false, false⟩
  | .fin n m =>
    let p := floatFmt f
    let y := roundSig (p.f + 1) m r
    if p.maxFin < y then ⟨.inf n, true, false⟩
    else if y < p.minNormal then ⟨.fin n 0, false, m != 0⟩
    else ⟨.fin n y, false, false⟩

/-- Code of a value that a float format holds (R140, R141). -/
def floatCode (p : FloatFmt) (v : Val) : Nat :=
  match v with
  | .nan => p.nanCode
  | .inf n => p.infCode + (if n then 2 ^ (p.e + p.f) else 0)
  | .fin n m =>
    let s := if n then 2 ^ (p.e + p.f) else 0
    if m = 0 then s
    else
      let e := ilog2 m
      let q := ((m / pow2 e - 1) * (2 ^ p.f : Nat)).floor.toNat
      s + (e + p.bias).toNat * 2 ^ p.f + q

/-- Convert to FP16 or BF16, with the counts of R161. -/
def to16 (f : Nat) (x : Val) (r : Option Nat) : Nat × Counters :=
  let y := roundFloat f x r
  (floatCode (floatFmt f) y.v,
    { sat := if y.sat then 1 else 0, flush := if y.flush then 1 else 0, nan := if y.v.isNan then 1 else 0 })

/-- BF16 of a non-negative rational, rounded towards +∞ (R207, R522); a value above the largest gives infinity. -/
def bf16Up (q : Rat) : Nat :=
  if q ≤ 0 then 0
  else
    let u := pow2 (ilog2 q - 7)
    let c := (q / u).ceil
    let y := (c : Rat) * u
    if (floatFmt BF16).maxFin < y then 0x7F80
    else if y < (floatFmt BF16).minNormal then 0x0080
    else floatCode (floatFmt BF16) (.fin false y)

/-! ## Dither generator (R172 to R174) -/

def m64 : Nat := 2 ^ 64

def feMix (x k : Nat) : Nat :=
  let y := ((x ^^^ k) * 0x9E3779B97F4A7C15) % m64
  let y := y ^^^ (y / 2 ^ 29)
  let y := (y * 0xBF58476D1CE4E5B9) % m64
  y ^^^ (y / 2 ^ 32)

def feRound (seed : Nat) (lr : Nat × Nat) (i : Nat) : Nat × Nat :=
  (lr.2, lr.1 ^^^ feMix lr.2 (seed ^^^ (((i + 1) * 0x9E3779B97F4A7C15) % m64)))

/-- The 128-bit output of the four-round network. -/
def feistel (ctr seed : Nat) : Nat :=
  let p := [0, 1, 2, 3].foldl (feRound seed) (ctr / m64 % m64, ctr % m64)
  p.1 * m64 + p.2

def feCounter (tid step code elem sub : Nat) : Nat :=
  tid % 2 ^ 24 * 2 ^ 104 + step % 2 ^ 32 * 2 ^ 72 + code % 256 * 2 ^ 64 + elem % 2 ^ 48 * 2 ^ 16 + sub % 65536

def dither (seed tid step elem : Nat) : Nat := feistel (feCounter tid step 1 elem 0) seed % 4096

/-- How a conversion rounds: to nearest, or stochastically with the generator's keys (R164, R174). -/
structure Rnd where
  on : Bool
  seed : Nat
  tid : Nat
  step : Nat
deriving DecidableEq, Repr

def Rnd.at_ (r : Rnd) (elem : Nat) : Option Nat := if r.on then some (dither r.seed r.tid r.step elem) else none

/-! ## Scales (R149, R150, R201, R202) -/

/-- Largest magnitude of a symmetric target (R201). -/
def qmax (f : Nat) : Rat :=
  if f = E2M1 then 6 else if f = INT4 then 7 else if f = INT2 then 3 / 2 else if f = TERN then 1
  else if f = INT8 then 127 else if f = E4M3 then 448 else 57344

def swOf (e f : Nat) : Nat := e * 256 + f * 16

/-- The scale with 16ths `n` of 2^e, 16 ≤ n ≤ 32, clamped below; none above the largest scale. -/
def mkScale (e : Int) (n : Nat) : Option Nat :=
  let e' := if 32 ≤ n then e + 1 else e
  let f := if 32 ≤ n then 0 else n - 16
  if e' < -126 then some 0x0100 else if 126 < e' then none else some (swOf (e' + 127).toNat f)

/-- up(v): the smallest normal scale at least `v` (R202). -/
def scaleUp (pow2only : Bool) (v : Rat) : Option Nat :=
  if v ≤ pow2 (-126) then some 0x0100
  else
    let e := ilog2 v
    if pow2only then (if v = pow2 e then mkScale e 16 else mkScale (e + 1) 16)
    else mkScale e (16 * v / pow2 e).ceil.toNat

/-- The largest scale (R145). -/
def maxScale : Rat := 31 / 16 * pow2 126

/-- rn(v): the nearest normal scale, ties to even F; none for a `v` above the largest scale (R202). -/
def scaleRn (v : Rat) : Option Nat :=
  if v ≤ pow2 (-126) then some 0x0100
  else if maxScale < v then none
  else mkScale (ilog2 v) (roundInt (16 * v / pow2 (ilog2 v)) none)

/-- A LEARNED scale from BF16 (R149, R150): a scale word, 0xFE00, 0x0000 or 0xFF00. -/
def scaleOfBf16 (c : Nat) : Nat :=
  match decodeFloat (floatFmt BF16) c with
  | .nan => 0xFF00
  | .inf n => if n then 0xFF00 else 0xFE00
  | .fin n m =>
    if n then 0xFF00
    else if m = 0 then 0x0000
    else
      let f := roundInt ((bits c 0 7 : Rat) / 8) none
      let e := bits c 7 8 + (if f = 16 then 1 else 0)
      if 0xFE ≤ e then 0xFE00 else swOf e (f % 16)

/-! ## Encoding a group (R156 to R160, R167) -/

/-- One element rounded for a target: a code magnitude (in the target's own units) and its marks. -/
structure Elem where
  v : Val
  sat : Bool
deriving DecidableEq, Repr

/-- Round *t* for a scaled target: the value is *t* rounded, in units of the scale (R167). -/
def roundElem (f zp : Nat) (x : Val) (r : Option Nat) : Elem :=
  match x with
  | .nan => ⟨.nan, false⟩
  | .inf n => ⟨.inf n, false⟩
  | .fin n m =>
    if f = E2M1 then
      let k := roundTable (e2m1Mags ++ [8]) m r
      ⟨.fin n ((e2m1Mags ++ [8]).getD k 0), k == 8⟩
    else if f = INT2 then
      let k := roundTable [1 / 2, 3 / 2, 5 / 2] m r
      ⟨.fin n ([1 / 2, 3 / 2, 5 / 2].getD k 0), k == 2⟩
    else if f = INT4 ∨ f = TERN ∨ f = INT8 then
      let k := roundInt m r
      ⟨.fin n k, decide ((if f = INT4 then 7 else if f = TERN then 1 else 127) < k)⟩
    else if f = UINT4 ∨ f = UINT8 then
      let t : Rat := (if n then -m else m) + zp
      let k : Int := if t < 0 then -(roundInt (-t) r : Int) else roundInt t r
      ⟨Val.ofRat k, decide (k < 0) || decide ((if f = UINT4 then 15 else 255) < k)⟩
    else
      let y := roundFloat f x r
      if y.sat then ⟨if f = E5M2 then .inf n else .fin n (qmax f), true⟩ else ⟨y.v, false⟩

/-- Code of a rounded element that did not overflow. -/
def elemCode (f : Nat) (v : Val) : Nat :=
  let n := v.neg
  let m := v.mag
  if f = E2M1 then (e2m1Mags.findIdx (· == m)) + (if n then 8 else 0)
  else if f = INT2 then (if m = 3 / 2 then 1 else 0) + (if n then 2 else 0)
  else if f = TERN then (if m = 0 then 0 else if n then 2 else 1)
  else if f = INT4 then unsigned 4 (if n then -m.floor else m.floor)
  else if f = INT8 then unsigned 8 (if n then -m.floor else m.floor)
  else if f = UINT4 ∨ f = UINT8 then m.floor.toNat
  else floatCode (floatFmt f) v

/-- Codes of zero and of the largest magnitude, by sign, in an INF group (R840). -/
def infCodeOf (f : Nat) (big neg : Bool) : Nat :=
  if f = TERN then (if big then (if neg then 2 else 1) else 0)
  else if f = INT2 then (if big then 1 else 0) + (if neg then 2 else 0)
  else if f = INT4 then (if big then (if neg then 9 else 7) else 0)
  else if f = INT8 then (if big then (if neg then 0x81 else 0x7F) else 0)
  else if f = E4M3 then (if big then 0x7E else 0) + (if neg then 0x80 else 0)
  else if f = E5M2 then (if big then 0x7B else 0) + (if neg then 0x80 else 0)
  else (if big then 2 ^ (fmtBits f - 1) - 1 else 0) + (if neg then 2 ^ (fmtBits f - 1) else 0)

/-- A written group: scale word, codes, counts. -/
structure GroupOut where
  sw : Nat
  codes : List Nat
  cnt : Counters
deriving DecidableEq, Repr

def nanGroup (n : Nat) : GroupOut := ⟨0xFF00, List.replicate n 0, { nan := n }⟩
def zeroGroup (n : Nat) (flush : Nat) : GroupOut := ⟨0, List.replicate n 0, { flush := flush }⟩

/-- A group whose scale lies above every scale: INF codes, each finite non-zero element counted in SAT (R150, R202). -/
def infScaleGroup (f : Nat) (xs : List Val) : GroupOut :=
  ⟨0xFE00, xs.map fun x => infCodeOf f (!x.isZero) x.neg,
    { sat := (xs.filter fun x => x.isFin && !x.isZero).length }⟩

/-- Apply R156 to R159 to the rounded elements of a group of a scaled target. `xs` the exact inputs, `noZero`: the
group has Parenthesis entries and never becomes a ZERO group. -/
def closeGroup (f sw : Nat) (xs : List Val) (es : List Elem) (noZero : Bool) : GroupOut :=
  let zp := if f = UINT4 then bits sw 0 4 else if f = UINT8 then 16 * bits sw 0 4 else 0
  let sats := (es.filter Elem.sat).length
  let infs := (xs.filter Val.isInf).length
  let nans := (xs.filter Val.isNan).length
  let n := xs.length
  let isZ := fun (e : Elem) => !e.sat && (if f = UINT4 ∨ f = UINT8 then e.v.rat == zp else e.v.isZero)
  if 0 < nans ∧ f ≠ E4M3 ∧ f ≠ E5M2 then nanGroup n
  else if 0 < nans ∧ f = E4M3 ∧ 0 < sats + infs then nanGroup n
  else if 0 < sats + infs ∧ f ≠ E5M2 then
    ⟨0xFE00, (List.zip xs es).map (fun p => infCodeOf f (p.2.sat || p.1.isInf) p.1.neg), { sat := sats }⟩
  else if !noZero && ((xs.all Val.isZero) || (f != INT2 && es.all isZ)) then
    zeroGroup n (xs.filter fun x => !x.isZero).length
  else
    ⟨sw, es.map fun e => elemCode f e.v,
      { sat := sats, nan := nans, flush := ((List.zip xs es).filter fun p => p.1.isFin && !p.1.isZero && isZ p.2).length }⟩

/-- encode_group of the spec: inputs after extraction, a normal scale word, element indices from `idx0`. -/
def encodeGroup (f sw : Nat) (xs : List Val) (rnd : Rnd) (idx0 : Nat) (noZero : Bool) : GroupOut :=
  let s := scaleOf sw
  let zp := if f = UINT4 then bits sw 0 4 else if f = UINT8 then 16 * bits sw 0 4 else 0
  let es := (xs.zipIdx).map fun p =>
    roundElem f zp (p.1.scale (1 / s)) (rnd.at_ (idx0 + p.2))
  closeGroup f sw xs es noZero

/-! ## Packing (R152) -/

/-- Element `i` of packed data. -/
def getElem (f : Nat) (bs : List Byte) (i : Nat) : Nat :=
  match fmtBits f with
  | 2 => bits (bs.getD (i / 4) 0#8).toNat (2 * (i % 4)) 2
  | 4 => bits (bs.getD (i / 2) 0#8).toNat (4 * (i % 2)) 4
  | 8 => (bs.getD i 0#8).toNat
  | _ => leAt bs (2 * i) 2

def packByte (w : Nat) (cs : List Nat) : Byte :=
  BitVec.ofNat 8 ((cs.zipIdx).foldl (fun a p => a + p.1 % 2 ^ w * 2 ^ (w * p.2)) 0)

/-- Pack element codes, the last byte filled with zero bits. -/
def packElems (f : Nat) (cs : List Nat) : List Byte :=
  match fmtBits f with
  | 2 => (pieces 4 cs).map (packByte 2)
  | 4 => (pieces 2 cs).map (packByte 4)
  | 8 => cs.map (BitVec.ofNat 8)
  | _ => cs.flatMap (leBytes 2)

/-- The first `n` element codes of packed data. -/
def unpackElems (f n : Nat) (bs : List Byte) : List Nat :=
  match fmtBits f with
  | 2 => (bs.flatMap fun b => [bits b.toNat 0 2, bits b.toNat 2 2, bits b.toNat 4 2, bits b.toNat 6 2]).take n
  | 4 => (bs.flatMap fun b => [bits b.toNat 0 4, bits b.toNat 4 4]).take n
  | 8 => (bs.map BitVec.toNat).take n
  | _ => ((pieces 2 bs).map leNat).take n

/-- Bytes of `n` elements. -/
def elemBytes (f n : Nat) : Nat := cdiv (n * fmtBits f) 8

end Sys2Proof.Machine
end

