-- ==== Sys2Proof/Machine/Operands.lean ====
section
/-! DEFINITION. The format checks of descriptor headers and bodies: which word offends (02 R78, R79, R842 and each opcode's own cases). -/
namespace Sys2Proof.Machine

/-- The smallest word among the cases that hold (R79). -/
def worst (l : List (Bool × Nat)) : Option Nat :=
  l.foldl (fun a p => if p.1 then some (match a with | some k => min k p.2 | none => p.2) else a) none

/-- Bits of a mask are set in word `k`. -/
def Inst.has (x : Inst) (k mask : Nat) : Bool := x.w k &&& mask != 0

/-- Reserved bits of words from `k` up, one mask per word. -/
def Inst.resv (x : Inst) (k : Nat) (masks : List Nat) : List (Bool × Nat) :=
  (masks.zipIdx).map fun p => (x.has (k + p.2) p.1, k + p.2)

def full : Nat := 0xFFFFFFFF

/-- A semaphore name is malformed: reserved unit, or an index that its unit kind does not have. -/
def badSem (unit index : Nat) : Bool := decide (36 ≤ unit) || decide (semCount unit ≤ index)

/-- A local operation names an I/O die that the device does not have. -/
def State.noDie (s : State) (unit : Nat) : Bool := decide (32 ≤ unit) && decide (s.ioDies ≤ unit - 32)

def Inst.waitMode (x : Inst) : Nat := x.f 2 20 2
def Inst.waitUnit (x : Inst) : Nat := x.f 2 13 6
def Inst.waitIndex (x : Inst) : Nat := x.f 2 0 13

/-- Header cases of R79. -/
def State.badHeader (s : State) (x : Inst) : List (Bool × Nat) :=
  [(x.opcode == 0 || decide (0x10 < x.opcode), 0), (x.has 0 0xC0008000, 0),
   (x.has 2 0xFFC80000 || x.waitMode == 3 || badSem x.waitUnit x.waitIndex || (x.waitMode != 0 && s.noDie x.waitUnit), 2),
   (x.has 4 0xFFE80000 || badSem x.sigUnit x.sigIndex || (x.sigOn && x.sigDev == s.devId && s.noDie x.sigUnit), 4),
   (x.sigOn && x.sigInc == 0, 0)]

/-- Where a basic descriptor finds an operand: a set that was off-loaded and prefetched lies in its staging place (R451). -/
def State.stagedBase (s : State) (x : Inst) (base : Nat) : Nat :=
  if x.expert then base
  else match (s.ctx x.ctx).ofl.find? fun o => o.base == base && o.fetch.isSome with
    | some o => (match o.fetch with | some p => p.2 | none => base)
    | none => base

/-! ## MOVE (R487, R493) -/

def Inst.moveKind (x : Inst) : Nat := x.f 6 14 2
def Inst.moveDiac (x : Inst) : Nat := x.f 6 16 2
def Inst.srcRing (x : Inst) : Bool := bit (x.w 6) 18
def Inst.dstRing (x : Inst) : Bool := bit (x.w 6) 19

/-- Format cases of a MOVE (R487, R493). A case names the smallest word of the fields that its text names: CARRY, RENEW, OUTSET,
TRANSPOSE and a ring stand in word 6 (R79, log entry 7). -/
def State.badMove (s : State) (x : Inst) : List (Bool × Nat) :=
  let kind := x.moveKind
  let diac := x.moveDiac
  let ring := x.srcRing || x.dstRing
  let eng := x.f 6 8 6
  let far := fun d => d != 0 && d != s.devId
  [(x.has 6 0x7FC00000 || kind == 3 || diac == 3 || (ring && kind != 0) || (kind == 1 && diac == 1) ||
      (kind == 2 && diac != 1) || (x.srcRing && far (x.f 8 16 16)) || (x.dstRing && far (x.f 10 16 16)) ||
      (diac == 1 && ((!x.srcRing && x.has 7 0x3FF) || (!x.dstRing && x.has 9 0x3FF) ||
        (kind == 0 && (x.w 12 != x.w 13 || x.w 14 != x.w 15)))) ||
      (diac == 2 && ((!x.dstRing && x.has 9 0x3FF) || decide (0x200000 ≤ x.w 15))) ||
      (kind == 2 && (!fmtScaled (x.f 12 20 4) || x.f 12 24 2 == 3 || x.f 12 0 20 % groupOf (x.f 12 24 2) != 0)) || (decide (32 ≤ eng) && decide (s.ioDies ≤ (eng - 32) / 8)), 6),
   (x.srcRing && x.has 7 0xFFFFF800, 7), (x.srcRing && x.w 8 != 0, 8),
   (x.dstRing && x.has 9 0xFFFFF800, 9), (x.dstRing && x.w 10 != 0, 10),
   (x.w 11 == 0 || (kind == 1 && (x.f 11 0 16 == 0 || x.f 11 16 16 == 0)) || (kind == 2 && (x.has 11 0xFF000000 || x.f 11 0 24 == 0)), 11),
   (kind == 2 && (x.has 12 0xF8000000 || x.f 12 0 20 == 0), 12),
   (kind == 2 && x.has 13 0xFFFFFC00, 13), (x.has 14 0xFF000000, 14), (x.has 15 0xFF000000 || (kind == 2 && x.w 15 != 0), 15)]

/-! ## GEMM (R287 to R290) -/

def Inst.gMode (x : Inst) : Nat := x.f 10 22 4
def Inst.gSparse (x : Inst) : Bool := bit (x.w 10) 26

/-- Output columns per load (R238). -/
def colsPerLoad (mode : Nat) (sparse : Bool) : Nat :=
  (if mode = 0 then 128 else if mode = 4 then 512 else 256) * (if sparse then 2 else 1)

def bf16PosNormal (c : Nat) : Bool := decide (0x80 ≤ c ∧ c < 0x7F80)

def Inst.badGemm (x : Inst) : List (Bool × Nat) :=
  let mode := x.gMode
  let k := x.f 10 0 20
  let bm := x.f 12 8 4
  let bn := x.f 12 12 4
  let pt := x.f 14 0 16
  let pw := x.f 14 16 16
  x.resv 6 [0x3F, 0, 0xFF000000, 0xFF000000, 0xE0000000, 0xFFFFFFF0, 0xFE0000E0, 0xFF000000, 0, 0xFF000000] ++
  [(x.w 8 == 0, 8), (x.w 9 == 0, 9), (k == 0 || decide (5 < mode), 10),
   (mode != 5 && (x.f 10 20 2 == 3 || k % groupOf (x.f 10 20 2) != 0), 10), (mode == 5 && k % 16 != 0, 10),
   (x.gSparse && decide (3 ≤ mode), 10), (decide (9 ≤ x.f 11 0 4), 11),
   (x.expert && (decide (bm < 4) || decide (8 < bm) || decide (bn < 7) || decide (9 < bn) || decide (16 < bm + bn) ||
      decide (2 ^ bn < colsPerLoad mode x.gSparse)), 12),
   (!x.expert && x.w 11 != 0, 11), (!x.expert && x.has 12 0xFE00FFFF, 12),
   (decide (x.f 15 0 24 < x.f 13 0 24 + x.f 8 0 24), 8),
   (if mode == 5 then !bf16PosNormal pt || !bf16PosNormal pw else x.w 14 != 0, 10)]

/-! ## QUANT (R187 to R191) -/

/-- The cases that do not depend on word 15 bits [21:0], then those that do (`q`). -/
def State.badQuant (s : State) (x : Inst) (q : Option Nat) : List (Bool × Nat) :=
  let sf := x.f 13 20 4
  let df := x.f 13 24 4
  let cols := x.f 13 0 20
  let sOutl := bit (x.w 15) 29
  [(x.has 8 0x3FF, 8), (x.f 10 0 24 == 0, 10),
   (decide (BF16 < sf) || decide (BF16 < df) || x.f 13 28 2 == 3 || (fmtScaled sf && x.f 13 30 2 == 3) || cols == 0 ||
      (fmtScaled sf && cols % groupOf (x.f 13 30 2) != 0) || (fmtScaled df && cols % groupOf (x.f 13 28 2) != 0), 13),
   (fmtScaled df && decide (0x200000 ≤ x.f 14 0 24), 13),
   (sOutl && (!fmtScaled sf || sf == UINT4 || sf == UINT8), 13),
   (x.f 11 16 16 == 0 && x.f 12 24 8 == 0, 11),
   (!fmtScaled df && x.w 15 &&& 0x3FFFDF != 0, 15),
   (!x.expert && x.has 15 0x1F3FFFFF, 15)] ++
  match q with
  | none => []
  | some q =>
    let mxSrc := bit q 7 && fmtScaled sf && (!s.isOwn (x.a64 6) || isHost (locOf (x.a64 6))) &&
      (x.f 13 30 2 != 0 || (sf != E2M1 && sf != E4M3 && sf != E5M2))
    (mxSrc, 13) :: if !fmtScaled df then []
    else
      let t := bits q 12 7
      [(bits q 0 2 == 3 || decide (t < 4) || decide (64 < t), 15),
       ((df == UINT4 || df == UINT8) && (bits q 0 2 != 2 || bit q 4), 13),
       (bit q 2 && bits q 0 2 == 0, 15)] ++
      (if bit q 7 then
        [(s.isOwn (x.a64 8) && !isHost (locOf (x.a64 8)), 8),
         (x.f 13 28 2 != 0 || (df != E2M1 && df != E4M3 && df != E5M2), 13),
         (!bit q 2 || bit q 4, 15)]
       else [])

/-! ## FENCE, PLAN, DUMP (R89, R116, R506) -/

def Inst.badFence (x : Inst) : List (Bool × Nat) := x.resv 6 (List.replicate 10 full)

def Inst.badPlan (x : Inst) : List (Bool × Nat) :=
  x.resv 6 ([0x3F, 0, 0xFFFFFE00, 0] ++ List.replicate 6 full) ++ [(decide (256 < x.f 8 0 9) || x.f 8 0 9 == 0, 8)]

def Inst.badDump (x : Inst) : List (Bool × Nat) := x.resv 6 ([0xFFFFFFFE, 0x3F, 0, 0] ++ List.replicate 6 full)

/-! ## SEM (R466, R468) -/

def Inst.sop (x : Inst) : Nat := x.f 6 0 3
def Inst.semUnit (x : Inst) : Nat := x.f 7 13 6
def Inst.semIndex (x : Inst) : Nat := x.f 7 0 13
def Inst.semDev (x : Inst) : Nat := x.f 8 0 16

/-- A queue number that names a queue of the device (R455). -/
def State.queueOk (s : State) (q : Nat) : Bool :=
  decide (q < 0xEF) && !(decide (0xC8 ≤ q) && decide (q < 0xE8) && decide (s.ioDies ≤ (q - 0xC8) / 8))

def State.badSemDesc (s : State) (x : Inst) : List (Bool × Nat) :=
  let sop := x.sop
  let loc := x.semDev == s.devId
  x.resv 6 ([0xFFFFF000, 0xFFF80000, 0xFFFF0000, 0, 3, 0] ++ List.replicate 4 full) ++
  [(sop == 7 || !s.queueOk (x.f 6 4 8), 6), (sop < 2 && x.w 9 == 0, 6),
   ((sop == 2 || sop == 3 || sop == 6) && !loc, 6), (!loc && !s.isMember x.ctx x.semDev, 8),
   (sop == 4 && !x.expert, 0), (sop == 0 && bit (x.w 6) 3 && !loc && decide (65535 < x.w 9), 6),
   (sop == 5 && x.a64 10 != 0 && !s.isOwn (x.a64 10), 6), (decide (5 ≤ sop) && x.w 9 != 0, 9),
   (if sop = 6 then decide (32 ≤ x.semUnit) || decide (64 ≤ x.semIndex)
    else badSem x.semUnit x.semIndex || (loc && s.noDie x.semUnit), 7)]

end Sys2Proof.Machine
end

