-- ==== Sys2Proof/Machine/Outset.lean ====
section
/-! DEFINITION. Output sets: layout, decoding with Parenthesis and promoted groups, and the quantiser's stages (04 R184 to R224; 03 R176, R179 to R181). -/
namespace Sys2Proof.Machine

def up1k (n : Nat) : Nat := cdiv n 1024 * 1024

/-- An output set (R192). `half`: a 2:4 sparse DATA region (R243); `mx`: E8M0 scale bytes (R179). -/
structure OSet where
  base : Nat
  rows : Nat
  cols : Nat
  fmt : Nat
  gs : Nat
  half : Bool
  outl : Bool
  hist : Bool
  lscale : Bool
  mx : Bool
  cap : Nat
  promo : Nat
  sliceRows : Nat
  tid : Nat
deriving DecidableEq, Repr

namespace OSet
variable (o : OSet)

def scaled : Bool := fmtScaled o.fmt
def g : Nat := groupOf o.gs
def ng : Nat := o.cols / o.g
def ns : Nat := cdiv o.rows o.sliceRows
/-- C_S: Parenthesis entries of a slice. -/
def cs : Nat := o.cap / max 1 o.ns
/-- Bytes of a group, and of a scale. -/
def gb : Nat := elemBytes o.fmt (if o.half then o.g / 2 else o.g)
def sb : Nat := if o.mx then 1 else 2
def groups : Nat := o.rows * o.ng
def dataLen : Nat := elemBytes o.fmt (if o.half then o.rows * o.cols / 2 else o.rows * o.cols)

/-- Region sizes in order: DATA, SCALES, PLIST, PROMO, SDIR, HIST, LSCALE. -/
def sizes : List Nat :=
  [o.dataLen, if o.scaled then o.groups * o.sb else 0, if o.outl then o.ns * o.cs * 4 else 0,
   if o.outl then o.ns * o.promo * (16 + o.g) else 0, if o.scaled then o.ns * 16 else 0,
   if o.hist then o.ns * o.ng * 64 else 0, if o.lscale then o.groups * 2 else 0]

/-- Address of region `k`, and the end of the set. -/
def off (k : Nat) : Nat := o.base + ((o.sizes.take k).map up1k).sum
def len (k : Nat) : Nat := o.sizes.getD k 0
def end_ : Nat := o.off 7

/-- Tensor ID of side region `k` (R192). -/
def sideTid (k : Nat) : Nat := setBits o.tid 21 3 (k - 1)

/-- DATA granule `i` with its scale block. -/
def dataGran (i op : Nat) : Gran :=
  if o.scaled then
    let gpg := 1024 / o.gb
    let real := min gpg (o.groups - i * gpg)
    ⟨o.off 0 + 1024 * i, o.off 1 + o.sb * (i * gpg), o.sb * real, o.sb * (gpg - real), o.tid, i, op⟩
  else plainGran (o.off 0 + 1024 * i) o.tid i op

/-- Granules of a side region that hold bytes [b, b + n). -/
def sideGrans (k b n op : Nat) : List Gran :=
  if n = 0 then [] else (upto (b / 1024) ((b + n - 1) / 1024 + 1 - b / 1024)).map fun i => plainGran (o.off k + 1024 * i) (o.sideTid k) i op

/-- DATA granules that hold bytes [b, b + n). -/
def dataGrans (b n op : Nat) : List Gran :=
  if n = 0 then [] else (upto (b / 1024) ((b + n - 1) / 1024 + 1 - b / 1024)).map fun i => o.dataGran i op

/-- Rows of slice `i`: first row and count. -/
def sliceSpan (i : Nat) : Nat × Nat := (o.sliceRows * i, min o.sliceRows (o.rows - o.sliceRows * i))

end OSet

/-! ## Reading -/

/-- Elements read: exact values, counts that reading makes (FLUSH, SAT of an MX import), codes and scale word where the
elements are one whole group as stored, and the exponent of a special group that the target must be written as: an
imported MX group (R180), or a NaN group where a rotated input is not finite (R199). -/
structure GroupIn where
  vals : List Val
  cnt : Counters
  sw : Nat
  codes : List Nat
  special : Option Nat
deriving DecidableEq, Repr

/-- Values that are no stored group. -/
def GroupIn.of (vals : List Val) (cnt : Counters) : GroupIn := ⟨vals, cnt, 0x10000, [], none⟩

/-- The scale word of stored group `gi`; an E8M0 byte is imported per R180. -/
def State.scaleWord (s : State) (x : Inst) (o : OSet) (gi : Nat) : Nat :=
  if !o.scaled then 0x7F00
  else if o.mx then 256 * leNat (s.rdx x (o.off 1 + gi) 1)
  else leNat (s.rdx x (o.off 1 + 2 * gi) 2)

/-- The stored codes of group `gi`. -/
def State.groupCodes (s : State) (x : Inst) (o : OSet) (gi : Nat) : List Nat :=
  unpackElems o.fmt (if o.half then o.g / 2 else o.g) (s.rdx x (o.off 0 + o.gb * gi) o.gb)

/-- The scale word as a reader takes it: a TERN code 0b11 poisons its group exactly as an exponent of 0xFF would (R139). -/
def State.groupWord (s : State) (x : Inst) (o : OSet) (gi : Nat) : Nat :=
  if o.fmt = TERN ∧ (s.groupCodes x o gi).contains 3 then 0xFF00 else s.scaleWord x o gi

/-- Counts of reading codes under a scale word (R142, R180). -/
def readCounts (o : OSet) (sw : Nat) (cs : List Nat) : Counters :=
  let e := sw / 256
  let some_ := (cs.filter fun c => !codeMagZero o.fmt c).length
  if fmt16 o.fmt then { flush := (cs.filter (isSubnormal o.fmt)).length }
  else if o.mx && e == 0 then { flush := some_ }
  else if o.mx && e == 0xFE then { sat := some_ }
  else if e = 0 ∨ 0xFE ≤ e then {}
  else { flush := (cs.filter (isSubnormal o.fmt)).length }

/-- O field of a scale word: none in a special group or an asymmetric format (R144, R147). -/
def ofield (fmt sw : Nat) : Nat :=
  if fmt = UINT4 ∨ fmt = UINT8 ∨ sw / 256 = 0 ∨ 0xFE ≤ sw / 256 then 0 else sw % 16

/-- INT2 elements where only DATA and SCALES are read: an extracted slot reads as zero, and which elements of code 0b00 are
extracted slots is free (R848; log entry 73). -/
def int2Slots (o : OSet) (gi sw : Nat) (cs : List Nat) (vs : List Val) : List Val :=
  if o.fmt = INT2 ∧ !o.outl ∧ ofield o.fmt sw ≠ 0 then
    ((List.zip cs vs).zipIdx).map fun p => if p.1.1 = 0 ∧ Config.int2Slot (o.off 0 + o.gb * gi) p.2 then .zero else p.1.2
  else vs

/-- Stored group `gi` of a dense scaled set, or `G` elements of an unscaled one. -/
def State.readGroup (s : State) (x : Inst) (o : OSet) (gi : Nat) : GroupIn :=
  let cs := s.groupCodes x o gi
  let sw := s.groupWord x o gi
  let e := sw / 256
  ⟨int2Slots o gi sw cs (cs.map (decode o.fmt sw)), readCounts o sw cs, sw,
    if o.fmt = TERN ∧ e = 0xFF then cs.map fun _ => 0 else cs, if o.mx ∧ (e = 0 ∨ 0xFE ≤ e) then some e else none⟩

/-- Parenthesis entries and promoted groups of one slice, by group index within the slice. -/
structure Side where
  ents : List (Nat × List Nat)
  promo : List (Nat × Nat × List Nat)
deriving DecidableEq, Repr

def Side.nil : Side := ⟨[], []⟩

/-- Deal consecutive entry words to groups by their O fields (R220). -/
def dealEnts : List (Nat × Nat) → List Nat → List (Nat × List Nat)
  | [], _ => []
  | (k, n) :: t, ws => if n = 0 then dealEnts t ws else (k, ws.take n) :: dealEnts t (ws.drop n)

/-- The side structures of slice `i`, located by R192, R220 and R221. -/
def State.readSide (s : State) (x : Inst) (o : OSet) (i : Nat) : Side :=
  if !o.outl then Side.nil
  else
    let (r0, n) := o.sliceSpan i
    let os := (List.range (n * o.ng)).map fun k => (k, ofield o.fmt (s.groupWord x o (r0 * o.ng + k)))
    let tot := min o.cs (os.map Prod.snd).sum
    let ws := (toWords (s.rdx x (o.off 2 + 4 * o.cs * i) (4 * tot))).map BitVec.toNat
    let used := min o.promo (leNat (s.rdx x (o.off 4 + 16 * i + 4) 4) % 8192)
    let pr := (List.range used).map fun j =>
      let b := s.rdx x (o.off 3 + (i * o.promo + j) * (16 + o.g)) (16 + o.g)
      (leAt b 0 4, leAt b 4 2, (b.drop 16).map BitVec.toNat)
    ⟨dealEnts os ws, pr⟩

def sideAt (l : List (Nat × Side)) (i : Nat) : Side := match l.find? fun p => p.1 == i with | some p => p.2 | none => Side.nil

/-- Entries before group `k0` of a slice, and entries of its groups `k0` to `k0 + n - 1` (R220). -/
def Side.entSpan (d : Side) (k0 n : Nat) : Nat × Nat :=
  let len := fun (l : List (Nat × List Nat)) => (l.map fun e => e.2.length).sum
  (len (d.ents.filter fun e => decide (e.1 < k0)), len (d.ents.filter fun e => decide (k0 ≤ e.1) && decide (e.1 < k0 + n)))

/-- Side bytes read for groups `k0` to `k0 + n - 1` of slice `i`, as granules and as ranges: their entries, and the SDIR entry
with the PROMO entries in use, which are searched (R220 to R222). -/
def OSet.sideUse (o : OSet) (i op : Nat) (d : Side) (k0 n : Nat) : List Gran × List (Nat × Nat) :=
  if !o.outl then ([], [])
  else
    let e := d.entSpan k0 n
    let pl := (4 * (o.cs * i + e.1), 4 * e.2)
    let pr := (i * o.promo * (16 + o.g), d.promo.length * (16 + o.g))
    let sd := (16 * i, 16)
    (o.sideGrans 2 pl.1 pl.2 op ++ o.sideGrans 3 pr.1 pr.2 op ++ o.sideGrans 4 sd.1 sd.2 op,
      [(o.off 2 + pl.1, pl.2), (o.off 3 + pr.1, pr.2), (o.off 4 + sd.1, sd.2)])

namespace OSet
variable (o : OSet)
/-- Groups of a whole slice; slice and place within it of group `gi`. -/
def perSlice : Nat := max 1 (o.sliceRows * o.ng)
def slotOf (gi : Nat) : Nat × Nat := (gi / o.perSlice, gi % o.perSlice)
/-- Groups that elements [e0, e0 + n) touch. -/
def groupsOf (e0 n : Nat) : List Nat := if n = 0 then [] else upto (e0 / o.g) ((e0 + n - 1) / o.g + 1 - e0 / o.g)

/-- Side bytes that elements [e0, e0 + n) need. -/
def elemSides (sides : List (Nat × Side)) (e0 n op : Nat) : List Gran × List (Nat × Nat) :=
  if !o.outl ∨ n = 0 then ([], [])
  else
    let g0 := e0 / o.g
    let g1 := (e0 + n - 1) / o.g + 1
    let us := (upto (g0 / o.perSlice) ((g1 - 1) / o.perSlice + 1 - g0 / o.perSlice)).map fun i =>
      let k0 := g0 - o.perSlice * i
      o.sideUse i op (sideAt sides i) k0 (min o.perSlice (g1 - o.perSlice * i) - k0)
    (us.flatMap Prod.fst, us.flatMap Prod.snd)
end OSet

def entVal (w : Nat) : Val := decodeFloat (floatFmt BF16) (w % 65536)
def entIx (w : Nat) : Nat := bits w 16 7
def entTag (w : Nat) : Nat := bits w 24 8

def Side.promoted (d : Side) (k : Nat) : Option (Nat × List Nat) := (d.promo.find? fun p => p.1 == k).map Prod.snd
def Side.entsOf (d : Side) (k : Nat) : List Nat := match d.ents.find? fun e => e.1 == k with | some e => e.2 | none => []

/-- The first of the groups that elements [e0, e0 + n) touch whose entry carries another group's GTAG: the data granule that it
was paired with (R229, R232). -/
def OSet.skewIn (o : OSet) (sides : List (Nat × Side)) (e0 n op : Nat) : Option Gran :=
  if !o.outl then none
  else ((o.groupsOf e0 n).find? fun gi =>
      let p := o.slotOf gi
      ((sideAt sides p.1).entsOf p.2).any fun w => entTag w != p.2 % 256).map fun gi => o.dataGran (gi * o.gb / 1024) op

/-- Group `gi` decoded in full: Parenthesis values back in their slots, a promoted group from its entry (R848). -/
def State.readFull (s : State) (x : Inst) (o : OSet) (d : Side) (gi : Nat) : GroupIn :=
  let k := (o.slotOf gi).2
  match d.promoted k with
  | some (sw, cs) => .of (decodeGroup E4M3 sw cs) { flush := if sw / 256 = 0 ∨ 0xFE ≤ sw / 256 then 0 else (cs.filter (isSubnormal E4M3)).length }
  | none =>
    let r := s.readGroup x o gi
    let es := d.entsOf k
    if es.isEmpty then r
    else
      .of ((r.vals.zipIdx).map fun p => (match es.find? fun w => entIx w == p.2 with | some w => entVal w | none => p.1))
        (r.cnt.add { flush := (es.filter fun w => isSubnormal BF16 (w % 65536)).length })

/-- `n` elements from element `e0` (row-major) of a set; a whole stored group keeps its codes. -/
def State.readElems (s : State) (x : Inst) (o : OSet) (d : Side) (e0 n : Nat) : GroupIn :=
  if o.scaled then
    if n = o.g then s.readFull x o d (e0 / o.g)
    else if n < o.g then
      let r := s.readFull x o d (e0 / o.g)
      let k := e0 % o.g
      let sub := s.groupCodes x o (e0 / o.g)
      { GroupIn.of ((r.vals.drop k).take n) (if r.sw = 0x10000 then r.cnt else readCounts o r.sw ((sub.drop k).take n)) with special := r.special }
    else
      let rs := (List.range (n / o.g)).map fun j => s.readFull x o d (e0 / o.g + j)
      .of (rs.flatMap GroupIn.vals) (sumCnt (rs.map GroupIn.cnt))
  else
    let cs := unpackElems o.fmt n (s.rdx x (o.off 0 + elemBytes o.fmt e0) (elemBytes o.fmt n))
    .of (cs.map fun c => decodeFloat (floatFmt o.fmt) c) { flush := (cs.filter (isSubnormal o.fmt)).length }

/-- Data and scale bytes of elements [e0, e0 + n): granules to check and ranges consumed. -/
def OSet.elemUse (o : OSet) (e0 n op : Nat) : List Gran × List (Nat × Nat) :=
  if o.scaled then
    let g0 := e0 / o.g
    let k := (e0 + n - 1) / o.g + 1 - g0
    (o.dataGrans (o.gb * g0) (o.gb * k) op, [(o.off 0 + o.gb * g0, o.gb * k), (o.off 1 + o.sb * g0, o.sb * k)])
  else
    (o.dataGrans (elemBytes o.fmt e0) (elemBytes o.fmt n) op, [(o.off 0 + elemBytes o.fmt e0, elemBytes o.fmt n)])

/-! ## Rotation (R197 to R199) -/

def rotNeg (seed rotId k : Nat) : Bool := bit (feistel (feCounter rotId 0 2 k 0) seed) 0

/-- Sylvester Hadamard transform, unscaled. -/
def hada : Nat → List Rat → List Rat
  | 0, l => l
  | n + 1, l =>
    let h := l.length / 2
    hada n (List.zipWith (· + ·) (l.take h) (l.drop h)) ++ hada n (List.zipWith (· - ·) (l.take h) (l.drop h))

/-- The rotated group; `k0` is the reduction column of its first element. -/
def rotate (seed rotId k0 : Nat) (rside : Bool) (xs : List Rat) : List Rat :=
  let n := Nat.log2 xs.length
  let a := if rside then cdiv n 2 else n / 2
  (hada n ((xs.zipIdx).map fun p => if rotNeg seed rotId (k0 + p.2) then -p.1 else p.1)).map fun y => y / (2 ^ a : Nat)

/-! ## Scales of a group (R203 to R214) -/

inductive Pick where
  | word (sw : Nat)
  | above
  | const (sw code : Nat)
deriving DecidableEq, Repr

def ratMax (l : List Rat) : Rat := l.foldl (fun a b => if a < b then b else a) 0
def ratMin (l : List Rat) : Rat := l.foldl (fun a b => if b < a then b else a) 0

/-- Largest finite magnitude of a group. -/
def amaxOf (xs : List Val) : Rat := ratMax (xs.map Val.mag)

/-- The CURRENT scale of the remaining elements of a group with `o` Parenthesis entries; a power-of-two scale keeps
F = 0, so R214 is left out under POW2 (log entry 30). -/
def currentPick (f : Nat) (pow2only : Bool) (xs : List Val) (o : Nat) : Pick :=
  let vs := (xs.filter Val.isFin).map Val.rat
  let c := vs.headD 0
  let isConst := xs.all Val.isFin && !pow2only && c != 0 && vs.all (· == c)
  let mag := if c < 0 then -c else c
  if f = UINT4 ∨ f = UINT8 then
    let top := if f = UINT4 then 15 else 255
    if isConst then
      match scaleRn (if c < 0 then mag / (if f = UINT4 then 15 else 240) else mag / (top : Nat)) with
      | none => .above
      | some sw => if c < 0 then .const (sw + 15) 0 else .const sw top
    else
      let lo := ratMin vs
      let hi := ratMax vs
      match scaleUp pow2only ((hi - lo) / (if f = UINT4 then 14 else 239 : Nat)) with
      | none => .above
      | some sw => .word (sw + ((-lo) / (scaleOf sw * (if f = UINT4 then 1 else 16 : Nat))).ceil.toNat)
  else if isConst then
    match scaleRn (mag / qmax f) with
    | none => .above
    | some sw => .const sw (elemCode f (.fin (decide (c < 0)) (qmax f)))
  else
    match scaleUp pow2only (amaxOf xs / qmax f) with
    | none => .above
    | some sw => .word (sw + o)

/-- A group whose scale is above every scale, or LEARNED zero: NaN wins over INF, INF over ZERO (R157). -/
def aboveGroup (f : Nat) (xs : List Val) : GroupOut :=
  if xs.any Val.isNan then nanGroup xs.length else infScaleGroup f xs

def zeroScaleGroup (f : Nat) (xs : List Val) : GroupOut :=
  if xs.any Val.isNan then nanGroup xs.length
  else if xs.any Val.isInf then ⟨0xFE00, xs.map fun v => infCodeOf f v.isInf v.neg, {}⟩
  else zeroGroup xs.length (xs.filter fun v => !v.isZero).length

def encodePick (f : Nat) (p : Pick) (xs : List Val) (rnd : Rnd) (e0 : Nat) (noZero : Bool) : GroupOut :=
  match p with
  | .word sw => encodeGroup f sw xs rnd e0 noZero
  | .above => aboveGroup f xs
  | .const sw c => ⟨sw, xs.map fun _ => c, {}⟩

def encodeCurrent (f : Nat) (pow2only : Bool) (xs : List Val) (rnd : Rnd) (e0 o : Nat) : GroupOut :=
  encodePick f (currentPick f pow2only xs o) xs rnd e0 (o != 0)

/-! ## The quantiser (R184) -/

/-- How a tensor is quantised: the destination set, scale source (0 LEARNED, 1 DELAYED, 2 CURRENT) and options. -/
structure QCfg where
  o : OSet
  src : Nat
  pow2 : Bool
  rot : Bool
  rescue : Bool
  rside : Bool
  lm1 : Nat
  t : Nat
  margin : Nat
  rotId : Nat
  rnd : Rnd
  seed : Nat
  step : Nat
deriving DecidableEq, Repr

/-- The fields of QUANT word 15 bits [21:0], with the destination and the recipe entry (R187, R188). -/
def mkQCfg (q : Nat) (e : Entry) (base rows cols fmt gs tid : Nat) (rnd : Bool) (seed step : Nat) : QCfg :=
  let sc := fmtScaled fmt
  { o := { base := base, rows := rows, cols := cols, fmt := fmt, gs := gs, half := false, outl := sc && bit q 4,
           hist := sc && bits q 0 2 == 1, lscale := sc && bits q 0 2 == 0, mx := sc && bit q 7, cap := e.cap,
           promo := e.promo, sliceRows := e.sliceRows, tid := tid },
    src := if sc then bits q 0 2 else 2, pow2 := bit q 2, rot := bit q 3, rescue := bit q 6, rside := bit q 21,
    lm1 := bits q 8 4, t := bits q 12 7, margin := bits q 19 2, rotId := e.rotId,
    rnd := ⟨rnd, seed, tid, step⟩, seed := seed, step := step }

/-- A group as written: scale word, codes, counts, Parenthesis entries, PROMO entry, OVF, amax of the elements that
were no candidates (R209), and whether it is a copy (R176). -/
structure QGroup where
  sw : Nat
  codes : List Nat
  cnt : Counters
  ents : List Nat
  promo : List Byte
  ovf : Bool
  amax : Option Rat
  copied : Bool
deriving DecidableEq, Repr

/-- Stable descending order of candidates by magnitude (R216). -/
def insCand (p : Nat × Rat) : List (Nat × Rat) → List (Nat × Rat)
  | [] => [p]
  | q :: t => if q.2 < p.2 then p :: q :: t else q :: insCand p t

/-- Candidates of a finite group (R215). -/
def candidates (t : Nat) (xs : List Rat) : List Nat :=
  let tot := (xs.map fun v => v * v).sum
  let n : Rat := ((xs.length - 1 : Nat) : Rat)
  ((xs.zipIdx).filter fun p => decide (((t * t : Nat) : Rat) * (tot - p.1 * p.1) < p.1 * p.1 * n)).map Prod.snd

/-- H of R206 from the 16 HIST entries of a group's slice and column: none when no entry is valid. -/
def histMaxOf (es : List Nat) (step l : Nat) : Option Val :=
  (List.range l).foldl (fun a k =>
    if step < k + 1 then a
    else
      let t := step - (k + 1)
      let e := es.getD (t % 16) 0
      let v := decodeFloat (floatFmt BF16) (e % 65536)
      if e / 65536 = t % 65536 ∧ !v.isNan ∧ !v.isZero ∧ !v.neg then
        match a with
        | some (.fin _ m) => if v.isInf || decide (m < v.mag) then some v else a
        | some w => some w
        | none => some v
      else a) none

/-- A group that its source makes special: an MX import, or a rotated group with a non-finite input (R180, R199). -/
def specialGroup (f e : Nat) (r : GroupIn) : QGroup :=
  let n := r.vals.length
  if e = 0xFF then ⟨0xFF00, List.replicate n 0, { nan := n }, [], [], false, none, false⟩
  else if e = 0xFE then ⟨0xFE00, r.vals.map fun v => infCodeOf f v.isInf v.neg, r.cnt, [], [], false, none, false⟩
  else ⟨0, List.replicate n 0, r.cnt, [], [], false, some 0, false⟩

/-- Stages 4 to 6 with the elements `taken` extracted: the group, and the scale word that was chosen for it (R201 to R214). -/
def encodeRest (c : QCfg) (xs : List Val) (taken : List Nat) (e0 : Nat) (hist : List Nat) (lsc : Nat) : GroupOut × Option Nat :=
  let f := c.o.fmt
  let o := taken.length
  let rem := (xs.zipIdx).map fun p => if taken.contains p.2 then .zero else p.1
  let pk := currentPick f c.pow2 rem o
  let cur := (encodePick f pk rem c.rnd e0 (o != 0), match pk with | .word sw => some sw | .const sw _ => some sw | .above => none)
  let withWord := fun sw =>
    let t := (scaleOf sw)⁻¹
    let overs := (rem.zipIdx.filter fun p => p.1.isFin && (roundElem f 0 (p.1.scale t) (c.rnd.at_ (e0 + p.2))).sat).length
    if c.rescue ∧ 0 < overs then ({ cur.1 with cnt := cur.1.cnt.add { sat := overs } }, cur.2)
    else (encodeGroup f (sw + o) rem c.rnd e0 (o != 0), some (sw + o))
  if o ≠ 0 ∧ rem.all Val.isZero then withWord 0x0100
  else if c.src = 1 then
    match histMaxOf hist c.step (c.lm1 + 1) with
    | none => cur
    | some (.fin _ m) =>
      (match scaleUp c.pow2 (m * (2 ^ c.margin : Nat) / qmax f) with | some sw => withWord sw | none => (aboveGroup f rem, none))
    | some _ => (aboveGroup f rem, none)
  else if c.src = 0 then
    let sw := scaleOfBf16 lsc
    if sw = 0xFF00 then (nanGroup xs.length, none) else if sw = 0xFE00 then (aboveGroup f rem, none)
    else if sw = 0 then (zeroScaleGroup f rem, none)
    else withWord sw
  else cur

/-- A scale word of a ZERO, INF or NaN group. -/
def specialWord (sw : Nat) : Bool := decide (sw / 256 = 0) || decide (0xFE ≤ sw / 256)

/-- Stages 1 to 6 for one group. `gi` group of the tensor, `gk` within its slice, `room` free PLIST entries, `more`
a free PROMO entry, `hist` its HIST entries, `lsc` its LSCALE master. A group that its scale or an overflow makes ZERO, INF or
NaN holds no entry (R159, R160): its extraction set goes back into it before it is encoded (DESIGN CHOICE, log entry 73). -/
def quantGroup (c : QCfg) (r : GroupIn) (sameFmt : Bool) (gi gk room : Nat) (more : Bool) (hist : List Nat) (lsc : Nat) : QGroup :=
  let g := c.o.g
  let f := c.o.fmt
  let e0 := gi * g
  let finite := r.vals.all Val.isFin
  match (if c.rot ∧ !finite then some 0xFF else r.special) with
  | some e => specialGroup f e r
  | none =>
    let xs := if c.rot then (rotate c.seed c.rotId (e0 % max 1 c.o.cols) c.rside (r.vals.map Val.rat)).map Val.ofRat else r.vals
    let cand := if c.o.outl && finite then candidates c.t (xs.map Val.rat) else []
    let ext := (((cand.map fun i => (i, (xs.getD i .zero).mag)).foldl (fun l p => insCand p l) []).take 15).map Prod.fst
    let amax := if finite then some (ratMax ((xs.zipIdx.filter fun p => !cand.contains p.2).map fun p => p.1.mag)) else some (amaxOf xs)
    let take := ext.length ≤ room
    if ext ≠ [] ∧ ¬take ∧ (f = E2M1 ∨ f = INT4 ∨ f = INT2 ∨ f = TERN) ∧ more then
      let p := encodePick E4M3 (match scaleUp c.pow2 (amaxOf xs / 448) with | some sw => .word sw | none => .above) xs c.rnd e0 false
      ⟨0, List.replicate g 0, (r.cnt.add p.cnt).add { promo := 1 }, [],
        leBytes 4 gk ++ leBytes 4 p.sw ++ leBytes 8 0 ++ p.codes.map (BitVec.ofNat 8), false, amax, false⟩
    else
      let ovf := ext ≠ [] ∧ ¬take
      let ext' := if take then ext else []
      let first := encodeRest c xs ext' e0 hist lsc
      let taken := if specialWord first.1.sw then [] else ext'
      let out := if taken = ext' then first else encodeRest c xs [] e0 hist lsc
      let amax := if 0xFE ≤ out.1.sw / 256 then none else amax
      let n := if ovf then 1 else 0
      if sameFmt ∧ !c.rot ∧ ext = [] ∧ (out.2 = some r.sw ∨ out.1.sw = r.sw) ∧ (c.o.mx → !specialWord r.sw) then
        ⟨r.sw, r.codes, { ovf := n }, [], [], ovf, amax, true⟩
      else
        let en := taken.map fun i =>
          let v := to16 BF16 (xs.getD i .zero) none
          (v.1 + i * 2 ^ 16 + gk % 256 * 2 ^ 24, v.2)
        let cin := if 0xFE ≤ out.1.sw / 256 then { r.cnt with flush := 0 } else r.cnt
        ⟨out.1.sw, out.1.codes, ((cin.add out.1.cnt).add (sumCnt (en.map Prod.snd))).add { outl := en.length, ovf := n },
          en.map Prod.fst, [], ovf, amax, false⟩

/-- One slice's result: its groups in order, and its use of the side regions. -/
structure QSlice where
  gs : List (Nat × QGroup)
  used : Nat
  promo : Nat
  ovf : Nat
deriving DecidableEq, Repr

/-- Quantise slice `i` in ascending group index (R217). `read` gives the source elements of a group. -/
def quantSlice (c : QCfg) (read : Nat → GroupIn) (sameFmt : Bool) (hist : Nat → List Nat) (lsc : Nat → Nat) (i : Nat) : QSlice :=
  let (r0, n) := c.o.sliceSpan i
  (List.range (n * c.o.ng)).foldl (fun q k =>
    let gi := r0 * c.o.ng + k
    let a := quantGroup c (read gi) sameFmt gi k (c.o.cs - q.used) (decide (q.promo < c.o.promo)) (hist (k % max 1 c.o.ng)) (lsc gi)
    ⟨q.gs ++ [(gi, a)], q.used + a.ents.length, q.promo + (if a.promo.isEmpty then 0 else 1), q.ovf + (if a.ovf then 1 else 0)⟩)
    ⟨[], 0, 0, 0⟩

/-- HIST entries (16 words) of slice `i`, column `col`. -/
def State.histEntries (s : State) (x : Inst) (o : OSet) (i col : Nat) : List Nat :=
  (toWords (s.rdx x (o.off 5 + (i * o.ng + col) * 64) 64)).map BitVec.toNat

/-- MX form of a written group: E8M0 byte, codes, NAN count (R181). -/
def mxGroup (f : Nat) (a : QGroup) : Nat × List Nat × Nat :=
  let e := a.sw / 256
  let z := a.codes.map fun _ => 0
  if e = 0 then (0, z, 0)
  else if e = 0xFE ∧ f = E5M2 then (0x7F, a.codes.map fun c => (if bits c 0 7 = 0 then c else 0x7C + c / 128 * 128), 0)
  else if 0xFE ≤ e then (0xFF, z, a.codes.length)
  else if a.sw % 256 = 0 then (e, a.codes, 0)
  else (0xFF, z, a.codes.length)

/-- What stands in SCALES and DATA for a group, and its counts. An element that the export makes NaN counts in NAN only, where
it also overflowed (R162, R181; log entry 73). -/
def QGroup.stored (o : OSet) (a : QGroup) : Nat × List Nat × Counters :=
  if o.mx then
    let m := mxGroup o.fmt a
    (m.1, m.2.1, if m.2.2 = 0 then a.cnt else { a.cnt with nan := m.2.2, sat := 0, flush := 0 })
  else (a.sw, a.codes, a.cnt)

/-- The HIST entry after a step (R207, R209). -/
def histUpdate (old step : Nat) (m : Rat) : Nat :=
  let new := bf16Up m
  let v := if old / 65536 = step % 65536 ∧ new < old % 65536 then old % 65536 else new
  v + step % 65536 * 65536

/-- Value of a written group with its Parenthesis and promoted elements. -/
def QGroup.vals (f : Nat) (a : QGroup) : List Val :=
  if !a.promo.isEmpty then decodeGroup E4M3 (leAt a.promo 4 4) ((a.promo.drop 16).map BitVec.toNat)
  else (decodeGroup f a.sw a.codes).zipIdx.map fun q => match a.ents.find? fun w => entIx w == q.2 with | some w => entVal w | none => q.1

/-- Pieces that write the groups of a slice: data, scale, Parenthesis entries and PROMO entry of each group; the last
group of the tensor also writes the zero tail of the last granule (R155). -/
def sliceChunks (c : QCfg) (i : Nat) (q : QSlice) (input : Nat → List Gran × List (Nat × Nat)) : List Chunk :=
  let o := c.o
  (q.gs.foldl (fun (st : List Chunk × Nat × Nat) p =>
    let (acc, e, m) := st
    let (gi, a) := p
    let (sb, codes, cnt) := a.stored o
    let b := packElems o.fmt codes
    let at_ := o.off 0 + o.gb * gi
    let tail := if gi + 1 = o.groups then List.replicate (up1k o.dataLen - o.dataLen) 0#8 else []
    let pe := (i * o.promo + m) * (16 + o.g)
    let le := 4 * (o.cs * i + e)
    let inp := input gi
    let ch : Chunk :=
      { need := inp.1, use := inp.2,
        outs := [⟨at_, b ++ tail, at_ / 1024⟩, ⟨o.off 1 + o.sb * gi, leBytes o.sb sb, at_ / 1024⟩] ++
          outAt (o.off 2 + le) (a.ents.flatMap (leBytes 4)) ++ outAt (o.off 3 + pe) a.promo,
        ren := o.dataGrans (o.gb * gi) o.gb 0 ++ o.sideGrans 2 le (4 * a.ents.length) 0 ++ o.sideGrans 3 pe a.promo.length 0,
        cnt := cnt, bad := none }
    (acc ++ [ch], e + a.ents.length, m + (if a.promo.isEmpty then 0 else 1))) ([], 0, 0)).1

/-- The SDIR entry of slice `i` (R196). -/
def OSet.sdirOut (o : OSet) (i used promo ovf : Nat) (complete : Bool) : Out :=
  ⟨o.off 4 + 16 * i, leBytes 4 used ++ leBytes 4 promo ++ leBytes 4 ovf ++ leBytes 4 ((if complete then 2 else 0) + (if ovf = 0 then 0 else 1)), 0⟩

/-- The HIST entries of slice `i` for the step, from its groups (R209). -/
def State.histOuts (s : State) (x : Inst) (c : QCfg) (i : Nat) (gs : List (Nat × QGroup)) : List Out :=
  let o := c.o
  if !o.hist then [] else (List.range o.ng).map fun col =>
    let m := ratMax ((gs.filter fun p => p.1 % max 1 o.ng == col).filterMap fun p => p.2.amax)
    let b := (i * o.ng + col) * 64 + 4 * (c.step % 16)
    ⟨o.off 5 + b, leBytes 4 (histUpdate ((s.histEntries x o i col).getD (c.step % 16) 0) c.step m), 0⟩

/-- Granules of the SDIR and HIST entries of slice `i`. -/
def OSet.endGrans (o : OSet) (i : Nat) : List Gran :=
  o.sideGrans 4 (16 * i) 16 0 ++ (if o.hist then o.sideGrans 5 (i * o.ng * 64) (o.ng * 64) 0 else [])

/-- SDIR entry and HIST entries of a completed slice (R196, R209). -/
def State.sliceEnd (s : State) (x : Inst) (c : QCfg) (i : Nat) (q : QSlice) : List Out × List Gran :=
  (c.o.sdirOut i q.used q.promo q.ovf true :: s.histOuts x c i q.gs, c.o.endGrans i)

/-- Stored element range that a group of the set covers. -/
def QCfg.elems (c : QCfg) (gi : Nat) : Nat × Nat := (gi * c.o.g, c.o.g)

end Sys2Proof.Machine
end

