-- ==== Sys2Proof/Machine/Quant.lean ====
section
/-! DEFINITION. QUANT: quantising, converting and dequantising (04 R184 to R224, R848). -/
namespace Sys2Proof.Machine

/-- The source set of a QUANT (R848). -/
def quantSrc (s : State) (x : Inst) (q : Nat) (e : Entry) : OSet :=
  let f := x.f 13 20 4
  let a := x.a64 6
  { base := s.stagedBase x a, rows := x.f 10 0 24, cols := x.f 13 0 20, fmt := f, gs := x.f 13 30 2, half := false,
    outl := bit (x.w 15) 29, hist := false, lscale := false,
    mx := fmtScaled f && bit q 7 && (!s.isOwn a || isHost (locOf a)), cap := e.cap, promo := e.promo,
    sliceRows := e.sliceRows, tid := x.f 12 0 24 }

/-- The side structures of the source slices that rows [r0, r0 + n) touch. -/
def State.sidesOf (s : State) (x : Inst) (o : OSet) (r0 n : Nat) : List (Nat × Side) :=
  if !o.outl ∨ n = 0 then [] else
    (upto (r0 / o.sliceRows) ((r0 + n - 1) / o.sliceRows + 1 - r0 / o.sliceRows)).map fun i => (i, s.readSide x o i)

/-- Work that converts elements of a source set into FP16 or BF16, by output granule (R191). -/
def State.convertChunks (s : State) (x : Inst) (src : OSet) (sides : List (Nat × Side)) (base fmt tid : Nat) (rnd : Rnd)
    (e0 n : Nat) : List Chunk :=
  let tot := src.rows * src.cols
  (upto (e0 / 512) ((e0 + n + 511) / 512 - e0 / 512)).map fun k =>
    let lo := max e0 (512 * k)
    let hi := min (e0 + n) (512 * (k + 1))
    let step := if src.scaled then src.g else hi - lo
    let parts := (List.range (cdiv (hi - lo) (max 1 step))).map fun j =>
      let a := lo + step * j
      let a' := if src.scaled then a / step * step else a
      (a, min hi (a' + step) - a)
    let ins := parts.map fun p =>
      let d := sideAt sides (p.1 / max 1 src.cols / max 1 src.sliceRows)
      (p.1, s.readElems x src d p.1 p.2)
    let outs := ins.flatMap fun p => (p.2.vals.zipIdx).map fun v => to16 fmt v.1 (rnd.at_ (p.1 + v.2))
    let tail := if hi = tot then List.replicate (up1k (2 * tot) - 2 * tot) 0#8 else []
    let u := src.elemUse lo (hi - lo) 0
    let us := src.elemSides sides lo (hi - lo) 0
    let skew := if x.checkDiac then src.skewIn sides lo (hi - lo) 0 else none
    { need := u.1 ++ us.1, use := u.2 ++ us.2,
      outs := outAt (base + 2 * lo) ((outs.flatMap fun o => leBytes 2 o.1) ++ tail),
      ren := [plainGran (base + 1024 * k) tid k 0],
      cnt := (sumCnt (ins.map fun p => p.2.cnt)).add (sumCnt (outs.map Prod.snd)),
      bad := if skew.isSome then some (3, 16) else none, who := skew }

/-- Work that quantises slices [i0, i0 + n) of a source set into a scaled set. -/
def State.quantChunks (s : State) (x : Inst) (c : QCfg) (src : OSet) (sides : List (Nat × Side)) (i0 n : Nat) :
    List Chunk × Chunk :=
  let same := src.fmt == c.o.fmt && src.scaled && src.gs == c.o.gs && src.mx == c.o.mx
  let rs := (upto i0 n).map fun i =>
    let q := quantSlice c (fun gi => s.readElems x src (sideAt sides (gi * c.o.g / max 1 src.cols / max 1 src.sliceRows)) (gi * c.o.g) c.o.g) same
      (fun col => if c.o.hist then s.histEntries x c.o i col else [])
      (fun gi => if c.o.lscale then leNat (s.rdx x (c.o.off 6 + 2 * gi) 2) else 0) i
    let h := (i * c.o.ng * 64, c.o.ng * 64)
    let l := fun gi => (2 * gi, 2)
    let input := fun gi =>
      let u := src.elemUse (gi * c.o.g) c.o.g 0
      let us := src.elemSides sides (gi * c.o.g) c.o.g 0
      (u.1 ++ us.1 ++ (if c.o.hist then c.o.sideGrans 5 h.1 h.2 1 else []) ++ (if c.o.lscale then c.o.sideGrans 6 (l gi).1 2 1 else []),
        u.2 ++ us.2 ++ (if c.o.hist then [(c.o.off 5 + h.1, h.2)] else []) ++ (if c.o.lscale then [(c.o.off 6 + (l gi).1, 2)] else []))
    let skew := fun gi => if x.checkDiac then src.skewIn sides (gi * c.o.g) c.o.g 0 else none
    ((List.zip q.gs (sliceChunks c i q input)).map fun p => (match skew p.1.1 with | some g => { p.2 with bad := some (3, 16), who := some g } | none => p.2),
      s.sliceEnd x c i q, q)
  let fin := { Chunk.empty with outs := rs.flatMap fun r => r.2.1.1, ren := rs.flatMap fun r => r.2.1.2 }
  (rs.flatMap fun r => r.1, fin)

/-- Largest amax of the HIST entries that a DELAYED quantisation wrote, for telemetry (R804). -/
def State.noteHist (s : State) (x : Inst) (lg : Nat) (fin : Chunk) (o : OSet) : State :=
  if !o.hist then s
  else
    let m := (fin.outs.filter fun w => decide (o.off 5 ≤ w.a) && decide (w.a < o.off 6)).foldl (fun a w => max a (leAt w.bs 0 2)) 0
    s.modCtx x.ctx fun c => { c with histMax := sput lg (max m (sget 0 c.histMax lg)) c.histMax }

/-- The off-load of an activation set whose last slice a basic QUANT has written: a MOVE of the set to the next free
place of the area; one that does not fit is reported (R449, R450; log entry 43). -/
def State.offload (s : State) (x : Inst) (e : Entry) (o : OSet) : State :=
  let mode := e.f 6 0 2
  let size := mib * s.rf (ctxOff x.ctx 0x220) 0 16
  let at_ := (s.ctx x.ctx).oflNext
  let len := o.off 5 - o.base
  if x.expert ∨ x.f 15 22 2 ≠ 1 ∨ ¬(mode = 1 ∨ mode = 2) ∨ size = 0 ∨ !o.scaled then s
  else if size < at_ + len then s.logEv 0x0203 x.job [o.tid]
  else
    let base := s.jr64 x.ctx 0x218
    let dst := (if mode = 2 then e.f 6 16 16 * 2 ^ 48 + locOf base else base) + at_
    let ws := [1 + 2 ^ 13 + x.job * 2 ^ 16, x.w 1, 0, 0, 0, 0, 2 * 2 ^ 14 + 2 ^ 16, o.base % 2 ^ 32, o.base / 2 ^ 32, dst % 2 ^ 32, dst / 2 ^ 32,
      o.rows, o.cols + o.fmt * 2 ^ 20 + o.gs * 2 ^ 24 + (if o.outl then 2 ^ 26 else 0), x.f 14 24 8 + 2 ^ 8, o.tid, 0]
    let y := Inst.fresh 0 1024 x.ctx 0 x.fromPf (ws.map (BitVec.ofNat 32))
    let o : Ofl := { lg := x.f 14 24 8, lead := e.f 6 2 3 + 1, base := o.base, tid := o.tid, place := dst, rows := o.rows,
                     shape := o.cols + o.fmt * 2 ^ 20 + o.gs * 2 ^ 24 + (if o.outl then 2 ^ 26 else 0), len := len,
                     fetch := none, fail := none }
    (s.modCtx x.ctx fun c => { c with oflNext := at_ + len, ofl := c.ofl ++ [o] }).addInst { y with queue := 0xA8 }

/-- A basic QUANT of an activation gives its layer group the next place in forward order (R451). -/
def State.noteLayer (s : State) (x : Inst) : State :=
  let lg := x.f 14 24 8
  if x.expert ∨ x.f 15 22 2 ≠ 1 ∨ (s.ctx x.ctx).layers.contains lg then s
  else s.modCtx x.ctx fun c => { c with layers := c.layers ++ [lg] }

/-! ## Prefetch of off-loaded sets (R451, R452; log entry 66) -/

/-- The layer group whose gradient a basic descriptor names: its backward has started. -/
def Inst.gradLg (x : Inst) : Option Nat :=
  if x.expert then none
  else if x.opcode = 4 then (if x.f 15 22 2 = 2 then some (x.f 14 24 8) else none)
  else if x.opcode = 2 then
    (if x.blk 14 8 2 = 2 then some (x.blk 14 0 8) else if x.blk 14 18 2 = 2 then some (x.blk 14 10 8) else none)
  else none

/-- Issue the prefetch of set number `k` of a context, of layer `l`: a MOVE OUTSET, granules checked, into place l mod (λ + 1) of
the staging area, which the set that lay there leaves. -/
def State.prefetch (s : State) (n : Nat) (k : Nat) (l : Nat) : State :=
  match (s.ctx n).ofl[k]? with
  | none => s
  | some o =>
    let dst := s.devId * 2 ^ 48 + Config.stagingAt n (l % (o.lead + 1))
    let ws := [1 + 2 ^ 13 + s.jobId n * 2 ^ 16, 0, 0, 0, 0, 0, 2 * 2 ^ 14 + 2 ^ 16, o.place % 2 ^ 32, o.place / 2 ^ 32, dst % 2 ^ 32, dst / 2 ^ 32,
      o.rows, o.shape, o.lg + 2 ^ 8, o.tid, 0]
    let y := Inst.fresh 0 1024 n 0 true (ws.map (BitVec.ofNat 32))
    let leave := fun (p : Ofl) => match p.fetch with | some (_, a) => if a = dst then { p with fetch := none } else p | none => p
    (s.modCtx n fun c => { c with ofl := (c.ofl.map leave).set k { o with fetch := some (s.nextInst, dst), fail := none } }).addInst { y with queue := 0xA8 }

/-- Numbers of the sets whose prefetch is due, latest layer first, with their layers: `at_` is the layer whose backward starts,
`first` says that no layer's backward started before it. -/
def Ctx.due (c : Ctx) (at_ : Nat) (first : Bool) : List (Nat × Nat) :=
  let n := c.layers.length
  let ls := c.ofl.zipIdx.map fun p => (p.2, c.layers.idxOf p.1.lg, p.1)
  (ls.reverse.filter fun p => p.2.2.fetch.isNone && (p.2.1 + p.2.2.lead == at_ || (first && decide (n ≤ p.2.1 + p.2.2.lead)))).map
    fun p => (p.1, p.2.1)

/-- The access side of a descriptor has started: where it is the first of a layer's backward, the prefetches due are issued. -/
def State.startBackward (s : State) (x : Inst) : State :=
  match x.gradLg with
  | none => s
  | some lg =>
    let c := s.ctx x.ctx
    if c.ofl.isEmpty ∨ c.backs.contains lg then s
    else
      let s := s.modCtx x.ctx fun c => { c with backs := lg :: c.backs }
      (c.due (c.layers.idxOf lg) c.backs.isEmpty).foldl (fun s p => s.prefetch x.ctx p.1 p.2) s

/-- A basic descriptor that names a staged set: none when its prefetch is complete or it names none; else it waits, or it ends as
the prefetch failed (R451, R452). -/
def State.prefetchHolds (s : State) (x : Inst) (bases : List Nat) : Option State :=
  if x.expert then none
  else match (s.ctx x.ctx).ofl.find? fun o => match o.fetch with | some p => bases.contains p.2 | none => false with
    | none => none
    | some o =>
      match o.fail, o.fetch with
      | some (st, d), _ => some (s.endInst x st d {})
      | none, some p => if (s.inst? p.1).isSome then some s else none
      | none, none => none

/-- Ranges of a set that a slice range needs: data, scales, sides of the slices. -/
def OSet.slicesUse (o : OSet) (r0 n : Nat) (sides : List (Nat × Side)) : List (Nat × Nat) :=
  (o.elemUse (r0 * o.cols) (n * o.cols) 0).2 ++ (sides.flatMap fun p => (o.sideUse p.1 0 p.2 0 o.perSlice).2).filter fun r => r.2 != 0

/-- The recipe entry of a QUANT-like operation cannot be used: status and DETAIL. -/
def sliceBad (e : Entry) (rows i0 n : Nat) : Option Nat :=
  if !e.sliceOk then some 14
  else if n = 0 then some 11
  else if cdiv rows e.sliceRows < i0 + n then some 10 else none

/-- A judged QUANT: recipe entry, target, source, slices `i0` to `i0 + n - 1`, rows `r0` to `r0 + nr - 1`. -/
structure QJob where
  e : Entry
  c : QCfg
  src : OSet
  i0 : Nat
  n : Nat
  r0 : Nat
  nr : Nat
deriving DecidableEq, Repr

/-- Judge a QUANT against its recipe entries: its parameters, or status, DETAIL and the entries that were named. -/
def State.quantJudge (s : State) (x : Inst) : Except (Nat × Nat × List (Nat × Nat)) QJob :=
  let lg := x.f 14 24 8
  let role := x.f 15 22 2
  let role2 := if bit (x.w 15) 29 then x.f 15 30 2 else role
  match s.entry x lg role, s.entry x lg role2 with
  | .error e, _ => .error (e, 0, [(lg, role)])
  | _, .error e => .error (e, 0, [(lg, role2)])
  | .ok e, .ok se =>
    let q := if x.expert then x.f 15 0 22 else e.basicQctl
    let rnd := if x.expert then bit (x.w 15) 5 else role == 2
    let i0 := x.f 11 0 16 + 2 ^ 16 * x.f 10 24 8
    let n := x.f 11 16 16 + 2 ^ 16 * x.f 12 24 8
    let rows := x.f 10 0 24
    let bad := ((s.badQuant x (some q)).map fun p => (p.1, some p.2)) ++
      [((sliceBad e rows i0 n).isSome, sliceBad e rows i0 n), (!se.sliceOk, some 14)]
    match worst (bad.filterMap fun p => p.2.map fun k => (p.1, k)) with
    | some k => .error (8, k, [])
    | none =>
      let c := mkQCfg q e (x.a64 8) rows (x.f 13 0 20) (x.f 13 24 4) (x.f 13 28 2) (x.f 14 0 24) rnd (s.seed x) x.step
      let r0 := e.sliceRows * i0
      .ok ⟨e, c, quantSrc s x q se, i0, n, r0, min rows (e.sliceRows * (i0 + n)) - r0⟩

/-- A judged QUANT, or the state in which it has ended. -/
def State.quantJob (s : State) (x : Inst) : Except State QJob :=
  match s.quantJudge x with
  | .ok j => .ok j
  | .error (st, k, ks) => .error (if st = 8 then s.endFormat x k else s.endEntry x st ks)

/-- Ranges that a QUANT reads: its source slices, and the entries of its own set that it updates. -/
def QJob.ranges (j : QJob) : List (Nat × Nat) :=
  let o := j.c.o
  let sr := j.src.sliceRows
  j.src.slicesUse j.r0 j.nr ((upto (j.r0 / sr) ((j.r0 + j.nr - 1) / sr + 1 - j.r0 / sr)).map fun i => (i, Side.nil)) ++
    (if o.hist then [(o.off 5 + j.i0 * o.ng * 64, j.n * o.ng * 64)] else []) ++
    (if o.lscale then [(o.off 6 + 2 * j.r0 * o.ng, 2 * j.nr * o.ng)] else [])

/-- The work of a QUANT. -/
def State.quantWork (s : State) (x : Inst) (j : QJob) : Work :=
  let sides := s.sidesOf x j.src j.r0 j.nr
  if j.c.o.scaled then
    let p := s.quantChunks x j.c j.src sides j.i0 j.n
    ⟨j.ranges, p.1, p.2, x.f 14 24 8, 0, 0⟩
  else
    ⟨j.ranges, s.convertChunks x j.src sides (x.a64 8) j.c.o.fmt j.c.o.tid j.c.rnd (j.r0 * j.c.o.cols) (j.nr * j.c.o.cols),
      Chunk.empty, x.f 14 24 8, 0, 0⟩

def State.quantRun (s : State) (x : Inst) : State :=
  match s.quantJob x with
  | .error s' => s'
  | .ok j => match (s.prefetchHolds x [j.src.base]).or (s.want x j.ranges) with
    | some s' => s'
    | none =>
      let w := s.quantWork x j
      let s' := s.runWork x w
      match s'.inst? x.id with
      | some y =>
        if j.c.o.scaled ∧ y.phase = .done ∧ y.status = 0 then
          let s' := s'.noteHist x (x.f 14 24 8) w.fin j.c.o
          if j.i0 + j.n = j.c.o.ns then (s'.noteLayer x).offload x j.e j.c.o else s'
        else s'
      | none => s'

/-- The instance of a Lexicon engine, Dispatcher or Scan Engine is free for the descriptor: those of its queue whose access sides
started before have completed (R334). Other engines execute whatever has started. -/
def State.inTurn (s : State) (x : Inst) : Bool :=
  decide (x.opcode < 5) || decide (7 < x.opcode) || !s.insts.any fun y =>
    y.queue == x.queue && y.phase == .started && (decide (y.startTs < x.startTs) || (y.startTs == x.startTs && decide (y.id < x.id)))

/-- A descriptor of an opcode that has started and whose turn it is. -/
def State.started (s : State) (i op : Nat) : Option Inst :=
  match s.inst? i with
  | some x => if x.phase = .started ∧ x.opcode = op ∧ s.inTurn x then some x else none
  | none => none

/-- QUANT. -/
def State.quant (s : State) (i : Nat) : State :=
  match s.started i 4 with
  | some x => s.quantRun x
  | none => s

def execQuant (i : Nat) (s : State) : Host.Outcome State Fault Refusal := act (.quant i) (s.quant i)

end Sys2Proof.Machine
end

