-- ==== Sys2Proof/Machine/Tile.lean ====
section
/-! DEFINITION. What a matrix tile computes for one output: group integers, windows, the combining accumulator, special states, Parenthesis terms, Past-Tense sums (05 R236 to R273). -/
namespace Sys2Proof.Machine

/-! ## The combining accumulator (R252) and special states (R257) -/

def signedRound (f : Rat → Rat) (q : Rat) : Rat := if q < 0 then -(f (-q)) else f q

/-- Round to 20 significant bits. -/
def rn20 (q : Rat) : Rat := signedRound (fun m => roundSig 20 m none) q

inductive Sp where
  | fin
  | inf (neg : Bool)
  | nan
deriving DecidableEq, Repr

def Sp.join : Sp → Sp → Sp
  | .fin, b => b
  | a, .fin => a
  | .nan, _ => .nan
  | _, .nan => .nan
  | .inf a, .inf b => if a = b then .inf a else .nan

def Sp.ofVal : Val → Sp
  | .nan => .nan
  | .inf n => .inf n
  | .fin _ _ => .fin

/-- The state that a product contributes. -/
def spMul (a b : Val) : Sp :=
  match a, b with
  | .nan, _ => .nan
  | _, .nan => .nan
  | .inf m, .inf n => .inf (m != n)
  | .inf m, .fin n q => if q = 0 then .nan else .inf (m != n)
  | .fin m q, .inf n => if q = 0 then .nan else .inf (m != n)
  | .fin _ _, .fin _ _ => .fin

/-- An accumulator: a value of the combining form and a special state. -/
structure Acc20 where
  v : Rat
  sp : Sp
deriving DecidableEq, Repr

def Acc20.toVal (a : Acc20) : Val :=
  match a.sp with
  | .nan => .nan
  | .inf n => .inf n
  | .fin => Val.ofRat a.v

/-! ## Operand groups as a tile sees them -/

/-- One element: multiplier integer, dequantised value, signed significand and exponent. -/
structure TElem where
  int : Int
  val : Val
  sig : Int
  exp : Int
deriving DecidableEq, Repr

inductive GKind where
  | normal | zero | inf | nan
deriving DecidableEq, Repr

/-- A group of one operand row. An unstored element of a sparse row is none. -/
structure GOp where
  kind : GKind
  scale : Rat
  els : List (Option TElem)
  promo : Bool
  outs : List (Nat × Val)
  /-- subnormal elements read, and a ZERO group that counts in ZGRP -/
  flush : Nat
  zgrp : Bool
deriving DecidableEq, Repr

/-- Twice-scale formats: their integers carry a factor 2 (R138, R251). -/
def twice (f : Nat) : Bool := f == E2M1 || f == INT2

def multInt (f low c : Nat) : Int :=
  if 7 ≤ f then 0 else ((elemVal f low c).rat * (if twice f then 2 else 1)).floor

/-- Significand and exponent of a floating code (R262). -/
def sigExp (f c : Nat) : Int × Int :=
  let p := floatFmt f
  match decodeFloat p c with
  | .fin n m =>
    if m = 0 then (0, 0)
    else
      let s : Int := 2 ^ p.f + bits c 0 p.f
      (if n then -s else s, (bits c p.f p.e : Int) - p.bias - p.f)
  | _ => (0, 0)

def tElem (f sw c : Nat) : TElem :=
  let low := bits sw 0 4
  let m := multInt f low c
  if 7 ≤ f then let se := sigExp f c; ⟨0, decode f sw c, se.1, se.2⟩ else ⟨m, decode f sw c, m, 0⟩

/-- Group from its scale word and codes; none marks an unstored element. -/
def mkGOp (f sw : Nat) (cs : List (Option Nat)) : GOp :=
  let bad := f = TERN ∧ cs.contains (some 3)
  let sw := if bad then 0xFF00 else sw
  let e := sw / 256
  let kind : GKind := if !fmtScaled f then .normal else if e = 0 then .zero else if e = 0xFE then .inf else if e = 0xFF then .nan else .normal
  { kind := kind,
    scale := if !fmtScaled f then 1 else if kind = .normal then scaleOf sw * (if twice f then 1 / 2 else 1) else 0,
    els := cs.map fun c => c.map (tElem f sw), promo := false, outs := [],
    flush := if kind = .normal then (cs.filter fun c => match c with | some v => isSubnormal f v | none => false).length else 0,
    zgrp := kind == .zero }

/-- Metadata of a 2:4 block pair list: logical positions of the stored elements; none where a nibble is malformed (R244, R245). -/
def expand24 (nibs cs : List Nat) : Option (List (Option Nat)) :=
  if nibs.any fun n => decide (n / 4 ≤ n % 4) then none
  else some ((nibs.zipIdx).flatMap fun p => (List.range 4).map fun k =>
    if k = p.1 % 4 then some (cs.getD (2 * p.2) 0) else if k = p.1 / 4 then some (cs.getD (2 * p.2 + 1) 0) else none)

/-- An element that reads as zero. -/
def TElem.zero : TElem := ⟨0, .zero, 0, 0⟩

/-- The stored elements at some positions of a group read as zero: extracted slots (R218, R225), also of INT2, which has no zero
code. -/
def GOp.blank (b : GOp) (p : Nat → Bool) : GOp :=
  { b with els := (b.els.zipIdx).map fun e => if p e.2 then e.1.map fun _ => TElem.zero else e.1 }

/-- Group `g` of row `r` of an operand; `meta` is the metadata address of a sparse operand. -/
def State.gop (s : State) (x : Inst) (o : OSet) (d : Side) (meta_ : Nat) (r g : Nat) : GOp :=
  let gi := r * o.ng + g
  let k := (r % max 1 o.sliceRows) * o.ng + g
  match d.promoted k with
  | some (sw, cs) => { mkGOp E4M3 sw (cs.map some) with promo := true, zgrp := false }
  | none =>
    let sw := s.scaleWord x o gi
    let n := if o.half then o.g / 2 else o.g
    let cs := unpackElems o.fmt n (s.rdx x (o.off 0 + o.gb * gi) o.gb)
    let ws := d.entsOf k
    let b :=
      if o.half then
        let nb := o.g / 4
        let n0 := r * (o.cols / 4) + g * nb
        let nibs := (List.range nb).map fun j => getElem INT4 (s.rdx x (meta_ + (n0 + j) / 2) 1) ((n0 + j) % 2)
        match expand24 nibs cs with
        | some l => mkGOp o.fmt sw l
        | none => mkGOp o.fmt 0xFF00 (cs.map some)
      else mkGOp o.fmt (if fmtScaled o.fmt then sw else 0) (cs.map some)
    let free := o.fmt = INT2 ∧ !o.outl ∧ ofield o.fmt sw ≠ 0
    let b := b.blank fun i => (ws.any fun w => entIx w == i) ||
      (decide free && (match b.els.getD i none with | some e => e.int == 1 && Config.int2Slot (o.off 0 + o.gb * gi) i | none => false))
    { b with outs := ws.map fun w => (entIx w, entVal w), flush := b.flush + (ws.filter fun w => isSubnormal BF16 (w % 65536)).length }

/-! ## Group results and windows (R250, R251, R261 to R265) -/

def flipInt (b : Nat) (v : Int) : Int := if v / (2 ^ b : Nat) % 2 = 0 then v + (2 ^ b : Nat) else v - (2 ^ b : Nat)

def pairEls (a w : GOp) : List (TElem × TElem) :=
  (List.zip a.els w.els).filterMap fun p => match p.1, p.2 with | some u, some v => some (u, v) | _, _ => none

def maxExp (l : List TElem) : Option Int :=
  (l.filter fun e => e.sig != 0).foldl (fun a e => match a with | none => some e.exp | some m => some (max m e.exp)) none

/-- q of an alignment block (R262). -/
def blockQ (a w : List (Option TElem)) : Option Int :=
  match maxExp (a.filterMap id), maxExp (w.filterMap id) with
  | some m, some n => some (m + n)
  | _, _ => none

/-- Window integer: products with exponent from `lo` to `hi`, placed so that `lo` is 2^0. `dig` picks the part of
the stationary significand. -/
def windowInt (ps : List (TElem × TElem)) (lo hi : Int) (dig : Int → Int) : Int :=
  ((ps.filter fun p => decide (lo ≤ p.1.exp + p.2.exp) && decide (p.1.exp + p.2.exp ≤ hi)).map fun p =>
    p.1.sig * dig p.2.sig * (2 ^ (p.1.exp + p.2.exp - lo).toNat : Nat)).sum

/-- Upper and lower digit of a significand, with its sign (R264). -/
def digitU (v : Int) : Int := if v < 0 then -(-v / 16) else v / 16
def digitL (v : Int) : Int := if v < 0 then -(-v % 16) else v % 16

/-- Window results of one alignment block, unscaled, in order; `fx` acts on the first window integer. -/
def blockWindows (bf : Bool) (a w : List (Option TElem)) (fx : Int → Int) : List Rat :=
  match blockQ a w with
  | none => []
  | some q =>
    let ps := (List.zip a w).filterMap fun p => match p.1, p.2 with | some u, some v => some (u, v) | _, _ => none
    if bf then
      (List.range 4).flatMap fun (v : Nat) =>
        let lo := q - 7 * (v : Int) - 6
        let iu := windowInt ps lo (q - 7 * v) digitU
        let iu := if v = 0 then fx iu else iu
        [((16 * iu : Int) : Rat) * pow2 lo, ((windowInt ps lo (q - 7 * v) digitL : Int) : Rat) * pow2 lo]
    else
      [((fx (windowInt ps (q - 10) q id) : Int) : Rat) * pow2 (q - 10),
       ((windowInt ps (q - 21) (q - 11) id : Int) : Rat) * pow2 (q - 21)]

/-- Contributions of a pair of groups to an output, in order (R253 order 2). `g` is the group index; `fx j` acts on the integer of
group `j`, in floating modes on that of alignment block `j`; in a promoted pair of another mode, on its first block. -/
def pairTerms (mode : Nat) (a w : GOp) (g : Nat) (fx : Nat → Int → Int) : List Rat :=
  if a.kind ≠ .normal ∨ w.kind ≠ .normal then []
  else if mode = 3 ∨ mode = 4 ∨ a.promo ∨ w.promo then
    let nb := cdiv a.els.length 32
    (((pieces 32 a.els).zip (pieces 32 w.els)).zipIdx).flatMap fun p =>
      let act := if mode = 3 ∨ mode = 4 then fx (g * nb + p.2) else if p.2 = 0 then fx g else id
      (blockWindows (mode == 4) p.1.1 p.1.2 act).map fun t => t * a.scale * w.scale
  else
    let sI : Int := ((pairEls a w).map fun p => p.1.int * p.2.int).sum
    [((fx g sI : Int) : Rat) * a.scale * w.scale]

/-- The state that a pair of groups contributes (R257, R258). -/
def pairSp (a w : GOp) : Sp :=
  if a.kind = .nan ∨ w.kind = .nan then .nan
  else if a.kind = .zero ∨ w.kind = .zero then (if a.kind = .inf ∨ w.kind = .inf then .nan else .fin)
  else (pairEls a w).foldl (fun st p => st.join (spMul p.1.val p.2.val)) .fin

/-- Value of a slot of a group: 0 where nothing is stored. -/
def GOp.at_ (a : GOp) (k : Nat) : Val := match a.els.getD k none with | some e => e.val | none => .zero

/-- Outlier value at an index. -/
def GOp.out? (a : GOp) (k : Nat) : Option Val := (a.outs.find? fun p => p.1 == k).map Prod.snd

/-- One set of Parenthesis terms over all groups in ascending k (R225). -/
def parenTerms (sel : GOp → GOp → Nat → Option (Val × Val)) (ps : List (GOp × GOp)) : List (Val × Val) :=
  ps.flatMap fun p => (List.range p.1.els.length).filterMap fun k => sel p.1 p.2 k

def allParen (ps : List (GOp × GOp)) : List (Val × Val) :=
  if ps.all fun p => p.1.outs.isEmpty && p.2.outs.isEmpty then []
  else
    parenTerms (fun a w k => (a.out? k).map fun v => (v, w.at_ k)) ps ++
    parenTerms (fun a w k => (w.out? k).map fun v => (a.at_ k, v)) ps ++
    parenTerms (fun a w k => match a.out? k, w.out? k with | some u, some v => some (u, v) | _, _ => none) ps

/-- One output of the group machinery (R253 orders 1 to 3). -/
def tileOut (mode : Nat) (start : Val) (ps : List (GOp × GOp)) (fx : Nat → Int → Int) : Acc20 :=
  let a := start.rat
  let ts := (ps.zipIdx).flatMap fun p => pairTerms mode p.1.1 p.1.2 p.2 fx
  let par := allParen ps
  let v := ts.foldl (fun a t => rn20 (a + t)) a
  let v := par.foldl (fun a p => rn20 (a + p.1.rat * p.2.rat)) v
  let st := ps.foldl (fun st p => st.join (pairSp p.1 p.2)) (Sp.ofVal start)
  ⟨v, par.foldl (fun st p => st.join (spMul p.1 p.2)) st⟩

/-! ## Past-Tense (R266 to R268) -/

/-- IEEE sum and product of exact values; an exact zero sum of opposite signs is +0. -/
def vAdd (a b : Val) : Val :=
  match a, b with
  | .nan, _ => .nan
  | _, .nan => .nan
  | .inf m, .inf n => if m = n then .inf m else .nan
  | .inf m, _ => .inf m
  | _, .inf n => .inf n
  | .fin m p, .fin n q =>
    let t := (if m then -p else p) + (if n then -q else q)
    if t = 0 then .fin (m && n && decide (p = 0)) 0 else Val.ofRat t

def vMul (a b : Val) : Val :=
  match a, b with
  | .nan, _ => .nan
  | _, .nan => .nan
  | .inf m, .inf n => .inf (m != n)
  | .inf m, .fin n q => if q = 0 then .nan else .inf (m != n)
  | .fin m q, .inf n => if q = 0 then .nan else .inf (m != n)
  | .fin m p, .fin n q => .fin (m != n) (p * q)

def vNeg : Val → Val
  | .nan => .nan
  | .inf n => .inf (!n)
  | .fin n m => .fin (!n) m

/-- rn22 (R267). -/
def rn22 (v : Val) : Val :=
  match v with
  | .fin n m =>
    let y := roundSig 22 m none
    if pow2 128 ≤ y then .inf n else if y < pow2 (-126) then .fin n 0 else .fin n y
  | v => v

def pastDot (l : List (Val × Val)) : Val := l.foldl (fun a p => vAdd a (vMul p.1 p.2)) (.fin true 0)

/-- One output before its conversion. `fx m` acts on the exact sum of products `m`, in units of 2^-32. -/
def pastTense (a w : List Val) (sa sw : Val) (start : Option Val) (fx : Nat → Int → Int) : Val :=
  let ps := pieces 16 (List.zip a w)
  let lane := (ps.zipIdx).foldl (fun (l : List Val) p =>
    let q := pastDot p.1
    let q := match q with | .fin n m => (let i := (m * (2 ^ 32 : Nat)).floor; let i := if n then -i else i; if fx p.2 i = i then q else Val.ofRat (((fx p.2 i : Int) : Rat) / (2 ^ 32 : Nat))) | v => v
    modNth (fun u => rn22 (vAdd u (rn22 q))) (p.2 % 4) l) (List.replicate 4 Val.zero)
  let t := rn22 (vAdd (rn22 (vAdd (lane.getD 0 .zero) (lane.getD 1 .zero))) (rn22 (vAdd (lane.getD 2 .zero) (lane.getD 3 .zero))))
  let y := vMul (vMul t sa) sw
  match start with | some c => vAdd y c | none => y

end Sys2Proof.Machine
end

