-- ==== Sys2Proof/Machine/VMath.lean ====
section
/-! DEFINITION. Exact mathematical functions by rational enclosures, sums in the lane order, IEEE rules of the vector operations (06 R312 to R316). -/
namespace Sys2Proof.Machine

/-! ## Enclosures of real functions -/

/-- `q` rounded down, or up, to a multiple of 2^-p. -/
def fixDown (p : Nat) (q : Rat) : Rat := ((q * (2 ^ p : Nat)).floor : Rat) / (2 ^ p : Nat)
def fixUp (p : Nat) (q : Rat) : Rat := ((q * (2 ^ p : Nat)).ceil : Rat) / (2 ^ p : Nat)

/-- Lower and upper bound. -/
abbrev Iv := Rat × Rat

/-- exp of `r`, |r| ≤ 1/16, to about p bits: the Taylor sum with a bound on its tail. -/
def expSmall (p : Nat) (r : Rat) : Iv :=
  let n := p / 4 + 2
  let st := (List.range n).foldl (fun (a : Rat × Rat) k => (a.1 + a.2, fixDown (p + 16) (a.2 * r / ((k + 1 : Nat) : Rat)))) ((0 : Rat), (1 : Rat))
  let e : Rat := ((n + 4 : Nat) : Rat) / (2 ^ (p + 12) : Nat) + 1 / (2 ^ (4 * n) : Nat)
  (st.1 - e, st.1 + e)

/-- exp of a rational; arguments beyond ±200 are taken at a value beyond every format's range. -/
def expIv (p : Nat) (x : Rat) : Iv :=
  if 200 < x then (pow2 288, pow2 300)
  else if x < -200 then (pow2 (-300), pow2 (-288))
  else
    let q := p + 330
    let k := 12
    let e := expSmall q (x / (2 ^ k : Nat))
    (List.range k).foldl (fun a _ => (fixDown q (a.1 * a.1), fixUp q (a.2 * a.2))) e

/-- ln of m in [1/2, 2], and ln 2, by the series of the inverse hyperbolic tangent. -/
def atanhIv (p : Nat) (z : Rat) : Iv :=
  let n := p / 2 + 4
  let s := (List.range n).foldl (fun (a : Rat × Rat) k => (a.1 + fixDown (p + 16) (a.2 / ((2 * k + 1 : Nat) : Rat)), fixDown (p + 16) (a.2 * z * z))) ((0 : Rat), z)
  let e : Rat := ((2 * n + 4 : Nat) : Rat) / (2 ^ (p + 16) : Nat) + 1 / (2 ^ (2 * n) : Nat)
  (2 * (s.1 - e), 2 * (s.1 + e))

def lnIv (p : Nat) (x : Rat) : Iv :=
  let e0 := ilog2 x
  let m0 := x / pow2 e0
  let e := if 4 < 3 * m0 then e0 + 1 else e0
  let m := if 4 < 3 * m0 then m0 / 2 else m0
  let q := p + 160
  let a := atanhIv q ((m - 1) / (m + 1))
  if e = 0 then a
  else
    let b := atanhIv q (1 / 3)
    let er : Rat := (e : Rat)
    if 0 < e then (a.1 + er * b.1, a.2 + er * b.2) else (a.1 + er * b.2, a.2 + er * b.1)

/-- Integer square root, bit by bit. -/
def isqrt (n : Nat) : Nat :=
  (List.range (Nat.log2 n / 2 + 1)).foldr (fun b r => if (r + 2 ^ b) * (r + 2 ^ b) ≤ n then r + 2 ^ b else r) 0

/-- Square root of a non-negative rational; exact bounds where it is rational. -/
def sqrtIv (p : Nat) (x : Rat) : Iv :=
  let n := x.num.natAbs
  let d := x.den
  let a := isqrt n
  let b := isqrt d
  if a * a = n ∧ b * b = d then ((a : Rat) / b, (a : Rat) / b)
  else
    let k := p + 160
    let s := isqrt (n * d * 4 ^ k)
    ((s : Rat) / ((d * 2 ^ k : Nat) : Rat), ((s + 1 : Nat) : Rat) / ((d * 2 ^ k : Nat) : Rat))

/-- Inverse tangent of 1/n, for Machin's formula. -/
def atanInv (p n : Nat) : Iv :=
  let k := p / 4 + 4
  let z : Rat := 1 / (n : Rat)
  let s := (List.range k).foldl (fun (a : Rat × Rat) j => (a.1 + (if j % 2 = 0 then a.2 else -a.2) / ((2 * j + 1 : Nat) : Rat), a.2 * z * z)) ((0 : Rat), z)
  let e : Rat := 1 / (2 ^ (4 * k) : Nat)
  (fixDown (p + 8) (s.1 - e), fixUp (p + 8) (s.1 + e))

def piIv (p : Nat) : Iv :=
  let a := atanInv (p + 16) 5
  let b := atanInv (p + 16) 239
  (16 * a.1 - 4 * b.2, 16 * a.2 - 4 * b.1)

def divIv (a b : Iv) : Iv := (a.1 / b.2, a.2 / b.1)

/-- e^x / (1 + e^x) times 2^k for x below -100, where the quotient lies within 2^-140 of its numerator. -/
def sigmoidShift (p : Nat) (x : Rat) (k : Nat) : Iv :=
  let l := atanhIv (p + 200) (1 / 3)
  ((expIv p (x + (k : Rat) * l.1)).1 * (1 - pow2 (-140)), (expIv p (x + (k : Rat) * l.2)).2)

/-- 1 / (1 + e^-x). -/
def sigmoidIv (p : Nat) (x : Rat) : Iv :=
  let e := expIv p (-x)
  (1 / (1 + e.2), 1 / (1 + e.1))

/-- |tanh x| for x ≥ 0. -/
def tanhIv (p : Nat) (x : Rat) : Iv :=
  let e := expIv p (2 * x)
  (if e.1 < 1 then 0 else (e.1 - 1) / (e.1 + 1), (e.2 - 1) / (e.2 + 1))

/-- Normal distribution function at x, |x| ≤ 40: 1/2 ± φ(x) Σ x^(2n+1)/(2n+1)!!. -/
def phiIv (p : Nat) (x : Rat) : Iv :=
  let ax := if x < 0 then -x else x
  let q := p + 1400
  let n := (2 * ax * ax).ceil.toNat + p + 1500
  let s := (List.range n).foldl (fun (a : Rat × Rat) k => (a.1 + a.2, fixDown q (a.2 * ax * ax / ((2 * k + 3 : Nat) : Rat)))) ((0 : Rat), ax)
  let err : Rat := ((n * n + 16 : Nat) : Rat) / (2 ^ (p + 300) : Nat)
  let two := piIv (p + 1200)
  let r := sqrtIv (p + 1200) (2 * two.1)
  let r2 := sqrtIv (p + 1200) (2 * two.2)
  let ex := expIvWide q (-(ax * ax) / 2)
  let t : Iv := (ex.1 / r2.2 * (s.1 - err), ex.2 / r.1 * (s.1 + err))
  if x < 0 then (if t.2 < 1 / 2 then 1 / 2 - t.2 else 0, 1 / 2 - t.1) else (1 / 2 + t.1, 1 / 2 + t.2)
where
  /-- exp without the range cut, for arguments down to -800. -/
  expIvWide (q : Nat) (y : Rat) : Iv :=
    let e := expSmall q (y / (2 ^ 14 : Nat))
    (List.range 14).foldl (fun a _ => (fixDown q (a.1 * a.1), fixUp q (a.2 * a.2))) e

/-! ## Values that may be irrational -/

/-- A result before rounding: exact, or of a sign and enclosed ever more tightly. -/
inductive RV where
  | val (v : Val)
  | iv (neg : Bool) (f : Nat → Iv)

/-- Apply a rounding to an enclosed magnitude: as soon as both bounds agree (log entry 31). -/
def settle {β : Type} [DecidableEq β] (r : Rat → β) (f : Nat → Iv) : β :=
  let go := fun p => let b := f p; let l := r b.1; if l = r b.2 then some l else none
  match go 48 with
  | some v => v
  | none => match go 200 with
    | some v => v
    | none => match go 700 with
      | some v => v
      | none => r (f 700).1

/-- Round a result into FP16 or BF16. -/
def RV.to16 (f : Nat) (v : RV) (r : Option Nat) : Nat × Counters :=
  match v with
  | .val v => Sys2Proof.Machine.to16 f v r
  | .iv n g => settle (fun m => Sys2Proof.Machine.to16 f (.fin n m) r) g

/-- Round a result to the form of R252: 20 significant bits, no negative zero. -/
def RV.rn20 (v : RV) : Val :=
  match v with
  | .val (.fin n m) => if m = 0 then .zero else .fin n (roundSig 20 m none)
  | .val w => w
  | .iv n g => .fin n (settle (fun m => roundSig 20 m none) g)

/-! ## Operations on exact values -/

def vDiv (a b : Val) : Val :=
  match a, b with
  | .nan, _ => .nan
  | _, .nan => .nan
  | .inf _, .inf _ => .nan
  | .inf m, .fin n _ => .inf (m != n)
  | .fin m _, .inf n => .fin (m != n) 0
  | .fin m p, .fin n q => if q = 0 then (if p = 0 then .nan else .inf (m != n)) else .fin (m != n) (p / q)

/-- a < b for values that are not NaN, with -0 below +0. -/
def vLt (a b : Val) : Bool :=
  match a, b with
  | .inf m, .inf n => m && !n
  | .inf m, _ => m
  | _, .inf n => !n
  | .fin m p, .fin n q =>
    let u := if m then -p else p
    let w := if n then -q else q
    decide (u < w) || (decide (u = w) && m && !n && decide (p = 0))
  | _, _ => false

def vMax (a b : Val) : Val := if a.isNan || b.isNan then .nan else if vLt a b then b else a
def vMin (a b : Val) : Val := if a.isNan || b.isNan then .nan else if vLt b a then b else a
def vAbs : Val → Val
  | .nan => .nan
  | .inf _ => .inf false
  | .fin _ m => .fin false m

def vOne : Val := .fin false 1

def vSqrt (a : Val) : RV :=
  match a with
  | .nan => .val .nan
  | .inf n => .val (if n then .nan else .inf false)
  | .fin n m => if m = 0 then .val (.fin n 0) else if n then .val .nan else .iv false fun p => sqrtIv p m

def vRsqrt (a : Val) : RV :=
  match a with
  | .nan => .val .nan
  | .inf n => .val (if n then .nan else .fin false 0)
  | .fin n m => if m = 0 then .val (.inf n) else if n then .val .nan else .iv false fun p => divIv (1, 1) (sqrtIv p m)

def vExp (a : Val) : RV :=
  match a with
  | .nan => .val .nan
  | .inf n => .val (if n then .fin false 0 else .inf false)
  | .fin n m => if m = 0 then .val vOne else .iv false fun p => expIv p (if n then -m else m)

def vLog (a : Val) : RV :=
  match a with
  | .nan => .val .nan
  | .inf n => .val (if n then .nan else .inf false)
  | .fin n m =>
    if m = 0 then .val (.inf true) else if n then .val .nan else if m = 1 then .val (.fin false 0)
    else if m < 1 then .iv true fun p => let b := lnIv p m; (-b.2, -b.1)
    else .iv false fun p => lnIv p m

def vSigmoid (a : Val) : RV :=
  match a with
  | .nan => .val .nan
  | .inf n => .val (if n then .fin false 0 else vOne)
  | .fin n m => if m = 0 then .val (.fin false (1 / 2)) else .iv false fun p => sigmoidIv p (if n then -m else m)

def vTanh (a : Val) : RV :=
  match a with
  | .nan => .val .nan
  | .inf n => .val (.fin n 1)
  | .fin n m => if m = 0 then .val (.fin n 0) else .iv n fun p => tanhIv p m

/-- a × Φ(a); at -∞ the product ∞ × 0 (log entry 32). -/
def vGelu (a : Val) : RV :=
  match a with
  | .nan => .val .nan
  | .inf n => .val (if n then .nan else .inf false)
  | .fin n m =>
    if m = 0 then .val (.fin n 0)
    else if 40 < m then (if n then .iv true fun _ => (pow2 (-300), pow2 (-290)) else .iv false fun _ => (m * (1 - pow2 (-300)), m * (1 - pow2 (-301))))
    else .iv n fun p => let b := phiIv p (if n then -m else m); (m * b.1, m * b.2)

/-- a / (1 + e^-a); at -∞ the quotient ∞ / ∞ (log entry 32). -/
def vSilu (a : Val) : RV :=
  match a with
  | .nan => .val .nan
  | .inf n => .val (if n then .nan else .inf false)
  | .fin n m => if m = 0 then .val (.fin n 0) else .iv n fun p => let b := sigmoidIv p (if n then -m else m); (m * b.1, m * b.2)

/-! ## Sums in the lane order (R314) -/

def Acc20.zero : Acc20 := ⟨0, .fin⟩

def Acc20.addVal (a : Acc20) (v : Val) : Acc20 := ⟨Sys2Proof.Machine.rn20 (a.v + v.rat), a.sp.join (Sp.ofVal v)⟩
def Acc20.add (a b : Acc20) : Acc20 := ⟨Sys2Proof.Machine.rn20 (a.v + b.v), a.sp.join b.sp⟩

def pairUp : List Acc20 → List Acc20
  | a :: b :: t => a.add b :: pairUp t
  | l => l

/-- reduce: 32 lanes, then a tree. -/
def reduce (vs : List Val) : Acc20 :=
  let parts := (List.range 32).map fun p => ((vs.drop p).zipIdx.filter fun e => e.2 % 32 == 0).foldl (fun a e => a.addVal e.1) Acc20.zero
  (pairUp (pairUp (pairUp (pairUp (pairUp parts))))).headD Acc20.zero

def rn20V (v : Val) : Val := (RV.val v).rn20

end Sys2Proof.Machine
end

