-- ==== Sys2Proof/Machine/Vse.lean ====
section
/-! DEFINITION. The Vector Stream Engine: stream tables, instructions, operations, programs (06). -/
namespace Sys2Proof.Machine

/-! ## Streams and instructions (R292 to R299) -/

/-- A stream descriptor: its 12 words. -/
structure VStream where
  ws : List Word
deriving DecidableEq, Repr

namespace VStream
variable (t : VStream)
def f (k lo w : Nat) : Nat := bits (wd t.ws k) lo w
def base : Nat := t.f 0 0 24
def fmt : Nat := t.f 0 24 4
def gs : Nat := t.f 0 28 2
def g : Nat := groupOf t.gs
def sbase : Nat := t.f 1 0 24
def s0 : Nat := t.f 1 24 8
def tid : Nat := t.f 2 0 24
def gran0 : Nat := t.f 3 0 32
def n0 : Nat := t.f 4 0 16
def n1 : Nat := t.f 4 16 16
def n2 : Nat := t.f 5 0 16
def n3 : Nat := t.f 5 16 16
def s1 : Nat := t.f 6 0 24
def s2 : Nat := t.f 7 0 24
def s3 : Nat := t.f 8 0 24
def elem0 : Nat := t.f 9 0 32 + 2 ^ 32 * t.f 10 0 16
def scaled : Bool := fmtScaled t.fmt
/-- Rows: every combination of the three outer indices. -/
def rows : Nat := t.n1 * t.n2 * t.n3
def shape : Nat × Nat × Nat × Nat := (t.n0, t.n1, t.n2, t.n3)
def i1 (r : Nat) : Nat := r % max 1 t.n1
def i2 (r : Nat) : Nat := r / max 1 t.n1 % max 1 t.n2
def i3 (r : Nat) : Nat := r / max 1 t.n1 / max 1 t.n2
/-- SSM offset of element 0 of row `r` (R293). -/
def rowAt (r : Nat) : Nat := t.base + t.i1 r * t.s1 + t.i2 r * t.s2 + t.i3 r * t.s3
/-- The row is read for the first time: no index of a dimension of stride 0 has moved (R295). -/
def fresh (r : Nat) : Bool := !(t.s1 == 0 && t.i1 r != 0) && !(t.s2 == 0 && t.i2 r != 0) && !(t.s3 == 0 && t.i3 r != 0)
/-- Bytes from the first to the last element of a row. -/
def rowLen : Nat := elemBytes t.fmt ((t.n0 - 1) * t.s0 + 1)
def groups : Nat := t.n0 / t.g * t.rows
/-- Bytes that the stream reaches from SSM offset 0, `extra` being the least length of a row. -/
def reach (extra : Nat) : Nat := t.base + (t.n1 - 1) * t.s1 + (t.n2 - 1) * t.s2 + (t.n3 - 1) * t.s3 + max extra t.rowLen

/-- Granule at SSM granule number `ga` of cluster base `a0`, with its scale block (R297). -/
def gran (a0 ga op : Nat) : Gran :=
  let ix := (t.gran0 + 2 ^ 32 + ga - t.base / 1024) % 2 ^ 32
  if t.scaled then
    let gb := elemBytes t.fmt t.g
    let k0 : Int := ((1024 * ga : Nat) : Int) / (gb : Int) - ((t.base / gb : Nat) : Int)
    let gpg := 1024 / gb
    let real := min gpg ((t.groups : Int) - k0).toNat
    ⟨a0 + 1024 * ga, ((a0 + t.sbase : Nat) + 2 * k0 : Int).toNat, 2 * real, 2 * (gpg - real), t.tid, ix, op⟩
  else plainGran (a0 + 1024 * ga) t.tid ix op

/-- Granules that row `r` touches, `extra` as in `reach`. -/
def rowGrans (a0 r extra op : Nat) : List Gran :=
  let a := t.rowAt r
  let gs := if t.s0 ≤ 1 then (granPieces a (max extra t.rowLen)).map fun p => p.1 / 1024
    else ((List.range t.n0).map fun i => (a + elemBytes t.fmt (i * t.s0)) / 1024).eraseDups
  gs.map fun k => t.gran a0 k op
end VStream

/-- An instruction: its four words. -/
structure VInstr where
  ws : List Word
deriving DecidableEq, Repr

namespace VInstr
variable (i : VInstr)
def f (k lo w : Nat) : Nat := bits (wd i.ws k) lo w
def op : Nat := i.f 0 0 8
def out : Nat := i.f 0 8 4
/-- Input stream index of slot `k`. -/
def inp (k : Nat) : Nat := i.f 0 (12 + 4 * k) 4
def rnd : Bool := bit (wd i.ws 0) 24
def sa : Nat := i.f 1 0 5
def sb : Nat := i.f 1 5 5
def sc : Nat := i.f 1 10 5
def causal : Bool := bit (wd i.ws 1) 15
def lg : Nat := i.f 2 0 8
def role : Nat := i.f 2 8 2
def qctl : Nat := i.f 3 0 24
/-- Number of inputs, and the slot that names a stats stream (9: none); none: reserved VOP (R315). -/
def kind : Option (Nat × Nat) :=
  let o := i.op
  if o = 0x05 ∨ o = 0x0C ∨ o = 0x2A then some (3, 9)
  else if o = 0x2B then some (3, 1)
  else if o = 0x2D then some (3, 2)
  else if o = 0x2C ∨ o = 0x2E then some (2, 1)
  else if o = 0x02 ∨ o = 0x03 ∨ o = 0x04 ∨ o = 0x06 ∨ o = 0x07 ∨ o = 0x0D ∨ o = 0x10 ∨ o = 0x29 then some (2, 9)
  else if o = 0x01 ∨ (0x08 ≤ o ∧ o ≤ 0x0B) ∨ (0x11 ≤ o ∧ o ≤ 0x1A) ∨ (0x20 ≤ o ∧ o ≤ 0x24) ∨ o = 0x28 ∨ o = 0x30 ∨
    o = 0x38 ∨ o = 0x39 then some (1, 9)
  else none
def arity : Nat := (i.kind.getD (0, 9)).1
def statSlot : Nat := (i.kind.getD (0, 9)).2
/-- Inputs in use. -/
def ins : List Nat := (List.range i.arity).map i.inp
def reduces : Bool := decide (0x20 ≤ i.op ∧ i.op ≤ 0x24)
def tileq : Bool := i.op == 0x38 || i.op == 0x39
def uses (ix : Nat) : Bool := i.ins.contains ix
end VInstr

/-- A program: table and instructions. -/
structure Prog where
  tab : List VStream
  ins : List VInstr
deriving DecidableEq, Repr

def Prog.st (p : Prog) (k : Nat) : VStream := p.tab.getD k ⟨[]⟩

/-- Split program bytes (R302). -/
def mkProg (bs : List Byte) (ns ni : Nat) : Prog :=
  let ws := toWords bs
  { tab := (List.range ns).map fun k => ⟨(ws.drop (12 * k)).take 12⟩,
    ins := (List.range ni).map fun k => ⟨(ws.drop (12 * ns + 4 * k)).take 4⟩ }

/-! ## Format checks (R306) -/

abbrev Shape := Nat × Nat × Nat × Nat

/-- Equal shapes; the shape of ACC and TILEQ values is that of the other side. -/
def sameShape (a b : Option Shape) : Bool := match a, b with | some u, some v => u == v | _, _ => true
def sameRows (a b : Option Shape) : Bool := match a, b with | some u, some v => u.2 == v.2 | _, _ => true

/-- Shape of the value that an instruction passes on: of its output stream, else of an input whose shape is known, for they are
equal (R300, R301). ACC and TILEQ values are as wide as the GEMM. -/
def Prog.outShape (p : Prog) : List VInstr → Option Shape
  | [] => none
  | i :: prev =>
    if i.out < 8 then some (p.st i.out).shape
    else if i.op = 0x39 then none
    else
      let known := fun k =>
        if k = i.statSlot then none else if i.inp k < 8 then some (p.st (i.inp k)).shape else if i.inp k = 0xD then p.outShape prev else none
      let a := (List.range i.arity).findSome? known
      if i.reduces then a.map fun s => (1, s.2) else a

/-- The stream descriptor of table entry `t` is faulty; `outs`: it is an output. -/
def VStream.bad (t : VStream) (epi : Bool) (isOut isStat : Bool) : Bool :=
  t.f 0 30 2 != 0 || t.f 2 24 8 != 0 || t.f 6 24 8 != 0 || t.f 7 24 8 != 0 || t.f 8 24 8 != 0 || t.f 10 16 16 != 0 || t.f 11 0 32 != 0 ||
  t.n0 == 0 || t.n1 == 0 || t.n2 == 0 || t.n3 == 0 || decide (BF16 < t.fmt) || (t.scaled && t.gs == 3) ||
  (epi && (t.n2 != 1 || t.n3 != 1)) ||
  decide (ssmSize < t.reach (if isStat then 8 else 0)) ||
  (t.scaled && (t.s0 != 1 || t.n0 % t.g != 0 || t.base % elemBytes t.fmt t.g != 0 || decide (ssmSize < t.sbase + 2 * t.groups))) ||
  (isOut && (t.base % 1024 != 0 || t.s0 != 1 || t.s1 != elemBytes t.fmt t.n0 || t.s2 != t.n1 * t.s1 || t.s3 != t.n2 * t.s2))

/-- The QUANT descriptor that a QUANT instruction stands for (R327). -/
def quantPseudo (x : Inst) (i : VInstr) (out : VStream) (inFmt inGs : Nat) (rows a : Nat) : Inst :=
  let src : List Nat := [4 + 2 ^ 11 + x.job * 2 ^ 16, 0, 0, 0, 0, 0, a % 2 ^ 32, a / 2 ^ 32, a % 2 ^ 32, a / 2 ^ 32, rows, 2 ^ 16, 0,
    out.n0 + inFmt * 2 ^ 20 + out.fmt * 2 ^ 24 + out.gs * 2 ^ 28 + inGs * 2 ^ 30, out.tid + i.lg * 2 ^ 24, i.qctl]
  { x with words := src.map (BitVec.ofNat 32) }

/-- Input format of a QUANT instruction; values passed on count as unscaled. -/
def Prog.quantIn (p : Prog) (i : VInstr) : Nat × Nat :=
  if i.inp 0 < 8 then ((p.st (i.inp 0)).fmt, if (p.st (i.inp 0)).scaled then (p.st (i.inp 0)).gs else 0) else (BF16, 0)

/-- The output set of a QUANT instruction (R327): its rows, and the set row of stream row 0. A basic VSTREAM takes its options
from the entry and rounds gradients stochastically (R165, R305). Dither and rotation indices count from row 0 of that set, as a
QUANT descriptor with SLICE0 = 0 counts; the OUT stream's ELEM0 (R293) plays no part (DESIGN CHOICE, log entry 73). -/
def State.quantCfg (s : State) (x : Inst) (cl row0 : Nat) (basic : Bool) (p : Prog) (i : VInstr) (epi : Bool) (e : Entry) : QCfg :=
  let ot := p.st i.out
  let q := if basic then e.basicQctl else i.qctl % 2 ^ 22
  let rnd := if basic then i.role == 2 else bit q 5
  mkQCfg q e (s.ssm0 cl + ot.base) (if epi then row0 + ot.n1 else ot.rows) ot.n0 ot.fmt ot.gs ot.tid rnd (s.seed x) x.step

/-- A QUANT instruction whose fields, read as a QUANT descriptor, break R190, or whose output set leaves the SSM (R306, R327). A
basic one takes its fields from its recipe entry; where that entry cannot be read, the program ends for it. -/
def State.quantFault (s : State) (x : Inst) (cl row0 : Nat) (basic : Bool) (p : Prog) (i : VInstr) (epi : Bool) : Bool :=
  let ot := p.st i.out
  let judge := fun q => (worst (s.badQuant (quantPseudo x i ot (p.quantIn i).1 (p.quantIn i).2 ot.rows (s.ssm0 cl + ot.base)) (some q))).isSome
  decide (2 ^ 24 ≤ ot.rows) || match s.entry x i.lg i.role with
  | .error _ => !basic && judge (i.qctl % 2 ^ 22)
  | .ok e => !e.sliceOk || judge (if basic then e.basicQctl else i.qctl % 2 ^ 22) ||
      decide (ssmSize < (s.quantCfg x cl row0 basic p i epi e).o.end_ - s.ssm0 cl)

/-- Instruction `i`, with the instructions before it (nearest first), is faulty. -/
def State.instrBad (s : State) (x : Inst) (p : Prog) (epi basic core : Bool) (i : VInstr) (prev : List VInstr) : Bool :=
  let ns := p.tab.length
  let named := fun ix => decide (ns ≤ ix) && decide (ix < 12)
  let shp := fun ix => if ix < 8 then some (p.st ix).shape else if ix = 0xD then p.outShape prev else none
  let out : Option Shape := if i.out < 8 then some (p.st i.out).shape else none
  let inBad := fun (k : Nat) =>
    let ix := i.inp k
    let ref : Option Shape := out.or ((List.range i.arity).findSome? fun j => if j = i.statSlot then none else shp (i.inp j))
    ix == 0xF || (ix == 0xD && (prev.isEmpty || core)) || ((ix == 0xC || ix == 0xE) && !epi) || ((ix == 0xC) != i.tileq) ||
    (k == i.statSlot && (decide (8 ≤ ix) || (p.st ix).scaled || !sameRows (shp ix) ref)) ||
    (k != i.statSlot && (if i.reduces then (match out with | some o => o.1 != 1 || !sameRows (shp ix) out | none => false)
      else if i.tileq then false else !sameShape (shp ix) ref))
  i.kind.isNone || i.f 0 25 7 != 0 || i.f 1 16 16 != 0 || i.f 2 10 22 != 0 || i.f 3 24 8 != 0 ||
  (i.op != 0x30 && (i.f 2 0 10 != 0 || i.qctl != 0)) || (basic && (i.rnd || i.qctl != 0)) ||
  named i.out || named (i.inp 0) || named (i.inp 1) || named (i.inp 2) ||
  i.out == 0xC || i.out == 0xE || i.out == 0xF || (core && i.out == 0xD) ||
  (List.range i.arity).any inBad ||
  ((i.op == 0x2C || i.op == 0x2D) && i.inp 0 != 0xE) ||
  (decide (i.out < 8) && i.op != 0x30 && !fmt16 (p.st i.out).fmt) ||
  (i.op == 0x39 && (match out with | some o => o.1 != 4 | none => false)) ||
  (i.op == 0x38 && (match out with | some o => o.2 != (1, 1, 1) | none => false)) ||
  (i.op == 0x30 && (decide (8 ≤ i.out) || !(p.st i.out).scaled || s.quantFault x (x.queue - 0x40) (x.f 10 0 24) basic p i epi))

/-- DETAIL of the first fault of a program (R306): table entries, then instructions. -/
def State.progBad (s : State) (x : Inst) (p : Prog) (epi basic core : Bool) : Option Nat :=
  let tab := (p.tab.zipIdx).map fun e =>
    (e.1.bad epi (p.ins.any fun i => i.out == e.2) (p.ins.any fun i => (decide (i.statSlot < 3) && i.inp i.statSlot == e.2) || (i.op == 0x39 && i.out == e.2)), 0x40 + e.2)
  let ins := (p.ins.zipIdx).map fun e => (s.instrBad x p epi basic core e.1 (p.ins.take e.2).reverse, 0x80 + e.2)
  worst (tab ++ ins)

/-! ## Reading rows -/

/-- A row as an instruction sees it: values, granules to check, ranges read, position and address of subnormal elements read,
and scale words and codes where it holds stored groups. -/
structure RowIn where
  vals : List Val
  need : List Gran
  use : List (Nat × Nat)
  sub : List (Nat × Nat)
  sws : List Nat
  codes : List Nat
deriving DecidableEq, Repr

def RowIn.of (vs : List Val) : RowIn := ⟨vs, [], [], [], [], []⟩

/-- Row `r` of a stream. -/
def State.vrow (s : State) (x : Inst) (cl : Nat) (t : VStream) (ix r : Nat) : RowIn :=
  let a0 := s.ssm0 cl
  let a := t.rowAt r
  let one := fun i => leNat (s.rdx x (a0 + a + elemBytes t.fmt (i * t.s0)) (elemBytes t.fmt 1))
  let codes := if t.s0 = 1 then unpackElems t.fmt t.n0 (s.rdx x (a0 + a) (elemBytes t.fmt t.n0))
    else if t.s0 = 0 then List.replicate t.n0 (one 0) else (List.range t.n0).map one
  let need := t.rowGrans a0 r 0 ix
  let use := if t.s0 ≤ 1 then [(a0 + a, t.rowLen)] else (List.range t.n0).map fun i => (a0 + a + elemBytes t.fmt (i * t.s0), elemBytes t.fmt 1)
  if t.scaled then
    let ng := t.n0 / t.g
    let prs := (List.zip (List.range ng) (pieces t.g codes)).map fun p =>
      if t.fmt = TERN ∧ p.2.contains 3 then (0xFF00, p.2.map fun _ => 0) else (leNat (s.rdx x (a0 + t.sbase + 2 * (p.1 + ng * r)) 2), p.2)
    let sub := (prs.zipIdx).flatMap fun p => if specialWord p.1.1 then [] else
      (p.1.2.zipIdx).filterMap fun q => if isSubnormal t.fmt q.1 then some (t.g * p.2 + q.2, a + elemBytes t.fmt (t.g * p.2 + q.2)) else none
    ⟨prs.flatMap fun p => p.2.map (decode t.fmt p.1), need, use ++ [(a0 + t.sbase + 2 * ng * r, 2 * ng)], if t.fresh r then sub else [],
      prs.map Prod.fst, prs.flatMap Prod.snd⟩
  else
    let sub := (codes.zipIdx).filterMap fun q => if isSubnormal t.fmt q.1 then some (q.2, a + 2 * q.2 * t.s0) else none
    ⟨codes.map (decode t.fmt 0), need, use, if t.fresh r then (if t.s0 = 0 then sub.take 1 else sub) else [], [], []⟩

/-- A stats entry: its four 16-bit fields (R325, R329). -/
def State.statEntry (s : State) (x : Inst) (cl : Nat) (t : VStream) (r : Nat) : List Nat :=
  (pieces 2 (s.rdx x (s.ssm0 cl + t.rowAt r) 8)).map leNat

/-! ## The operations on one row (R312 to R316, R325, R330 to R332) -/

def bfVal (c : Nat) : Val := decodeFloat (floatFmt BF16) (c % 65536)
/-- rnbf of R313: a BF16 code, and the code with its counts. -/
def rnbf (v : RV) (r : Option Nat) : Nat := (v.to16 BF16 r).1
def rnbfC (v : RV) (r : Option Nat) : Nat × Counters := v.to16 BF16 r

/-- BF16 rounded towards +∞. -/
def bf16Ceil (v : Val) : Val :=
  match v with
  | .fin false m => bfVal (bf16Up m)
  | .fin true m =>
    if m = 0 then v
    else
      let u := pow2 (ilog2 m - 7)
      let y := ((m / u).floor : Rat) * u
      if y < (floatFmt BF16).minNormal then .fin true 0
      else if (floatFmt BF16).maxFin < y then .fin true (floatFmt BF16).maxFin else .fin true y
  | v => v

/-- a > b as numbers; zeros are equal. -/
def vGt (a b : Val) : Bool :=
  match a, b with
  | .fin _ _, .fin _ _ => decide (b.rat < a.rat)
  | _, _ => vLt b a

/-- Element-wise operations. -/
def vElem (op : Nat) (sa sb : Val) (a b c : Val) : RV :=
  if op = 0x01 then .val a
  else if op = 0x02 then .val (vAdd a b)
  else if op = 0x03 then .val (vAdd a (vNeg b))
  else if op = 0x04 then .val (vMul a b)
  else if op = 0x05 then .val (vAdd (vMul a b) c)
  else if op = 0x06 then .val (vMin a b)
  else if op = 0x07 then .val (vMax a b)
  else if op = 0x08 then .val (vAbs a)
  else if op = 0x09 then .val (vNeg a)
  else if op = 0x0A then .val (vAdd (vMul a sa) sb)
  else if op = 0x0B then .val (vMin (vMax a sa) sb)
  else if op = 0x0C then .val (if a.isNan || b.isNan || c.isNan then .nan else if c.isZero then b else a)
  else if op = 0x0D then .val (if a.isNan || b.isNan then .nan else if vGt a b then vOne else .zero)
  else if op = 0x10 then .val (vDiv a b)
  else if op = 0x11 then .val (vDiv vOne a)
  else if op = 0x12 then vSqrt a
  else if op = 0x13 then vRsqrt a
  else if op = 0x14 then vExp a
  else if op = 0x15 then vLog a
  else if op = 0x16 then vSigmoid a
  else if op = 0x17 then vTanh a
  else if op = 0x18 then .val (vMax a .zero)
  else if op = 0x19 then vGelu a
  else vSilu a

def vMaxOf (l : List Val) : Val := match l with | [] => .inf true | v :: t => t.foldl vMax v
def vMinOf (l : List Val) : Val := match l with | [] => .inf false | v :: t => t.foldl vMin v

def vReduce (op : Nat) (a : List Val) : Val :=
  if op = 0x20 then (reduce a).toVal
  else if op = 0x21 then (reduce (a.map fun v => vMul v v)).toVal
  else if op = 0x22 then vMaxOf a
  else if op = 0x23 then vMinOf a
  else vMaxOf (a.map vAbs)

/-- A scalar that stands for 1 when it is zero. -/
def oneIfZero (v : Val) : Val := if v.isZero then vOne else v

def vSoftmax (sa : Val) (a : List Val) : List Val :=
  let t := a.map fun v => vMul v (oneIfZero sa)
  let m := vMaxOf t
  let e := t.map fun v => (vExp (vAdd v (vNeg m))).rn20
  let l := (reduce e).toVal
  e.map fun v => vDiv v l

def vCount (n : Nat) : Val := .fin false n

def vRmsNorm (eps : Val) (a b : List Val) : List Val :=
  let ms := rn20V (vDiv (reduce (a.map fun v => vMul v v)).toVal (vCount a.length))
  let rho := (vRsqrt (vAdd ms eps)).rn20
  List.zipWith (fun u v => vMul (vMul u rho) v) a b

def vLayerNorm (eps : Val) (a b c : List Val) : List Val :=
  let mu := rn20V (vDiv (reduce a).toVal (vCount a.length))
  let d := a.map fun v => vAdd v (vNeg mu)
  let var := rn20V (vDiv (reduce (d.map fun v => vMul v v)).toVal (vCount a.length))
  let rho := (vRsqrt (vAdd var eps)).rn20
  List.zipWith vAdd (List.zipWith (fun u v => vMul (vMul u rho) v) d b) c

/-- What an operation makes of a row: output codes with counts, and a rewritten stats entry, its fields with theirs (R161, R313). -/
structure RowOut where
  codes : List (Nat × Counters)
  stats : Option (List (Nat × Counters))
deriving DecidableEq, Repr

/-- SMAX_BLOCK (R330). `free` gives the dither of the BF16 roundings, `mask` the masked columns. -/
def smaxBlock (sa : Val) (e : List Nat) (acc : List Val) (mask : Nat → Bool) (rn : Nat → RV → Nat × Counters)
    (val : Nat → Val) (free : Nat → Option Nat) : RowOut :=
  let t := acc.map fun v => vMul v (oneIfZero sa)
  let em := bfVal (e.getD 0 0)
  let bmax := bf16Ceil (vMaxOf ((t.zipIdx.filter fun p => !mask p.2).map Prod.fst))
  let m := vMax em bmax
  let low := m == .inf true
  let alpha : Nat × Counters := if low then (0x3F80, {}) else if em == .inf true then (0, {}) else rnbfC (vExp (vAdd em (vNeg m))) (free 0)
  let p := (t.zipIdx).map fun q => if low || mask q.2 then (0, {}) else rn q.2 (vExp (vAdd q.1 (vNeg m)))
  let av := bfVal alpha.1
  let l := (reduce (vMul av (bfVal (e.getD 1 0)) :: vMul av (bfVal (e.getD 2 0)) :: p.map fun q => val q.1)).toVal
  let hi := rnbfC (.val l) (free 1)
  let lo := rnbfC (.val (vAdd l (vNeg (bfVal hi.1)))) (free 2)
  ⟨p, some [to16 BF16 m none, hi, lo, alpha]⟩

/-- How an instruction rounds its outputs. -/
structure VOut where
  fmt : Nat
  rnd : Rnd
  /-- element index of the row's first element -/
  e0 : Nat
deriving DecidableEq, Repr

def VOut.rn (o : VOut) (j : Nat) (v : RV) : Nat × Counters := v.to16 o.fmt (o.rnd.at_ (o.e0 + j))

def VOut.all (o : VOut) (vs : List RV) : List (Nat × Counters) := (vs.zipIdx).map fun p => o.rn p.2 p.1

/-- One row of an instruction other than QUANT and the TILEQ operations. -/
def vRowOp (i : VInstr) (o : VOut) (sc : Nat → Nat) (row : Nat) (free : Nat → Option Nat) (a b c : List Val) (e : List Nat) : RowOut :=
  let sa := bfVal (sc i.sa)
  let sb := bfVal (sc i.sb)
  let pad := fun (l : List Val) => l ++ List.replicate (a.length - l.length) Val.zero
  let hiLo := fun k => vAdd (bfVal (e.getD k 0)) (bfVal (e.getD (k + 1) 0))
  if i.op ≤ 0x1A then
    ⟨o.all ((List.zip a (List.zip (pad b) (pad c))).map fun p => vElem i.op sa sb p.1 p.2.1 p.2.2), none⟩
  else if i.reduces then ⟨o.all [.val (vReduce i.op a)], none⟩
  else if i.op = 0x28 then ⟨o.all ((vSoftmax sa a).map RV.val), none⟩
  else if i.op = 0x29 then ⟨o.all ((vRmsNorm sa a b).map RV.val), none⟩
  else if i.op = 0x2A then ⟨o.all ((vLayerNorm sa a b c).map RV.val), none⟩
  else if i.op = 0x2B then
    ⟨o.all ((List.zip a c).map fun p => RV.val (vMul (vMul (vAdd p.1 (vNeg (hiLo 0))) (hiLo 2)) p.2)), none⟩
  else if i.op = 0x2C then
    smaxBlock sa e a (fun j => i.causal && decide (sc i.sb % 2 ^ 24 + row < sc i.sc % 2 ^ 24 + j)) o.rn
      (fun k => decodeFloat (floatFmt o.fmt) k) free
  else if i.op = 0x2D then
    let al := bfVal (e.getD 3 0)
    ⟨o.all ((List.zip a b).map fun p => RV.val (vAdd (if al.isZero then .zero else vMul al p.2) p.1)), none⟩
  else
    let l := hiLo 1
    ⟨if l.isZero then a.map fun _ => (0, {}) else o.all (a.map fun v => RV.val (vDiv v l)), none⟩

/-! ## Chains of instructions -/

/-- Where a program runs: descriptor (or a stand-in for a core), cluster, scalars, and the rows at hand with the
accumulator values of a GEMM (R322); `row0` is the whole-tensor row of stream row 0. -/
structure VEnv where
  x : Inst
  cl : Nat
  sc : List Nat
  rows : List Nat
  acc : List (List Val)
  row0 : Nat
  basic : Bool
  /-- tile block sizes of the GEMM -/
  bm : Nat
  bn : Nat
  /-- the scalars as an instruction that issues now reads them (R308) -/
  late : List Nat
deriving DecidableEq, Repr

def VEnv.scalar (v : VEnv) (k : Nat) : Nat := if k = 0 then 0 else v.sc.getD k 0

/-- One instruction's effect: a piece per row, what it writes at its end, the values it passes on, the layer group
of its counts, and values to hold. -/
structure Link where
  rows : List Chunk
  fin : Chunk
  prev : List (List Val)
  lg : Nat
  held : List (Nat × List Val)
  bad : Option (Nat × Nat)
deriving DecidableEq, Repr

/-- Where the result of instruction `k` goes when it is only passed on: format, tensor ID and indices of the next
instruction that writes an unscaled stream; BF16 where there is none (log entry 33). -/
def Prog.outOf (p : Prog) (i : VInstr) (later : List VInstr) : VStream × Nat :=
  if i.out < 8 then (p.st i.out, (p.st i.out).fmt)
  else match later.find? fun j => decide (j.out < 8) && fmt16 (p.st j.out).fmt with
    | some j => (p.st j.out, (p.st j.out).fmt)
    | none => (⟨[]⟩, BF16)

/-- Dither of the BF16 roundings of row `r`'s stats entry in stream `t` under RND = 1, for which the spec gives no index: a free
value of the seed, tensor, step and row, so that a rerun draws the same (R163, R403; log entry 8). -/
def State.vFree (s : State) (x : Inst) (rnd : Bool) (t : VStream) (r k : Nat) : Option Nat :=
  if rnd then some (Config.statDither (s.seed x) t.tid x.step (t.elem0 + r) k).toNat else none

/-- The result is a gradient that the firmware rounds stochastically in a basic VSTREAM (R165, R305): a QUANT instruction of the
program with the gradient role takes it, from its stream or as PREV. Of a result that no QUANT takes, no field names a role; whether
its tensor is a gradient is free (Config.gradientTensor, log entry 36). -/
def Prog.gradient (p : Prog) (i : VInstr) (later : List VInstr) : Bool :=
  (decide (i.out < 8) && p.ins.any fun q => q.op == 0x30 && q.role == 2 && q.inp 0 == i.out) ||
  (i.out == 0xD && match later with | q :: _ => q.op == 0x30 && q.role == 2 && q.inp 0 == 0xD | [] => false)

/-- Fields of a stats entry that an operation reads. -/
def VInstr.statFields (i : VInstr) : List Nat :=
  if i.op = 0x2B then [0, 1, 2, 3] else if i.op = 0x2C then [0, 1, 2] else if i.op = 0x2D then [3] else if i.op = 0x2E then [1, 2] else []

/-- A plain instruction over the rows at hand. `seen`: addresses of subnormal elements already counted (R142). -/
def State.plainLink (s : State) (v : VEnv) (p : Prog) (i : VInstr) (later : List VInstr) (prev : List (List Val)) (seen : List Nat) :
    Link × List Nat :=
  let (ot, fmt) := p.outOf i later
  let a0 := s.ssm0 v.cl
  let rnd := i.rnd || (v.basic && (p.gradient i later || Config.gradientTensor v.x.job ot.tid))
  let src := fun (k r pos : Nat) =>
    let ix := i.inp k
    if i.arity ≤ k then RowIn.of []
    else if ix = 0xD then RowIn.of (prev.getD pos [])
    else if ix = 0xE then RowIn.of (v.acc.getD pos [])
    else
      let w := s.vrow v.x v.cl (p.st ix) ix r
      match v.acc[pos]? with
      | some l => { w with vals := w.vals.take l.length }
      | none => w
  let st := p.st (i.inp i.statSlot)
  let go := (v.rows.zipIdx).foldl (fun (q : List (Chunk × List Val) × List Nat) rp =>
    let (r, pos) := rp
    let e := if i.statSlot < 3 then s.statEntry v.x v.cl st r else []
    let skip := i.op = 0x2D ∧ (bfVal (e.getD 3 0)).isZero
    let ins := [src (if i.statSlot = 0 then 3 else 0) r pos, if skip then RowIn.of (List.replicate (v.acc.getD pos []).length .zero)
      else src (if i.statSlot = 1 then 3 else 1) r pos, src (if i.statSlot = 2 then 3 else 2) r pos]
    let statSub := i.statFields.filterMap fun k => if isSubnormal BF16 (e.getD k 0) then some (st.rowAt r + 2 * k) else none
    let subs := ((ins.flatMap fun u => u.sub.map Prod.snd) ++ statSub |>.filter fun a => !q.2.contains a).eraseDups
    let n0 := if i.reduces then 1 else ot.n0
    let o : VOut := ⟨fmt, ⟨rnd, s.seed v.x, ot.tid, v.x.step⟩, ot.elem0 + n0 * r⟩
    let free := s.vFree v.x rnd st r
    let w := vRowOp i o v.scalar r free (ins.getD 0 (RowIn.of [])).vals (ins.getD 1 (RowIn.of [])).vals (ins.getD 2 (RowIn.of [])).vals e
    let b := w.codes.flatMap fun c => leBytes 2 c.1
    let last := r + 1 = ot.rows
    let len := 2 * ot.n0 * ot.rows
    let at_ := a0 + ot.base + 2 * n0 * r
    let outs := if i.out < 8 then outAt at_ b ++ (if last then outAt (a0 + ot.base + len) (List.replicate (up1k len - len) 0#8) else []) else []
    let sOut := match w.stats with | some l => outAt (a0 + st.rowAt r) (l.flatMap fun c => leBytes 2 c.1) | none => []
    let sGr := if i.statSlot < 3 then st.rowGrans a0 r 8 (i.inp i.statSlot) else []
    let ch : Chunk :=
      { need := ins.flatMap RowIn.need ++ sGr, use := ins.flatMap RowIn.use ++ (if i.statSlot < 3 then [(a0 + st.rowAt r, 8)] else []),
        outs := outs ++ sOut,
        ren := (outs.map fun g => plainGran (g.a / 1024 * 1024) ot.tid ((ot.gran0 + g.a / 1024 - (a0 + ot.base) / 1024) % 2 ^ 32) 0) ++
          (if w.stats.isSome then sGr else []),
        cnt := ((sumCnt (w.codes.map Prod.snd)).add (sumCnt ((w.stats.getD []).map Prod.snd))).add { flush := subs.length }, bad := none }
    let ch := if i.out < 8 then ch else { ch with cnt := { ch.cnt with nan := 0 } }
    (q.1 ++ [(ch, w.codes.map fun c => decodeFloat (floatFmt fmt) c.1)], q.2 ++ subs)) ([], seen)
  (⟨go.1.map Prod.fst, Chunk.empty, go.1.map Prod.snd, 255, [], none⟩, go.2)

/-- A QUANT instruction over the rows at hand; in an epilogue the rows already held come first, and a slice ends
when all its rows are there. -/
def State.quantLink (s : State) (v : VEnv) (p : Prog) (k : Nat) (i : VInstr) (epi : Bool) (prev : List (List Val)) (seen : List Nat) :
    Link × List Nat :=
  let fail := fun st d => ((⟨[], Chunk.empty, [], i.lg, [], some (st, d)⟩ : Link), seen)
  match s.entry v.x i.lg i.role with
  | .error e => fail e 0
  | .ok e =>
    let c := s.quantCfg v.x v.cl v.row0 v.basic p i epi e
    let ix := i.inp 0
    let t := p.st ix
    if s.quantFault v.x v.cl v.row0 v.basic p i epi then fail 8 (0x80 + k)
    else
      let base := if epi then v.row0 else 0
      let ins := (v.rows.zipIdx).map fun rp =>
        (rp.1 + base, if ix = 0xD then RowIn.of (prev.getD rp.2 []) else if ix = 0xE then RowIn.of (v.acc.getD rp.2 []) else s.vrow v.x v.cl t ix rp.1)
      let old := (v.x.held.filter fun h => h.1 == k).map fun h => (h.2.1, RowIn.of h.2.2)
      let all := old ++ ins
      let o := c.o
      let same := ix < 8 && t.scaled && t.fmt == o.fmt && t.gs == o.gs && !o.mx
      let read := fun gi =>
        match all.find? fun r => r.1 == gi / max 1 o.ng with
        | none => GroupIn.of (List.replicate o.g .zero) {}
        | some r =>
          let j := gi % max 1 o.ng
          let vs := (r.2.vals.drop (o.g * j)).take o.g
          ⟨vs ++ List.replicate (o.g - vs.length) .zero, {}, if r.2.sws.isEmpty then 0x10000 else r.2.sws.getD j 0, (r.2.codes.drop (o.g * j)).take o.g, none⟩
      let now := ins.map Prod.fst
      let slices := (now.map fun r => r / max 1 o.sliceRows).eraseDups
      let rs := slices.map fun sl =>
        let q := quantSlice c read same (fun col => if o.hist then s.histEntries v.x o sl col else [])
          (fun gi => if o.lscale then leNat (s.rdx v.x (o.off 6 + 2 * gi) 2) else 0) sl
        let span := o.sliceSpan sl
        let whole := (upto span.1 span.2).all fun r => decide (r < base) || all.any fun a => a.1 == r
        let hb := (sl * o.ng * 64, o.ng * 64)
        (sliceChunks c sl q (fun gi =>
          ((if o.lscale then o.sideGrans 6 (2 * gi) 2 7 else []) ++ (if o.hist then o.sideGrans 5 hb.1 hb.2 7 else []),
            (if o.lscale then [(o.off 6 + 2 * gi, 2)] else []) ++ (if o.hist then [(o.off 5 + hb.1, hb.2)] else []))),
         q.gs, if whole then s.sliceEnd v.x c sl q else ([], []))
      let chs := (rs.flatMap fun r => List.zip r.2.1 r.1)
      let per := ins.map fun r =>
        let l := chs.filter fun g => g.1.1 / max 1 o.ng == r.1
        (r.2, l)
      let go := per.foldl (fun (q : List Chunk × List Nat) r =>
        let quiet := r.2.filterMap fun g => if g.1.2.copied || decide (0xFE ≤ g.1.2.sw / 256) then some (g.1.1 % max 1 o.ng) else none
        let subs := ((r.1.sub.filter fun a => !quiet.contains (a.1 / o.g)).map Prod.snd |>.filter fun a => !q.2.contains a).eraseDups
        let ch : Chunk := { need := r.1.need ++ r.2.flatMap fun g => g.2.need, use := r.1.use ++ r.2.flatMap fun g => g.2.use, outs := r.2.flatMap fun g => g.2.outs,
                            ren := r.2.flatMap fun g => g.2.ren, cnt := (sumCnt (r.2.map fun g => g.2.cnt)).add { flush := subs.length }, bad := none,
                            part := if ix < 8 then r.2.map fun g =>
                                (t.gran (s.ssm0 v.cl) ((t.rowAt (g.1.1 / max 1 o.ng - base) + elemBytes t.fmt (g.1.1 % max 1 o.ng * o.g * t.s0)) / 1024) ix, g.2.cnt)
                              else [] }
        (q.1 ++ [ch], q.2 ++ subs)) (([], seen) : List Chunk × List Nat)
      let fin := { Chunk.empty with outs := rs.flatMap fun r => r.2.2.1, ren := rs.flatMap fun r => r.2.2.2 }
      (⟨go.1, fin, per.map fun r => r.2.flatMap fun g => g.1.2.vals o.fmt, i.lg,
        if epi then ins.map fun r => (r.1, r.2.vals) else [], none⟩, go.2)

/-- BF16 pair, with the dither of its two roundings (R313, R325). -/
def bfPair (r0 r1 : Option Nat) (v : Val) : List (Nat × Counters) :=
  let hi := to16 BF16 v r0
  [hi, to16 BF16 (vAdd v (vNeg (bfVal hi.1))) r1]

def Acc20.ofVal (v : Val) : Acc20 := ⟨v.rat, Sp.ofVal v⟩

/-- Sum over a row by column blocks (R325). -/
def blockSum (bn : Nat) (vs : List Val) : Val := ((pieces bn vs).foldl (fun a b => a.add (reduce b)) Acc20.zero).toVal

/-- The entry that ROWSTAT writes for a row. -/
def rowStat (bn : Nat) (eps : Val) (free : Nat → Option Nat) (vs : List Val) : List (Nat × Counters) :=
  let n := vCount vs.length
  let mu := rn20V (vDiv (blockSum bn vs) n)
  let ms := rn20V (vDiv (blockSum bn (vs.map fun v => vMul v v)) n)
  let var := vMax (vAdd ms (vNeg (vMul mu mu))) .zero
  bfPair (free 0) (free 1) mu ++ bfPair (free 2) (free 3) (vRsqrt (vAdd var eps)).rn20

/-- CSUM of the rows at hand on top of the sums held. -/
def colSums (bm : Nat) (start : List Val) (rows : List (List Val)) : List Val :=
  let n := (rows.map List.length).foldl max start.length
  (List.range n).map fun j =>
    ((pieces bm rows).foldl (fun a b => a.add (reduce (b.map fun r => r.getD j .zero))) (Acc20.ofVal (start.getD j .zero))).toVal

/-- A TILEQ instruction: ROWSTAT writes each row; CSUM adds to what it holds, and writes once no rows come (R325). -/
def State.tileqLink (s : State) (v : VEnv) (p : Prog) (k : Nat) (i : VInstr) (later : List VInstr) : Link :=
  let (ot, fmt) := p.outOf i later
  let a0 := s.ssm0 v.cl
  let rnd := i.rnd || (v.basic && (p.gradient i later || Config.gradientTensor v.x.job ot.tid))
  let wr := fun (r len : Nat) (b : List Byte) =>
    let tot := len * ot.rows
    let o := outAt (a0 + ot.base + len * r) b ++ (if r + 1 = ot.rows then outAt (a0 + ot.base + tot) (List.replicate (up1k tot - tot) 0#8) else [])
    (o, o.map fun g => plainGran (g.a / 1024 * 1024) ot.tid ((ot.gran0 + g.a / 1024 - (a0 + ot.base) / 1024) % 2 ^ 32) 0)
  let held := (v.x.held.find? fun h => h.1 == k).map fun h => h.2.2
  if i.op = 0x39 then
    let es := (List.zip v.rows v.acc).map fun q => rowStat v.bn (bfVal (v.scalar i.sa)) (s.vFree v.x rnd ot q.1) q.2
    { rows := (List.zip v.rows es).map fun q =>
        let w := if i.out < 8 then wr q.1 8 (q.2.flatMap fun c => leBytes 2 c.1) else ([], [])
        { Chunk.empty with outs := w.1, ren := w.2, cnt := sumCnt (q.2.map Prod.snd) },
      fin := Chunk.empty, prev := es.map fun e => e.map fun c => bfVal c.1, lg := 255, held := [], bad := none }
  else if !v.acc.isEmpty then
    { rows := v.rows.map fun _ => Chunk.empty, fin := Chunk.empty, prev := [], lg := 255,
      held := [(0, colSums v.bm (held.getD []) v.acc)], bad := none }
  else
    let sums := held.getD []
    let o : VOut := ⟨fmt, ⟨rnd, s.seed v.x, ot.tid, v.x.step⟩, ot.elem0⟩
    let cs := o.all (sums.map RV.val)
    let w := wr 0 (2 * ot.n0) ((cs.flatMap fun c => leBytes 2 c.1).take (2 * ot.n0))
    let w := if i.out < 8 then w else ([], [])
    { rows := [{ Chunk.empty with outs := w.1, ren := w.2, cnt := sumCnt (cs.map Prod.snd) }],
      fin := Chunk.empty, prev := [cs.map fun c => decodeFloat (floatFmt fmt) c.1], lg := 255, held := [], bad := none }

/-- A chain: instructions that pass their results along (R304). -/
def chains : List (Nat × VInstr) → List (List (Nat × VInstr))
  | [] => []
  | a :: t =>
    match chains t with
    | [] => [[a]]
    | c :: r => match c with
      | b :: _ => if b.2.uses 0xD then (a :: c) :: r else [a] :: c :: r
      | [] => [a] :: r

def Prog.chains (p : Prog) : List (List (Nat × VInstr)) := Sys2Proof.Machine.chains ((p.ins.zipIdx).map fun q => (q.2, q.1))

/-- The links of a chain, and the subnormal elements counted so far. A CSUM that still takes rows ends its chain. -/
def State.chainLinks (s : State) (v : VEnv) (p : Prog) (epi : Bool) : List (Nat × VInstr) → List (List Val) → List Nat → List (Nat × Link) × List Nat
  | [], _, seen => ([], seen)
  | (k, i) :: t, prev, seen =>
    let l := if i.op = 0x30 then s.quantLink v p k i epi prev seen
      else if i.tileq then (s.tileqLink v p k i (t.map Prod.snd), seen) else s.plainLink v p i (t.map Prod.snd) prev seen
    if i.op = 0x38 ∧ !v.acc.isEmpty then ([(k, l.1)], l.2)
    else
      let r := s.chainLinks v p epi t l.1.prev l.2
      ((k, l.1) :: r.1, r.2)

/-- Several pieces as one. -/
def mergeChunks (l : List Chunk) : Chunk :=
  { need := l.flatMap Chunk.need, use := l.flatMap Chunk.use, outs := l.flatMap Chunk.outs, ren := l.flatMap Chunk.ren,
    cnt := sumCnt (l.map Chunk.cnt), bad := l.findSome? Chunk.bad, who := l.findSome? Chunk.who, part := l.flatMap Chunk.part, car := l.flatMap Chunk.car }

/-- What running a chain leaves: the state, the counts, and the halt. -/
structure VRun where
  s : State
  cnt : Counters
  seen : List Nat
  halt : Option Halt
deriving DecidableEq, Repr

/-- Run a chain over the rows at hand (R229, R230, R304). Values to hold go to the instance. -/
def State.runChain (s : State) (v : VEnv) (p : Prog) (epi : Bool) (chain : List (Nat × VInstr)) (seen : List Nat) : VRun :=
  let (ls, seen) := s.chainLinks v p epi chain [] seen
  match ls.findSome? fun l => l.2.bad with
  | some b =>
    let es := s.entryRanges v.x ((chain.filter fun i => i.2.op == 0x30).map fun i => (i.2.lg, i.2.role))
    ⟨if b.1 = 9 then s.logHalt v.x ⟨9, 0, none, none⟩ es else s, {}, seen, some ⟨b.1, b.2, none, none⟩⟩
  | none =>
    let rows := (List.range v.rows.length).map fun k => mergeChunks (ls.map fun l => l.2.rows.getD k Chunk.empty)
    let (good, rest, halt) := s.runChunks v.x [] rows
    let fin := if halt.isNone then ls.map fun l => l.2.fin else []
    let (outs, ren) := keptOuts good rest fin halt.isSome
    let n := good.length
    let s := s.putAll v.x outs ren
    let s := ls.foldl (fun s l => s.noteCounts v.x.ctx l.2.lg (ranCounts (l.2.rows.take n) (l.2.rows.drop n) [] halt)) s
    let hs := ls.flatMap fun l => l.2.held.map fun h => (l.1, h.1, h.2)
    let s := s.modInst v.x.id fun y => { y with held := (y.held.filter fun h => !hs.any fun g => g.1 == h.1 && g.2.1 == h.2.1) ++ hs, seen := seen }
    let s := match halt with | some h => s.logHalt v.x h ((rest.head?.map Chunk.ranges).getD []) | none => s
    ⟨s, ranCounts good rest [] halt, seen, halt⟩

/-- Rows over which a chain that takes no GEMM values runs: those of its first instruction's shape. -/
def Prog.chainRows (p : Prog) (chain : List (Nat × VInstr)) : Nat :=
  match chain with
  | (_, i) :: _ => if i.inp 0 < 8 then (p.st (i.inp 0)).rows else if i.out < 8 then (p.st i.out).rows else 0
  | [] => 0

/-- Run chains one after another, until one halts. What is left of a CSUM's chain has issued; another chain issues now (R308). -/
def State.runChains (s : State) (v : VEnv) (p : Prog) (epi : Bool) : List (List (Nat × VInstr)) → List Nat → VRun
  | [], seen => ⟨s, {}, seen, none⟩
  | c :: t, seen =>
    let csum := c.any fun i => i.2.op == 0x38
    let r := s.runChain { v with rows := List.range (if csum then 1 else p.chainRows c), acc := [], sc := if csum then v.sc else v.late } p epi c seen
    match r.halt with
    | some _ => r
    | none =>
      let q := r.s.runChains v p epi t r.seen
      { q with cnt := r.cnt.add q.cnt }

/-! ## VSTREAM (R302 to R306, R318 to R321) -/

def Inst.badVstream (x : Inst) : List (Bool × Nat) :=
  x.resv 6 [0x3FFFE000, 0x3F, 0, 0xFFFFFC00, 0xFF000000] ++
  [(bit (x.w 6) 30 && !bit (x.w 6) 31, 6),
   (x.f 9 0 4 == 0 || decide (8 < x.f 9 0 4) || x.f 9 4 6 == 0 || decide (32 < x.f 9 4 6), 9)]

def Inst.progLen (x : Inst) : Nat := 48 * x.f 9 0 4 + 16 * x.f 9 4 6
def Inst.prog (x : Inst) : Prog := mkProg x.block (x.f 9 0 4) (x.f 9 4 6)
def Inst.epilogue (x : Inst) : Bool := x.opcode == 3 && bit (x.w 6) 30
def Inst.vCluster (x : Inst) : Nat := x.f 6 8 5

/-- The scalars as a VSTREAM's first instruction finds them (R307, R308): sc1 to sc26 of the cluster's core, sc27 to
sc31 of the descriptor. -/
def State.vScalars (s : State) (x : Inst) : List Nat :=
  (List.range 27).map (fun k => if k = 0 then 0 else (sget 0#32 (s.core x.vCluster).sc k).toNat) ++
  (List.range 5).map fun k => x.w (11 + k)

def State.vEnv (s : State) (x : Inst) : VEnv :=
  ⟨x, x.vCluster, if x.stage = 0 then s.vScalars x else x.slot, [], [], x.f 10 0 24, !x.expert, 1, 1, s.vScalars x⟩

/-- An ACC or TILEQ chain. -/
def gemmChain (c : List (Nat × VInstr)) : Bool := c.any fun i => i.2.uses 0xC || i.2.uses 0xE

/-- Shape of an epilogue instance: columns and rows of the stream its accumulator chain writes, else of its first
output that has a row per row of C. -/
def Prog.epiShape (p : Prog) : Nat × Nat :=
  match (p.chains.filter fun c => c.any fun i => i.2.uses 0xE).flatten.find? fun i => decide (i.2.out < 8) with
  | some i => ((p.st i.2.out).n0, (p.st i.2.out).n1)
  | none => match p.ins.find? fun i => i.op == 0x39 with
    | some i => (2 ^ 24, (p.st i.out).n1)
    | none => match p.ins.find? fun i => decide (i.out < 8) with
      | some i => ((p.st i.out).n0, (p.st i.out).n1)
      | none => (0, 0)

/-- Counts of a run go to the descriptor; their layer groups are already served. -/
def State.addCnt (s : State) (i : Nat) (c : Counters) : State := s.modInst i fun y => { y with cnt := y.cnt.add c }

/-- The GEMM serves an epilogue (R319). -/
def Inst.epiEn (x : Inst) : Bool := x.opcode == 2 && bit (x.w 12) 24

/-- A live GEMM bound to an epilogue instance (R319, R321). -/
def boundTo (e x : Inst) : Bool := x.epiEn && x.bound == some e.id && (x.phase == .started || x.phase == .waiting || x.phase == .queued)

/-- A VSTREAM ends with what it has counted; a failing epilogue instance takes its GEMMs with it, each with what it has
counted (R233, R321). -/
def State.endVstream (s : State) (i status detail : Nat) : State :=
  match s.inst? i with
  | some y =>
    let s := (s.touch (queueUnit y.queue)).endInst y status detail y.cnt
    if status ≠ 0 ∧ y.epilogue then (s.insts.filter (boundTo y)).foldl (fun s x => s.endInst x status detail x.cnt) s else s
  | none => s

/-- The program has instructions that run once every row has been received, over the rows that the GEMMs brought. -/
def Prog.lateChains (p : Prog) : Bool := (p.chains.dropWhile fun c => !gemmChain c).any fun c => !gemmChain c

/-- GEMMs that have handed over all their rows end once the last epilogue write of those rows is done (R320). -/
def State.endServed (s : State) (e : Inst) : State :=
  (s.insts.filter fun x => boundTo e x && x.phase == .started && x.stage == 1).foldl (fun s x => s.endEngine x 0 0 x.cnt (x.blk 14 10 8)) s

/-- An epilogue instance that has received every row runs what is left of its program and completes (R321). -/
def State.epiFinish (s : State) (i : Nat) : State :=
  match s.inst? i with
  | none => s
  | some x =>
    let p := x.prog
    if x.rowsSeen.length < p.epiShape.2 then s
    else
      let after := p.chains.dropWhile fun c => !gemmChain c
      let left := after.filter fun c => !gemmChain c || c.any fun k => k.2.op == 0x38
      let r := s.runChains (s.vEnv x) p true left x.seen
      let s := r.s.addCnt i r.cnt
      match r.halt with
      | some h => s.endVstream i h.status h.detail
      | none => (s.endServed x).endVstream i 0 0

/-- The first QUANT instruction whose recipe entry cannot be read: status, layer group and role. -/
def State.progEntry (s : State) (x : Inst) (p : Prog) : Option (Nat × Nat × Nat) :=
  p.ins.findSome? fun i => if i.op = 0x30 then (match s.entry x i.lg i.role with | .error st => some (st, i.lg, i.role) | .ok _ => none) else none

/-- VSTREAM: a program runs to its end; an epilogue instance runs what stands before its GEMM chains and then serves
GEMMs. -/
def State.vstream (s : State) (i : Nat) : State :=
  match s.started i 3 with
  | none => s
  | some x =>
    if x.stage ≠ 0 then s
    else match s.withBlock x (x.a64 7) x.progLen with
    | .error s' => s'
    | .ok (s, x) =>
      let p := x.prog
      match s.progBad x p x.epilogue (!x.expert) false with
      | some k => s.endFormat x k
      | none => match s.progEntry x p with
      | some e => s.endEntry x e.1 [e.2]
      | none =>
        let v := s.vEnv x
        let cs := if x.epilogue then p.chains.takeWhile fun c => !gemmChain c else p.chains
        let r := s.runChains v p x.epilogue cs []
        let s := r.s.addCnt i r.cnt
        match r.halt with
        | some h => s.endVstream i h.status h.detail
        | none =>
          if x.epilogue then (s.modInst i fun y => { y with stage := 1, slot := v.sc }).epiFinish i
          else s.endVstream i 0 0

def execVstream (i : Nat) (s : State) : Host.Outcome State Fault Refusal := act (.vstream i) (s.vstream i)

/-! ## Epilogues as a GEMM sees them (R318 to R326) -/

/-- The epilogue instance that holds a GEMM's EPI_HANDLE, from its acceptance on (R107, R319). -/
def State.epiOf (s : State) (x : Inst) : Option Inst :=
  s.insts.find? fun y => y.ctx == x.ctx && y.epilogue && y.phase != .done && y.phase != .rearm && y.handle == some (x.f 12 16 8) && 0x20 + y.vCluster == x.queue

/-- The epilogue instance that a GEMM is bound to. -/
def State.boundEpi (s : State) (x : Inst) : Option Inst :=
  match x.bound with
  | some e => (s.inst? e).filter fun y => y.phase != .done
  | none => none

/-- Rows that the instance has received already are among the GEMM's (R321). -/
def rowsTaken (x e : Inst) : Bool := (upto (x.f 13 0 24) (x.f 8 0 24)).any fun r => e.rowsSeen.contains r

/-- Why a GEMM cannot feed the instance: status and DETAIL (R319, R321, R328). -/
def epiBad (x e : Inst) (bn : Nat) : Option (Nat × Nat) :=
  let p := e.prog
  let sh := p.epiShape
  let r0 := e.f 10 0 24
  let lo := x.f 13 0 24
  let m := x.f 8 0 24
  if lo < r0 ∨ r0 + sh.2 < lo + m ∨ sh.1 < x.f 9 0 24 then some (8, if lo < r0 ∨ r0 + sh.2 < lo + m then 8 else 9)
  else if bn < x.f 9 0 24 ∧ p.ins.any (fun i => i.op == 0x2C) then some (8, 9)
  else if rowsTaken x e then some (1, 0)
  else none

/-- TILEQ operations take rows in order: the GEMM must wait for those before it (R325). -/
def epiEarly (x e : Inst) : Bool :=
  let p := e.prog
  p.ins.any (fun i => i.tileq || i.op == 0x30) && (upto (e.f 10 0 24) (x.f 13 0 24 - e.f 10 0 24)).any fun r => !e.rowsSeen.contains r

/-- A chain that takes finished tile blocks. -/
def tileqChain (c : List (Nat × VInstr)) : Bool := c.any fun i => i.2.uses 0xC

/-- The rows of a GEMM pass the instance's chains: the accumulator-direct ones drain them, then the TILEQ ones read them (R324). -/
def State.epiRows (s : State) (e : Inst) (row : Nat) (acc : List (List Val)) (bm bn : Nat) : State × Option Halt :=
  let p := e.prog
  let r0 := e.f 10 0 24
  let cs := p.chains.filter gemmChain
  let go := (cs.filter (fun c => !tileqChain c) ++ cs.filter tileqChain).foldl (fun (q : State × Option Halt) c =>
    match q.2 with
    | some _ => q
    | none =>
      let x := (q.1.inst? e.id).getD e
      let v : VEnv := { q.1.vEnv x with rows := upto (row - r0) acc.length, acc := acc, row0 := r0, bm := bm, bn := bn }
      let r := q.1.runChain v p true c x.seen
      (r.s.addCnt e.id r.cnt, r.halt)) (s, none)
  (go.1.modInst e.id fun y => { y with rowsSeen := y.rowsSeen ++ upto row acc.length }, go.2)

end Sys2Proof.Machine
end

