-- ==== Sys2Proof/Machine/Dispatcher.lean ====
section
/-! DEFINITION. The Dispatcher (routing, permute, combine) and the Scan Engine (07 R371 to R399). -/
namespace Sys2Proof.Machine

/-! ## The DISPATCH descriptor (R382, R383) -/

def Inst.dOp (x : Inst) : Nat := x.f 6 0 2
def Inst.dGate (x : Inst) : Nat := x.f 6 4 2
def Inst.dK (x : Inst) : Nat := x.f 6 7 4
def Inst.dE (x : Inst) : Nat := x.f 6 11 10 + 1
def Inst.dT (x : Inst) : Nat := x.f 9 0 24
def Inst.dRow (x : Inst) : Nat := x.f 12 0 16

/-- Capacity of every expert (R373). A CAP_FACTOR that is not positive, normal BF16 is refused at fetch (R385). -/
def Inst.dCap (x : Inst) : Nat :=
  if x.f 10 0 24 ≠ 0 then x.f 10 0 24
  else match bfVal (x.f 11 0 16) with
    | .fin false m => (m * ((x.dT * x.dK : Nat) : Rat) / ((x.dE : Nat) : Rat)).ceil.toNat
    | _ => 0

/-- CAP_FACTOR is positive, normal BF16. -/
def Inst.capFactorOk (x : Inst) : Bool := decide (0x0080 ≤ x.f 11 0 16) && decide (x.f 11 0 16 < 0x7F80)

/-- Format cases of a DISPATCH's words (R385); a case names the smallest word of the fields its text names: OP's, CAP's (R79, log
entry 7). -/
def Inst.badDispatch (x : Inst) : List (Bool × Nat) :=
  let op := x.dOp
  x.resv 6 [0xFFC00000, 0x3F, 0, 0xFF000000, 0xFF000000, 0xFFFF0000, 0xFFFF0000, 0, full, full] ++
  [(op == 3 || x.dGate == 3 || x.dK == 0 || decide (8 < x.dK) || decide (x.dE < x.dK) || (op != 2 && bit (x.w 6) 21) || (!x.expert && x.f 6 2 2 != 0), 6),
   (x.dT == 0, 9), (!x.expert && x.f 10 0 24 != 0, 10),
   (x.f 10 0 24 == 0 && (!x.capFactorOk || decide (2 ^ 24 ≤ x.dCap)), 10), (op != 0 && x.dRow == 0, 6)]

/-- Input set: rows of ROW_ELEMS elements, or logits. -/
def Inst.dIn (x : Inst) (rows cols : Nat) : OSet :=
  opSet' (x.blk64 0) rows cols (x.blk 2 24 4) (x.blk 2 28 2) (x.blk 2 0 24)
where
  opSet' (base rows cols fmt gs tid : Nat) : OSet :=
    { base := base, rows := rows, cols := cols, fmt := fmt, gs := gs, half := false, outl := false, hist := false,
      lscale := false, mx := false, cap := 0, promo := 0, sliceRows := 128, tid := tid }

/-- Faults of the operand block: DETAIL 16 + word; a case that names an OP names OP's word (R79, R385). -/
def Inst.dBlockBad (x : Inst) : Option Nat :=
  let f := x.blk 2 24 4
  let g := x.blk 2 28 2
  let out := x.blk 8 24 4
  worst
    ([((x.dOp == 1 && (out != f || (fmtScaled f && g != 3 && x.dRow % groupOf g != 0))) || (x.dOp != 1 && !fmt16 f) ||
        (x.dOp == 2 && !fmt16 out), 6),
      (x.blk 0 0 10 != 0, 16), (x.blk 2 30 2 != 0 || decide (BF16 < f) || (fmtScaled f && g == 3), 16 + 2),
      (x.blk 3 0 10 != 0, 16 + 3), (x.blk 5 24 8 != 0, 16 + 5), (x.blk 6 0 10 != 0, 16 + 6),
      (x.blk 8 28 4 != 0, 16 + 8)] ++
     (upto 9 7).map fun k => (x.blk k 0 32 != 0, 16 + k))

/-! ## ROUTE (R371 to R378) -/

/-- Table regions of a ROUTE: sizes (R376). -/
def Inst.tabSizes (x : Inst) (c : Nat) : List Nat := [x.dT * x.dK * 8, x.dE * c * 4, x.dE * 4, x.dE * 4, x.dE * 4]
def Inst.tabAt (x : Inst) (c r : Nat) : Nat := x.blk64 3 + (((x.tabSizes c).take r).map up1k).sum
def Inst.tabTid (x : Inst) (r : Nat) : Nat := (x.blk 5 0 24 + r) % 2 ^ 24

/-- Granules of a table region that hold bytes [b, b + n). -/
def Inst.tabGrans (x : Inst) (c r b n op : Nat) : List Gran :=
  if n = 0 then [] else (upto (b / 1024) ((b + n - 1) / 1024 + 1 - b / 1024)).map fun i => plainGran (x.tabAt c r + 1024 * i) (x.tabTid r) i op

/-- The K largest of a token's logits: descending, ties to the lower index; none for a poisoned token. -/
def topOf (k : Nat) (ls : List Val) : Option (List Nat) :=
  if ls.any Val.isNan then none
  else
    some ((List.range k).foldl (fun sel _ =>
      match ((ls.zipIdx).filter fun p => !sel.contains p.2) with
      | [] => sel
      | p :: t => sel ++ [(t.foldl (fun b q => if vGt q.1 b.1 then q else b) p).2]) [])

/-- Softmax over a list, rounded to BF16 (R316, R372), with the counts of its conversions. -/
def softmaxBf (ls : List Val) : List (Nat × Counters) := (vSoftmax vOne ls).map fun v => to16 BF16 v none

/-- rn20(sigmoid) of the selected logits, up to a power of two that they share: where all lie below -100, they are scaled so that
the largest stands near 1, which changes no quotient of them (R252 gives the form no least exponent). -/
def sigmoidsOf (ls : List Val) : List Val :=
  let fin := (ls.filter Val.isFin).map Val.rat
  let hi := fin.tail.foldl (fun a v => if a < v then v else a) (fin.headD 0)
  if ls.all (fun v => v.isFin || v == .inf true) ∧ fin ≠ [] ∧ hi < -100 then
    let k := (-hi / (atanhIv 400 (1 / 3)).2).floor.toNat
    ls.map fun v => match v with
      | .fin _ _ => (RV.iv false fun p => sigmoidShift p v.rat k).rn20
      | _ => .zero
  else ls.map fun v => (vSigmoid v).rn20

/-- Gate weights of the selected experts, the PROBSUM contribution of every expert, and the counts: SAT and FLUSH of
every conversion once, NAN of every weight written (R161, R162, R335). -/
def gates (gate : Nat) (ls : List Val) (sel : List Nat) : List Nat × List Val × Counters :=
  let sum := fun (l : List (Nat × Counters)) => sumCnt (l.map Prod.snd)
  let out := fun (ws : List (Nat × Counters)) (probs : List Val) (c : Counters) =>
    (ws.map Prod.fst, probs, { c with nan := (sum ws).nan })
  if gate = 2 then
    let top := sigmoidsOf (sel.map fun e => ls.getD e .zero)
    let den := (reduce top).toVal
    let ws := top.map fun v => to16 BF16 (vDiv v den) none
    out ws (ls.map fun v => (vSigmoid v).rn20) (sum ws)
  else
    let all := softmaxBf ls
    let probs := all.map fun c => bfVal c.1
    if gate = 1 then
      let ws := softmaxBf (sel.map fun e => ls.getD e .zero)
      out ws probs ((sum ws).add (sum all))
    else out (sel.map fun e => all.getD e (0, {})) probs (sum all)

/-- Slots assigned so far. -/
structure Assign where
  count : List Nat
  demand : List Nat
  comb : List ((Nat × Nat) × Nat)
  perm : List ((Nat × Nat) × Nat)
deriving DecidableEq, Repr

/-- A COMB entry (R377). -/
def combEntry (w e slot : Nat) (poison dropped : Bool) : Nat :=
  w + e * 2 ^ 16 + (if poison then 2 ^ 30 else 0) + (if dropped then 2 ^ 31 else 0) + slot * 2 ^ 32

/-- The procedure of R374. -/
def assignSlots (sel : List (Option (List Nat × List Nat))) (k experts cap order : Nat) : Assign :=
  let t := sel.length
  let seq := if order = 0 then (List.range t).flatMap fun i => (List.range k).map fun j => (i, j)
    else (List.range k).flatMap fun j => (List.range t).map fun i => (i, j)
  seq.foldl (fun a (p : Nat × Nat) =>
    match sel.getD p.1 none with
    | none => { a with comb := a.comb ++ [(p, combEntry 0x7FC0 0 0xFFFFFF true true)] }
    | some (es, ws) =>
      match es[p.2]? with
      | none => a
      | some e =>
        let n := a.count.getD e 0
        let w := ws.getD p.2 0
        let a := { a with demand := modNth (· + 1) e a.demand }
        if n < cap then { a with comb := a.comb ++ [(p, combEntry w e n false false)], perm := a.perm ++ [((e, n), p.1)], count := modNth (· + 1) e a.count }
        else { a with comb := a.comb ++ [(p, combEntry w e 0xFFFFFF false true)] })
    ⟨List.replicate experts 0, List.replicate experts 0, [], []⟩

/-- What a ROUTE reads. -/
def Inst.routeUse (x : Inst) : List Gran × List (Nat × Nat) := (x.dIn x.dT x.dE).elemUse 0 (x.dT * x.dE) 0

/-- The work of a ROUTE: the five tables. -/
def State.routeWork (s : State) (x : Inst) : Work :=
  let e := x.dE
  let t := x.dT
  let k := x.dK
  let c := x.dCap
  let use := x.routeUse
  let rows := (List.range t).map fun i => s.readElems x (x.dIn t e) Side.nil (i * e) e
  let sel := rows.map fun r => (topOf k r.vals).map fun es => (es, gates x.dGate r.vals es)
  let a := assignSlots (sel.map fun r => r.map fun p => (p.1, p.2.1)) k e c (x.f 6 6 1)
  let comb := (List.range t).flatMap fun i => (List.range k).flatMap fun j =>
    leBytes 8 (match a.comb.find? fun p => p.1 == (i, j) with | some p => p.2 | none => 0)
  let perm := (List.range e).flatMap fun g => (List.range c).flatMap fun i =>
    leBytes 4 (match a.perm.find? fun p => p.1 == (g, i) with | some p => p.2 | none => 0xFFFFFFFF)
  let probs := (List.range e).map fun g =>
    (bfPair none none (reduce (sel.filterMap fun r => r.map fun p => p.2.2.1.getD g .zero)).toVal)
  let body := [comb, perm, a.count.flatMap (leBytes 4), a.demand.flatMap (leBytes 4), probs.flatMap fun p => p.flatMap fun c => leBytes 2 c.1]
  let outs := (body.zipIdx).flatMap fun b => outAt (x.tabAt c b.2) (b.1 ++ List.replicate (up1k b.1.length - b.1.length) 0#8)
  let ren := (body.zipIdx).flatMap fun b => x.tabGrans c b.2 0 b.1.length 0
  let nan := k * (sel.filter Option.isNone).length + (probs.filter fun p => (bfVal ((p.map Prod.fst).headD 0)).isNan).length
  let ch : Chunk := { need := use.1, use := use.2, outs := outs, ren := ren,
                      cnt := (((sumCnt (rows.map GroupIn.cnt)).add (sumCnt (sel.filterMap fun r => r.map fun p => p.2.2.2))).add
                        { sumCnt (probs.flatMap fun p => p.map Prod.snd) with nan := 0 }).add { nan := nan },
                      bad := none }
  ⟨use.2, [ch], Chunk.empty, 255, 0, 0⟩

def State.routeRun (s : State) (x : Inst) : State :=
  match s.want x x.routeUse.2 with
  | some s' => s'
  | none => s.runWork x (s.routeWork x)

/-! ## PERMUTE and COMBINE (R379 to R381) -/

/-- An output set with the layout of the input set. -/
def Inst.dOut (x : Inst) (rows : Nat) : OSet := { x.dIn rows x.dRow with base := x.blk64 6, tid := x.blk 8 0 24 }

/-- The source-row table of a PERMUTE, its entries, and the input rows it reads. -/
def State.permuteTab (_ : State) (x : Inst) : Nat × Nat := (x.tabAt x.dCap 1, 4 * (x.dE * x.dCap))
def State.permuteIxs (s : State) (x : Inst) : List Nat :=
  (pieces 4 (s.rdx x (s.permuteTab x).1 (s.permuteTab x).2)).map leNat
def State.permuteRows (s : State) (x : Inst) : List (Nat × Nat) :=
  (((s.permuteIxs x).filter fun t => t != 0xFFFFFFFF).eraseDups).flatMap fun t => ((x.dIn x.dT x.dRow).elemUse (t * x.dRow) x.dRow 0).2

/-- A COMB entry that names no expert, or no slot without being dropped (R386). -/
def Inst.combBad (x : Inst) (e : Nat) : Bool :=
  decide (x.dE ≤ bits e 16 10) || (!bit e 31 && decide (x.dCap ≤ bits e 32 24))

/-- The combine table that PERMUTE and COMBINE judge, and its entries. -/
def State.combineTab (_ : State) (x : Inst) : Nat × Nat := (x.tabAt x.dCap 0, 8 * x.dK * x.dT)
def State.combineIxs (s : State) (x : Inst) : List Nat :=
  (pieces 8 (s.rdx x (s.combineTab x).1 (s.combineTab x).2)).map leNat
/-- A combine table with an entry that cannot be: it is read, nothing is written, and the descriptor ends (R386). -/
def State.combFault (s : State) (x : Inst) : Option Chunk :=
  let tab := s.combineTab x
  if (s.combineIxs x).any x.combBad then
    some { Chunk.empty with need := x.tabGrans x.dCap 0 0 tab.2 1, use := [tab], bad := some (8, 0xFF) }
  else none

/-- The work of a PERMUTE: the combine table is judged, then one piece for each slot. -/
def State.permuteWork (s : State) (x : Inst) : Work :=
  let c := x.dCap
  let n := x.dE * c
  let src := x.dIn x.dT x.dRow
  let dst := x.dOut n
  let rb := elemBytes src.fmt x.dRow
  let sb := if src.scaled then 2 * src.ng else 0
  let tab := s.permuteTab x
  let chunks := ((s.permuteIxs x).zipIdx).map fun p =>
    let (t, r) := p
    let live := t != 0xFFFFFFFF
    let u := if live then src.elemUse (t * x.dRow) x.dRow 0 else ([], [])
    let data := if live then s.rdx x (src.off 0 + t * rb) rb else List.replicate rb 0#8
    let sws := if live ∧ src.scaled then s.rdx x (src.off 1 + t * sb) sb else List.replicate sb 0#8
    let tail := if r + 1 = n then List.replicate (up1k (n * rb) - n * rb) 0#8 else []
    ({ need := x.tabGrans c 1 (4 * r) 4 1 ++ u.1, use := (tab.1 + 4 * r, 4) :: u.2,
       outs := outAt (dst.off 0 + r * rb) (data ++ tail) ++ (if src.scaled then outAt (dst.off 1 + r * sb) sws else []),
       ren := dst.dataGrans (r * rb) rb 0, cnt := {}, bad := none } : Chunk)
  let comb := s.combineTab x
  let judge : Chunk := { Chunk.empty with need := x.tabGrans c 0 0 comb.2 1, use := [comb] }
  ⟨comb :: tab :: s.permuteRows x, match s.combFault x with | some b => [b] | none => judge :: chunks, Chunk.empty, 255, 0, 0⟩

def State.permuteRun (s : State) (x : Inst) : State :=
  match s.want x [s.combineTab x, s.permuteTab x] with
  | some s' => s'
  | none => match s.want x (s.combineTab x :: s.permuteTab x :: s.permuteRows x) with
    | some s' => s'
    | none => s.runWork x (s.permuteWork x)

/-- Rows of expert outputs that the live entries of token `t` name. -/
def State.tokenRows (s : State) (x : Inst) (c t : Nat) : List (Nat × Nat) :=
  let k := x.dK
  (((pieces 8 (s.rdx x (x.tabAt c 0 + 8 * k * t) (8 * k))).map leNat).filter fun e => !bit e 31).map fun e =>
    (bits e 0 16, bits e 16 10 * c + bits e 32 24)

/-- RND of a COMBINE: the firmware sets it in a basic one, for a tensor that the recipe marks as a gradient (R165, R384). -/
def Inst.combRnd (x : Inst) : Bool := if x.expert then bit (x.w 6) 21 else Config.gradientTensor x.job (x.blk 8 0 24)

/-- One token of a COMBINE; `before`: the rows read for earlier tokens, whose subnormal elements have been counted (R162). -/
def State.combineChunk (s : State) (x : Inst) (c t : Nat) (before : List Nat) : Chunk :=
  let n := x.dRow
  let k := x.dK
  let src := x.dIn (x.dE * c) n
  let fmt := x.blk 8 24 4
  let es := (pieces 8 (s.rdx x (x.tabAt c 0 + 8 * k * t) (8 * k))).map leNat
  let live := s.tokenRows x c t
  let ins := live.map fun e => (bfVal e.1, s.readElems x src Side.nil (e.2 * n) n)
  let poison := live.isEmpty && es.any fun e => bit e 30
  let fresh := (live.map Prod.snd).eraseDups.filter fun r => !before.contains r
  let rnd : Rnd := ⟨x.combRnd, s.seed x, x.blk 8 0 24, x.step⟩
  let outs := (List.range n).map fun j =>
    let v := if poison then Val.nan
      else (ins.foldl (fun a p => a.addVal (vMul p.1 (p.2.vals.getD j .zero))) Acc20.zero).toVal
    to16 fmt v (rnd.at_ ((x.f 13 0 32 + t) * n + j))
  let out := x.blk64 6
  let len := 2 * n * x.dT
  let tail := if t + 1 = x.dT then List.replicate (up1k len - len) 0#8 else []
  let os := outAt (out + 2 * n * t) ((outs.flatMap fun o => leBytes 2 o.1) ++ tail)
  let us := live.map fun e => src.elemUse (e.2 * n) n 0
  { need := x.tabGrans c 0 (8 * k * t) (8 * k) 1 ++ us.flatMap Prod.fst,
    use := (x.tabAt c 0 + 8 * k * t, 8 * k) :: us.flatMap Prod.snd, outs := os,
    ren := (os.map fun o => plainGran (o.a / 1024 * 1024) (x.blk 8 0 24) (o.a / 1024 - out / 1024) 0).eraseDups,
    cnt := (sumCnt (outs.map Prod.snd)).add { flush := (fresh.map fun r => (s.readElems x src Side.nil (r * n) n).cnt.flush).sum }, bad := none }

/-- The expert rows that live entries of a COMBINE name. -/
def State.combineRows (s : State) (x : Inst) : List (Nat × Nat) :=
  let c := x.dCap
  let es := s.combineIxs x
  if es.any x.combBad then [] else es.flatMap fun e =>
    if bit e 31 then [] else ((x.dIn (x.dE * c) x.dRow).elemUse ((bits e 16 10 * c + bits e 32 24) * x.dRow) x.dRow 0).2

/-- The work of a COMBINE: one piece for each token; a table with an entry that cannot be is read and nothing is
written (R386). -/
def State.combineWork (s : State) (x : Inst) : Work :=
  let tab := s.combineTab x
  let chunks := match s.combFault x with
    | some b => [b]
    | none => (List.range x.dT).map fun t => s.combineChunk x x.dCap t ((List.range t).flatMap fun u => (s.tokenRows x x.dCap u).map Prod.snd)
  ⟨tab :: s.combineRows x, chunks, Chunk.empty, 255, 0, 0⟩

def State.combineRun (s : State) (x : Inst) : State :=
  match s.want x [s.combineTab x] with
  | some s' => s'
  | none => match s.want x (s.combineTab x :: s.combineRows x) with
    | some s' => s'
    | none => s.runWork x (s.combineWork x)

/-- A started DISPATCH with an operation, its operand block at hand and judged. -/
def State.dispatched (s : State) (i op : Nat) (go : State → Inst → State) : State :=
  match s.started i 6 with
  | none => s
  | some x =>
    if x.dOp ≠ op then s
    else match s.withBlock x (x.a64 7) 64 with
      | .error s' => s'
      | .ok (s, x) => match x.dBlockBad with
        | some k => s.endFormat x k
        | none => go s x

/-- DISPATCH ROUTE. -/
def execRoute (i : Nat) (s : State) : Host.Outcome State Fault Refusal := act (.route i) (s.dispatched i 0 State.routeRun)
/-- DISPATCH PERMUTE. -/
def execPermute (i : Nat) (s : State) : Host.Outcome State Fault Refusal := act (.permute i) (s.dispatched i 1 State.permuteRun)
/-- DISPATCH COMBINE. -/
def execCombine (i : Nat) (s : State) : Host.Outcome State Fault Refusal := act (.combine i) (s.dispatched i 2 State.combineRun)

/-! ## SCAN (R387 to R399) -/

def Inst.badScan (x : Inst) : List (Bool × Nat) :=
  let l := x.f 10 0 25
  let q := x.f 11 0 25
  let p := x.f 9 0 24
  x.resv 6 [0xFFFFF000, 0x3F, 0, 0xFF000000, 0xFE000000, 0xFE000000, 0xFF0003FF, 0xFF0003FF, 0xFF000000, 0xFF000000] ++
  [(p % 64 != 0, 9), ((l % 64 != 0 && p + l != q) || decide (q < p + l), 9),
   (l == 0 || decide (2 ^ 24 < l), 10), (q == 0 || decide (2 ^ 24 < q), 11)]

def Inst.scanCluster (x : Inst) : Nat := x.f 6 2 5
def Inst.readout (x : Inst) : Bool := bit (x.w 6) 8
def Inst.scanTab (x : Inst) (k : Nat) : VStream := ⟨((toWords x.block).drop (12 * k)).take 12⟩

/-- Faults found in the stream table: DETAIL 0x40 + entry; in the state regions: 12, 13. A case over two entries, or over an entry
and L, names the smaller (R79, R398). -/
def Inst.scanBad (x : Inst) : Option Nat :=
  let b := x.scanTab 1
  let d := b.n0
  let h := b.n1
  let l := x.f 10 0 25
  let len := 8 * h * d
  let sIn := (x.f 12 0 24, if bit (x.w 6) 9 then len else 0)
  let sOut := (x.f 13 0 24, if bit (x.w 6) 10 then len else 0)
  let one := fun (k : Nat) =>
    let t := x.scanTab k
    (t.bad false (k == 3) false || !fmt16 t.fmt || t.n3 != 1, 0x40 + k)
  let off := fun (k : Nat) => (x.scanTab k).n0 != d || (x.scanTab k).n1 != h
  let y := x.scanTab 3
  worst ([one 0, one 1, (x.readout && (one 2).1, 0x42), one 3, (off 0, 0x40), (decide (256 < d) || (x.readout && off 2), 0x41),
    (y.n1 != h || y.n0 != (if x.readout then 1 else d), 0x43),
    ([0, 1, 3].any (fun k => (x.scanTab k).n2 != l) || (x.readout && (x.scanTab 2).n2 != l), 10),
    (decide (ssmSize < sIn.1 + sIn.2) || (sIn.2 != 0 && sOut.2 != 0 && overlaps sIn sOut), 12), (decide (ssmSize < sOut.1 + sOut.2), 13)])

/-- One block from its carry: states in scan order and the next carry (R391). -/
def scanBlock (carry : Val) (ab : List (Val × Val)) : List Val :=
  (ab.foldl (fun (q : Val × Val × List Val) p =>
    let la := rn20V (vMul p.1 q.1)
    let lb := rn20V (vAdd (vMul p.1 q.2.1) p.2)
    (la, lb, q.2.2 ++ [rn20V (vAdd (vMul la carry) lb)])) (vOne, .zero, [])).2.2

/-- All blocks in scan order: states, and the final carry. -/
def scanAll (carry : Val) (bs : List (List (Val × Val))) : List Val × Val :=
  bs.foldl (fun (q : List Val × Val) b => let h := scanBlock q.2 b; (q.1 ++ h, h.getLastD q.2)) ([], carry)

/-- A state triple as written, with its counts (R389, R390). -/
def stateTriple (v : Val) : List Byte × Counters :=
  let hi := (to16 BF16 v none).1
  let r := vAdd v (vNeg (bfVal hi))
  let mid := (to16 BF16 r none).1
  let lo := (to16 BF16 (vAdd r (vNeg (bfVal mid))) none).1
  let cnt : Counters := match v with
    | .nan => { nan := 1 }
    | .inf _ => {}
    | .fin _ m => if (bfVal hi).isInf then { sat := 1 } else if m ≠ 0 ∧ m < pow2 (-107) then { flush := 1 } else {}
  (leBytes 2 hi ++ leBytes 2 mid ++ leBytes 2 lo ++ leBytes 2 0, cnt)

def State.scanWork (s : State) (x : Inst) : Work :=
  let cl := x.scanCluster
  let a0 := s.ssm0 cl
  let d := (x.scanTab 1).n0
  let h := (x.scanTab 1).n1
  let l := x.f 10 0 25
  let rev := bit (x.w 6) 7
  let y := x.scanTab 3
  let row := fun (k t c : Nat) => s.vrow x cl (x.scanTab k) k (c + h * t)
  let order := if rev then (List.range l).reverse else List.range l
  let cut := fun (u : List (Val × Val)) => if rev then ((pieces 64 u).map List.reverse).reverse else pieces 64 u
  let stIn := (List.range (h * d)).map fun k =>
    let b := s.rdx x (a0 + x.f 12 0 24 + 8 * k) 8
    if bit (x.w 6) 9 then vAdd (vAdd (bfVal (leAt b 0 2)) (bfVal (leAt b 2 2))) (bfVal (leAt b 4 2)) else .zero
  let runs := (List.range h).map fun c =>
    let as := (List.range l).map fun t => (row 0 t c).vals
    let bs := (List.range l).map fun t => (row 1 t c).vals
    (List.range d).map fun e =>
      let u := List.zipWith (fun p q => (p.getD e Val.zero, q.getD e Val.zero)) as bs
      scanAll (stIn.getD (c * d + e) .zero) (cut u)
  let rnd : Rnd := ⟨bit (x.w 6) 11 || (!x.expert && Config.gradientTensor x.job y.tid), s.seed x, y.tid, x.step⟩
  let stSub := if bit (x.w 6) 9 then ((List.range (h * d)).map fun k =>
    ((List.range 3).filter fun f => isSubnormal BF16 (leAt (s.rdx x (a0 + x.f 12 0 24 + 8 * k) 8) (2 * f) 2)).length).sum else 0
  let insAt := fun (t : Nat) => (List.range h).flatMap fun c => [row 0 t c, row 1 t c] ++ (if x.readout then [row 2 t c] else [])
  let subsAt := fun (t : Nat) => (insAt t).flatMap fun u => u.sub.map Prod.snd
  let chunk := fun (p : Nat × Nat) =>
    let (t, k) := p
    let before := (order.take k).flatMap subsAt
    let rows := (List.range h).map fun c =>
      let hs := (runs.getD c []).map fun r => r.1.getD k .zero
      let vs := if x.readout then [(reduce (List.zipWith vMul (row 2 t c).vals hs)).toVal] else hs
      (vs.zipIdx).map fun v => to16 y.fmt v.1 (rnd.at_ (y.elem0 + v.2 + y.n0 * (c + h * t)))
    let ins := insAt t
    let len := 2 * y.n0 * h * l
    let tail := if t + 1 = l then List.replicate (up1k len - len) 0#8 else []
    let outs := outAt (a0 + y.base + 2 * y.n0 * h * t) ((rows.flatMap fun r => r.flatMap fun o => leBytes 2 o.1) ++ tail)
    let st := if k = 0 ∧ bit (x.w 6) 9 then (granPieces (a0 + x.f 12 0 24) (8 * h * d)).map fun g =>
        plainGran (g.1 / 1024 * 1024) (x.f 14 0 24) (g.1 / 1024 - (a0 + x.f 12 0 24) / 1024) 4 else []
    ({ need := st ++ ins.flatMap RowIn.need,
       use := (if k = 0 ∧ bit (x.w 6) 9 then [(a0 + x.f 12 0 24, 8 * h * d)] else []) ++ ins.flatMap RowIn.use, outs := outs,
       ren := (outs.map fun o => plainGran (o.a / 1024 * 1024) y.tid ((y.gran0 + o.a / 1024 - (a0 + y.base) / 1024) % 2 ^ 32) 0).eraseDups,
       cnt := (sumCnt (rows.flatMap fun r => r.map Prod.snd)).add { flush := ((subsAt t).eraseDups.filter fun a => !before.contains a).length + (if k = 0 then stSub else 0) }, bad := none } : Chunk)
  let out := runs.flatMap fun c => c.map fun r => stateTriple r.2
  let so := outAt (a0 + x.f 13 0 24) (out.flatMap Prod.fst)
  let fin : Chunk := if bit (x.w 6) 10 then
      { Chunk.empty with outs := so, cnt := sumCnt (out.map Prod.snd),
                         ren := (so.map fun o => plainGran (o.a / 1024 * 1024) (x.f 15 0 24) (o.a / 1024 - (a0 + x.f 13 0 24) / 1024) 0).eraseDups }
    else Chunk.empty
  ⟨[], (order.zipIdx).map chunk, fin, 255, 0, 0⟩

/-- SCAN. -/
def State.scan (s : State) (i : Nat) : State :=
  match s.started i 7 with
  | none => s
  | some x =>
    match s.withBlock x (x.a64 7) 192 with
    | .error s' => s'
    | .ok (s, x) => match x.scanBad with
      | some k => s.endFormat x k
      | none => s.runWork x (s.scanWork x)

def execScan (i : Nat) (s : State) : Host.Outcome State Fault Refusal := act (.scan i) (s.scan i)

end Sys2Proof.Machine
end

