-- ==== Sys2Proof/Machine/PowerCmd.lean ====
section
/-! DEFINITION. Power limits, coolant, sleep and wake (15 R752 to R778). -/
namespace Sys2Proof.Machine

/-! ## Limits (R763, R769, R773) -/

/-- A limit register's value; values outside 1,000 to 2,250 act as the nearer bound (R771). -/
def clampLimit (v : Nat) : Nat := min 2250 (max 1000 v)

/-- The coolant limit in thousandths of a watt (R773). -/
def coolantMw (flow100 tin : Nat) : Nat := min 2250000 (2250 * 1000 * flow100 / 320) - 100000 * (tin - 40)

/-- The terms of the effective limit in mW, in the order of PWR_EFFECTIVE.BY. -/
def State.limits (s : State) : List Nat :=
  [1000 * clampLimit (s.rf 0x20000 0 12), 1000 * clampLimit (s.rf 0x20008 0 12),
   (if s.pow.coolSeen then coolantMw s.pow.flow100 (s.rf 0x20020 16 8) else 2250000),
   2250000 - 50000 * (s.pow.dieTemp - 100)]

/-- PWR_EFFECTIVE: the smallest limit in whole watts, and which it is (R763, R771). -/
def State.effective (s : State) : State :=
  let ls := s.limits
  let m := ls.foldl min 2250000
  let by_ := ls.findIdx (· == m)
  s.setReg 0x2000C (BitVec.ofNat 32 (m / 1000 + min by_ 3 * 2 ^ 12))

/-- CCLK_STATUS: CCLK in force, 0 while both compute dies are DEEP, and the stricter issue limit (R766, R771). -/
def State.clockStatus (s : State) : State :=
  let mhz := if s.pow.deepDies.length = 2 then 0 else s.pow.cclk
  let issue := max s.pow.slowIssue (if s.pow.clamp then 1 else 0)
  let s := s.setReg 0x20014 (BitVec.ofNat 32 (mhz + issue * 2 ^ 11))
  { s with rst := { s.rst with pins := modNth (fun p => { p with drive := if issue ≠ 0 ∨ s.pow.clamp then 2 else 1 }) 1 s.rst.pins } }

/-- FLOW_COUNT: pulses of one second give 0.01 L/min units with COOL_CFG.PPL pulses per litre (R774, R777). -/
def State.flowCount (s : State) (pulses : Nat) : State :=
  let was := s
  let ppl := s.rf 0x20024 0 16
  let f := pulses * 6000 / (if ppl = 0 then 600 else ppl)
  let s := { s with pow := { s.pow with flow100 := f, coolSeen := true } }
  (((s.setF 0x20020 0 12 (satw 12 f)).effective).emergWatch).tellCrossings was

/-- THERMISTOR_READ (R774, R836, R837). -/
def State.thermistor (s : State) (tin tout : Option Nat) : State :=
  let was := s
  let s := { s with pow := { s.pow with tin := tin, tout := tout, thermSeen := true } }
  let s := match tin with | some t => s.setF 0x20020 16 8 (satw 8 t) | none => s
  let s := match tout with | some t => s.setF 0x20020 24 8 (satw 8 t) | none => s
  s.effective.emergWatch.tellCrossings was

/-- The average input power lies above the effective limit (R763). -/
def State.overLimit (s : State) : Bool := decide (s.limits.foldl min 2250000 < 1000 * s.rf 0x20010 0 12)

/-- Crossings that a run of the slow loop finds: input power over the effective limit, the hottest die over 100 °C, and the
emergencies (R763, R775, R803). -/
def State.tellPower (s was : State) : State :=
  let t := if s.overLimit = was.overLimit then s else s.sensorEvent 34 (s.rf 0x20010 0 12)
  let t := if (decide (100 < s.pow.dieTemp)) = decide (100 < was.pow.dieTemp) then t else t.sensorEvent 1 s.pow.dieTemp
  t.tellCrossings was

/-- SLOW_LOOP (R764, R766, R769): a pending grant takes effect, then CCLK moves one step or tile issue is limited. -/
def State.slowLoop (s : State) (avg10 avg1 peak die : Nat) : State :=
  let was := s
  let s := match s.pow.grantNext with
    | some g => { s.setF 0x20008 0 12 g with pow := { s.pow with grantNext := none, dieTemp := die } }
    | none => { s with pow := { s.pow with dieTemp := die } }
  let s := s.setReg 0x20010 (BitVec.ofNat 32 (satw 12 avg1 + satw 12 peak * 2 ^ 16))
  let s := s.effective
  let lim := s.limits.foldl min 2250000
  let p := s.pow
  let p := if lim < 1000 * avg10 then
      (if 200 < p.cclk then { p with cclk := p.cclk - 25 } else { p with slowIssue := min 2 (p.slowIssue + 1) })
    else if 100 * (1000 * avg10) < 95 * lim then
      (if 0 < p.slowIssue then { p with slowIssue := p.slowIssue - 1 } else { p with cclk := min 1800 (p.cclk + 25) })
    else p
  ((State.clockStatus { s with pow := p }).emergWatch).tellPower was

/-- FAST_CLAMP (R765): a 10 µs peak above 2,350 W. -/
def State.fastClamp (s : State) (peak : Nat) : State :=
  if peak ≤ 2350 then s
  else if s.pow.clamp then { s with pow := { s.pow with clampBelow := none } }
  else (State.clockStatus { s with pow := { s.pow with clamp := true, clampBelow := none } }).count32 0x20018 1

/-- CLAMP_RELEASE: peaks below 2,250 W for 100 µs release the clamp. -/
def State.clampRelease (s : State) (peak : Nat) : State :=
  if !s.pow.clamp then s
  else if 2250 ≤ peak then { s with pow := { s.pow with clampBelow := none } }
  else match s.pow.clampBelow with
    | none => { s with pow := { s.pow with clampBelow := some s.clock.now } }
    | some t => if t + 100000 ≤ s.clock.now then State.clockStatus { s with pow := { s.pow with clamp := false, clampBelow := none } } else s

def execFlowCount (pulses : Nat) (s : State) : Host.Outcome State Fault Refusal := act (.flowCount pulses) (s.flowCount pulses)
def execThermistorRead (tin tout : Option Nat) (s : State) : Host.Outcome State Fault Refusal :=
  act (.thermistorRead tin tout) (s.thermistor tin tout)
def execSlowLoop (avg10 avg1 peak die : Nat) (s : State) : Host.Outcome State Fault Refusal :=
  act (.slowLoop avg10 avg1 peak die) (s.slowLoop avg10 avg1 peak die)
def execFastClamp (peak : Nat) (s : State) : Host.Outcome State Fault Refusal := act (.fastClamp peak) (s.fastClamp peak)
def execClampRelease (peak : Nat) (s : State) : Host.Outcome State Fault Refusal := act (.clampRelease peak) (s.clampRelease peak)

/-! ## Sleep and wake (R755 to R761) -/

def State.activeSince (s : State) (u : Nat) : Nat := sget 0 s.pow.activeAt u

/-- Compute die of an engine's queue, for the queues of a compute die. -/
def dieOfQueue (q : Nat) : Option Nat :=
  if q < 0xC8 then some (queueDie q) else none

/-- A cluster with empty lanes and no waiter younger than 2 µs (R755, R758). -/
def State.clusterIdle (s : State) (c : Nat) : Bool :=
  !s.insts.any (fun x => clusterQueue c x.queue) &&
  (match (s.core c).waiting with | some (_, _, t, _) => decide (t + 2000 ≤ s.clock.now) | none => true)

/-- Every waiter on a unit's semaphores, a descriptor or a core, has slept 2 µs (R755). -/
def State.waitersSlept (s : State) (u : Nat) : Bool :=
  let old := fun t => decide (t + 2000 ≤ s.clock.now)
  s.insts.all (fun x => !x.waits || (x.wait.map Wait.unit) != some u || old x.sleepAt) &&
  (List.range 32).all fun d => match (s.core d).waiting with | some (_, w, t, _) => w.unit != u || old t | none => true

def State.clusterSleep (s : State) (c : Nat) : State :=
  if s.pow.asleep.contains c ∨ !s.clusterIdle c ∨ !s.waitersSlept c ∨ s.clock.now < s.activeSince c + 100000 ∨ !s.ready then s
  else State.touch { s with pow := { s.pow with asleep := insNat c s.pow.asleep } } (32 + c / 16)

/-- Every cluster of the die sleeps and none of its engines has work, for 1 ms. -/
def State.dieDeep (s : State) (d : Nat) : State :=
  if s.pow.deepDies.contains d ∨ !(upto (16 * d) 16).all (fun c => s.pow.asleep.contains c) ∨
      s.insts.any (fun x => dieOfQueue x.queue == some d) ∨ s.clock.now < s.activeSince (32 + d) + 1000000 then s
  else State.clockStatus { s with pow := { s.pow with deepDies := insNat d s.pow.deepDies } }

def State.ioLight (s : State) (d : Nat) : State :=
  if s.ioDies ≤ d ∨ s.pow.ioLight.contains d ∨ s.pow.ioDeep.contains d ∨ s.clock.now < s.activeSince (34 + d) + 100000 then s
  else { s with pow := { s.pow with ioLight := insNat d s.pow.ioLight } }

/-- A queue of an I/O die holds a descriptor (R758). -/
def State.ioBusy (s : State) (d : Nat) : Bool := s.insts.any fun x => decide (0xC8 ≤ x.queue) && queueDie x.queue == d

/-- Every link of the die DOWN, FAILED or unfitted, no PCIe port of the die trained, and none of its queues at work (R755, R758). -/
def State.ioDeep (s : State) (d : Nat) : State :=
  if s.ioDies ≤ d ∨ s.pow.ioDeep.contains d ∨ (upto (16 * d) 16).any (fun l => s.linkState l == 1 || s.linkState l == 2) ∨
      s.host.trained.contains d ∨ s.ioBusy d then s
  else { s with pow := { s.pow with ioDeep := insNat d s.pow.ioDeep, ioLight := s.pow.ioLight.filter (· != d) } }

/-- Wake a cluster: at once, or when its DEEP die has woken. -/
def State.wakeCluster (s : State) (c : Nat) : State :=
  let s := s.touch c
  if s.pow.deepDies.contains (c / 16) then { s with pow := { s.pow with wakes := insNat c (insNat (32 + c / 16) s.pow.wakes) } }
  else { s with pow := { s.pow with asleep := s.pow.asleep.filter (· != c) } }

/-- Wake a compute die: a DEEP one begins its wake sequence. -/
def State.wakeDie (s : State) (d : Nat) : State :=
  let s := s.touch (32 + d)
  if s.pow.deepDies.contains d then { s with pow := { s.pow with wakes := insNat (32 + d) s.pow.wakes } } else s

def State.wakeIo (s : State) (d : Nat) : State :=
  let s := s.touch (34 + d)
  { s with pow := { s.pow with ioLight := s.pow.ioLight.filter (· != d), ioDeep := s.pow.ioDeep.filter (· != d) } }

/-- The executing unit of a queue and its die. -/
def State.wakeQueue (s : State) (q : Nat) : State :=
  if q < 0x80 then s.wakeCluster (q % 32)
  else if q < 0xC8 then s.wakeDie (queueDie q)
  else s.wakeIo (queueDie q)

/-- WAKE_EVENT (R757). -/
def State.wake (s : State) : WakeEv → State
  | .doorbell => (s.wakeIo 0).wakeDie 0
  | .lane q => s.wakeQueue q
  | .semaphore u b => if u < 32 ∧ s.bankWaited u b then s.wakeCluster u else s
  | .packet c => if c < 32 then s.wakeCluster c else s
  | .management u => if u < 32 then s.wakeCluster u else if u < 34 then s.wakeDie (u - 32) else s.wakeIo (u - 34)

/-- DIE_WAKE: the die that was asked to wake is in service with the clusters that have work (R760, R761). -/
def State.dieWake (s : State) (d : Nat) : State :=
  if !s.pow.wakes.contains (32 + d) then s
  else
    let mine := fun u => u == 32 + d || (decide (u < 32) && u / 16 == d)
    State.clockStatus { s with pow := { s.pow with
      deepDies := s.pow.deepDies.filter (· != d),
      asleep := s.pow.asleep.filter fun c => !s.pow.wakes.contains c,
      wakes := s.pow.wakes.filter fun u => !mine u } }

def execClusterSleep (c : Nat) (s : State) : Host.Outcome State Fault Refusal := act (.clusterSleep c) (s.clusterSleep c)
def execDieDeep (d : Nat) (s : State) : Host.Outcome State Fault Refusal := act (.dieDeep d) (s.dieDeep d)
def execIoDieLight (d : Nat) (s : State) : Host.Outcome State Fault Refusal := act (.ioDieLight d) (s.ioLight d)
def execIoDieDeep (d : Nat) (s : State) : Host.Outcome State Fault Refusal := act (.ioDieDeep d) (s.ioDeep d)
def execWakeEvent (e : WakeEv) (s : State) : Host.Outcome State Fault Refusal := act (.wakeEvent e) (s.wake e)
def execDieWake (d : Nat) (s : State) : Host.Outcome State Fault Refusal := act (.dieWake d) (s.dieWake d)

/-! ## Lending within the device (R478, R768) -/

/-- A waiter that has slept 2 µs lends its allowance. -/
def State.waiterLend (s : State) (port : Nat) : State :=
  let due := fun t => decide (t + 2000 ≤ s.clock.now)
  let hit := fun (x : Inst) => x.waits && x.wait.isSome && x.port == port && due x.sleepAt && !x.lends
  let core := fun (k : Core) => match k.waiting with | some (rd, w, t, _) => if due t then { k with waiting := some (rd, w, t, true) } else k | none => k
  if s.insts.any hit then
    { s with insts := s.insts.map (fun x => if hit x then { x with lends := true } else x), pow := { s.pow with lent := insNat port s.pow.lent } }
  else if decide (port / 16 < 32) && port % 16 == 0 && (match (s.core (port / 16)).waiting with | some (_, _, t, l) => due t && !l | none => false) then
    { s.modCore (port / 16) core with pow := { s.pow with lent := insNat port s.pow.lent } }
  else s

/-- A cluster without work offers its allowance to its die's pool; one with work offers nothing (log entry 14). -/
def State.poolOffer (s : State) (c : Nat) : State :=
  let limit := s.rf 0x2000C 0 12
  let o := if s.clusterIdle c then Config.allowance c limit else 0
  { s with pow := { s.pow with poolOffers := sset 0 c o s.pow.poolOffers } }

def execWaiterLend (port : Nat) (s : State) : Host.Outcome State Fault Refusal := act (.waiterLend port) (s.waiterLend port)
def execPoolOffer (c : Nat) (s : State) : Host.Outcome State Fault Refusal := act (.poolOffer c) (s.poolOffer c)

end Sys2Proof.Machine
end

