-- ==== Sys2Proof/Machine/Manage.lean ====
section
/-! DEFINITION. Calendar corrections, SPDM, PLDM and firmware update (15 R779 to R782, 16 R784 to R805). -/
namespace Sys2Proof.Machine

/-! ## Calendar -/

/-- Set the calendar to true time: forward at once, backward by holding the count (R781). -/
def Clock.setCal (c : Clock) (t : Nat) : Clock :=
  if c.cal ≤ t then { c with cal := t % 2 ^ 64, calHold := 0 } else { c with calHold := c.cal - t }

/-- SetDateTime, in seconds since 1970; only the running firmware sets the calendar (R781, R801). -/
def State.setDateTime (s : State) (seconds : Nat) : State :=
  if s.rst.phase ≠ .ready then s
  else State.setF { s with clock := { s.clock.setCal (32768 * seconds) with pldmTime := some seconds } } 0x10048 0 1 1

/-- While LOCKED, the firmware corrects the calendar from fabric time every 60 s (R781). -/
def State.calCorrect (s : State) : State :=
  if !s.ready ∨ s.rf (dieOff 0 0x38020) 0 1 = 0 ∨ s.clock.now < s.clock.calFixAt + 60000000000 then s
  else State.setF { s with clock := { s.clock.setCal (s.clock.fab * 32768 / 1000000000) with calFixAt := s.clock.now } } 0x10048 0 1 1

def execSetDateTime (seconds : Nat) (s : State) : Host.Outcome State Fault Refusal := act (.setDateTime seconds) (s.setDateTime seconds)
def execCalendarCorrection (s : State) : Host.Outcome State Fault Refusal := act .calendarCorrection s.calCorrect

/-! ## SPDM (R788 to R790) -/

/-- The AOD answers once 3.3 V standby is present and step P1 is done (R790). -/
def State.aodAnswers (s : State) : Bool := s.rst.rail33 && s.rst.aodUp

def State.spdm (s : State) (kind : Nat) (bs : List Byte) : State := if s.aodAnswers then s.reply kind bs else s

/-- GET_VERSION: SPDM 1.2; the message's bytes are the standard's (log entry 10). -/
def execGetVersion (s : State) : Host.Outcome State Fault Refusal := act .getVersion (s.spdm 1 (Config.standardBytes 1))
def execGetCapabilities (s : State) : Host.Outcome State Fault Refusal := act .getCapabilities (s.spdm 2 (Config.standardBytes 2))

/-- NEGOTIATE_ALGORITHMS: ECDSA P-384 with SHA-384 only; any other offer gets the error answer. -/
def State.negotiate (s : State) (ok : Bool) : State :=
  if !s.aodAnswers then s
  else if ok then State.reply { s with sec := { s.sec with spdm := 1 } } 3 (Config.standardBytes 3)
  else s.reply 0 (Config.standardBytes 0)

def execNegotiateAlgorithms (p384sha384 : Bool) (s : State) : Host.Outcome State Fault Refusal :=
  act (.negotiateAlgorithms p384sha384) (s.negotiate p384sha384)

/-- The slot 0 chain: DeviceID certificate, then the Alias certificate of the last cold release (R788). -/
def State.certChain (s : State) : List Byte :=
  Config.standardBytes 40 ++ Config.standardBytes (1000 + s.sec.aliasIssued) ++
    Config.ecdsaSign 0 (Config.standardBytes (1000 + s.sec.aliasIssued))

def digestBytes (d : BitVec 384) : List Byte := leBytes 48 d.toNat

def execGetDigests (s : State) : Host.Outcome State Fault Refusal :=
  act .getDigests (s.spdm 4 (digestBytes (Config.sha384 s.certChain)))

/-- GET_CERTIFICATE of slot 0; slots 1 to 7 are not supported and get the error answer (R790). -/
def State.getCert (s : State) (slot off len : Nat) : State :=
  if slot = 0 then s.spdm 5 ((s.certChain.drop off).take len) else s.spdm 0 (Config.standardBytes 0)

def execGetCertificate (slot off len : Nat) (s : State) : Host.Outcome State Fault Refusal :=
  act (.getCertificate slot off len) (s.getCert slot off len)

/-- Measurement 1: boot ROM version and the fuses, secrets left out (R789; log entry 10). -/
def State.measure1 (s : State) : BitVec 384 :=
  let f := s.stores
  Config.sha384 (Config.standardBytes 30 ++ leBytes 2 f.variant ++ leBytes 1 f.stepping ++ leBytes 8 f.serial ++
    f.pinMap.flatMap (leBytes 1) ++ f.keyDigests.flatMap (fun d => leBytes 48 d.toNat) ++ f.keyRevoked.flatMap (leBytes 1) ++
    f.debugDigests.flatMap (fun d => leBytes 48 d.toNat) ++ leBytes 1 f.rollback)

/-- Measurement block `i` of R789, 1 to 5; index 4 is the highest debug level granted since the last cold release. -/
def State.measurement (s : State) (i : Nat) : BitVec 384 :=
  if i = 1 then s.measure1 else if i = 4 then Config.sha384 (leBytes 1 s.sec.debugHigh) else s.sec.meas.getD (i - 1) 0#384

def State.measBytes (s : State) : List Byte := (upto 1 5).flatMap fun i => digestBytes (s.measurement i)

/-- CHALLENGE of slot 0: chain digest, measurement summary hash, nonce, signature by the Alias key. -/
def State.spdmChallenge (s : State) (slot : Nat) (nonce : List Byte) : State :=
  if slot ≠ 0 then s.spdm 0 (Config.standardBytes 0)
  else
    let b := digestBytes (Config.sha384 s.certChain) ++ digestBytes (Config.sha384 s.measBytes) ++ nonce
    s.spdm 6 (b ++ Config.ecdsaSign 1 b)

def execChallenge (slot : Nat) (nonce : List Byte) (s : State) : Host.Outcome State Fault Refusal :=
  act (.challenge slot nonce) (s.spdmChallenge slot nonce)

/-- GET_MEASUREMENTS, signed: index 0 asks for the count, 0xFF for every block (SPDM 1.2), 1 to 5 for one. -/
def State.getMeas (s : State) (index : Nat) (nonce : List Byte) : State :=
  let body := if index = 0 then leBytes 1 5 else if index = 0xFF then s.measBytes
    else if index ≤ 5 then digestBytes (s.measurement index) else []
  if body.isEmpty then s.spdm 0 (Config.standardBytes 0)
  else let b := leBytes 1 index ++ body ++ nonce; s.spdm 7 (b ++ Config.ecdsaSign 1 b)

def execGetMeasurements (index : Nat) (nonce : List Byte) (s : State) : Host.Outcome State Fault Refusal :=
  act (.getMeasurements index nonce) (s.getMeas index nonce)

/-! ## PLDM (R801, R803) -/

/-- A sensor's reading: held by the model, of a unit not fitted or not yet read, failed (R837), or of a quantity that a free
value stands for (R803). -/
inductive Reading where
  | value (v : Nat)
  | unavailable
  | failed
  | measured
  | noSensor
deriving DecidableEq, Repr

/-- A thermistor's reading: none before the first, and failed where the input is open or shorted (R774, R837). -/
def State.thermReading (s : State) (t : Option Nat) : Reading :=
  match t with
  | some v => .value v
  | none => if s.pow.thermSeen then .failed else .unavailable

def State.sensor (s : State) (id : Nat) : Reading :=
  if id = 1 ∨ id = 2 ∨ id = 7 then .measured
  else if 3 ≤ id ∧ id ≤ 6 then (if id - 3 < s.ioDies then .measured else .unavailable)
  else if 16 ≤ id ∧ id ≤ 27 then (if id - 16 < s.stacks then .value (s.rf (stackOff (id - 16) 4) 8 8) else .unavailable)
  else if id = 32 ∨ id = 33 ∨ id = 35 ∨ id = 36 then .measured
  else if id = 34 then .value (s.rf 0x20010 0 12)
  else if id = 40 then s.thermReading s.pow.tin
  else if id = 41 then s.thermReading s.pow.tout
  else if id = 42 then .value (s.rf 0x20020 0 12)
  else if id = 43 then .value (if s.rst.leakLow then 1 else 0)
  else .noSensor

/-- GetSensorReading: state byte 0 available, 1 unavailable, 2 no such sensor, 3 failed, then the value (log entry 10). -/
def State.sensorReading (s : State) (id : Nat) : State :=
  if !s.aodAnswers then s
  else match s.sensor id with
  | .value v => s.reply 20 (leBytes 1 0 ++ leBytes 4 v)
  | .unavailable => s.reply 20 (leBytes 1 1)
  | .failed => s.reply 20 (leBytes 1 3)
  | .measured => let (v, s) := s.free 32; s.reply 20 (leBytes 1 0 ++ leBytes 4 v)
  | .noSensor => s.reply 20 (leBytes 1 2)

def execGetSensorReading (id : Nat) (s : State) : Host.Outcome State Fault Refusal := act (.getSensorReading id) (s.sensorReading id)

/-- GetPDR: the running firmware answers with the descriptor record (log entry 10). -/
def execGetPdr (handle : Nat) (s : State) : Host.Outcome State Fault Refusal :=
  act (.getPdr handle) (if s.ready then s.reply 21 (Config.standardBytes (2000 + handle)) else s)

def execSetEventReceiver (eid : Nat) (s : State) : Host.Outcome State Fault Refusal :=
  act (.setEventReceiver eid) (if s.ready then State.reply { s with sec := { s.sec with evReceiver := some eid } } 22 [] else s)

def execGetFruRecordTable (s : State) : Host.Outcome State Fault Refusal :=
  act .getFruRecordTable (s.spdm 23 (Config.standardBytes 23))

def execEndpointId (eid : Nat) (s : State) : Host.Outcome State Fault Refusal :=
  act (.endpointId eid) (if s.aodAnswers then { s with sec := { s.sec with eid := eid } } else s)

/-! ## Firmware update (R802) -/

/-- The PLDM codes of an answer: 0 success, 1 busy, 2 verification failed, 3 nothing to do. -/
def State.fwReply (s : State) (code : Nat) : State := s.reply 24 (leBytes 1 code)

/-- Write a chunk at an offset of the image received so far. -/
def putAt (bs : List Byte) (off : Nat) (d : List Byte) : List Byte := padTo off (bs.take off) ++ d ++ bs.drop (off + d.length)

/-- A chunk of the new image; a second update while one is in progress is refused as busy. -/
def State.fwChunk (s : State) (first : Bool) (off : Nat) (data : List Byte) : State :=
  if !s.aodAnswers then s
  else match s.sec.update, first with
  | some _, true => s.fwReply 1
  | none, false => s.fwReply 3
  | u, _ => if s.sec.updateOk then s.fwReply 1
    else State.fwReply { s with sec := { s.sec with update := some (putAt (u.getD []) off data) } } 0

/-- The image that a file holds. -/
def imageOf (bs : List Byte) : Image :=
  let (svn, commit, key, sig) := Config.imageHeader bs
  { bytes := bs, body := bs.length, svn := min 64 svn, commit := commit, key := key, sig := sig }

/-- VerifyComplete: an image that R785 would refuse is refused; a good one lies in the slot that is not running. -/
def State.fwVerify (s : State) : State :=
  if !s.aodAnswers then s
  else match s.sec.update with
  | none => s.fwReply 3
  | some bs =>
    let i := imageOf bs
    if s.imageOk i then
      let s := if s.sec.runB then { s with sec := { s.sec with slotA := some i, updateOk := true } }
        else { s with sec := { s.sec with slotB := some i, updateOk := true } }
      s.fwReply 0
    else State.fwReply { s with sec := { s.sec with update := none, updateOk := false } } 2

/-- ActivateFirmware: ACTIVE_SLOT names the new image from the next level 2 or 3 release. -/
def State.fwActivate (s : State) : State :=
  if !s.aodAnswers then s
  else if s.sec.updateOk then
    (State.logEv { s with sec := { s.sec with activeB := !s.sec.runB, update := none, updateOk := false } } 0x0806 0 []).fwReply 0
  else s.fwReply 3

def execFirmwareUpdate (first : Bool) (off : Nat) (data : List Byte) (s : State) : Host.Outcome State Fault Refusal :=
  act (.firmwareUpdate first off data) (s.fwChunk first off data)
def execVerifyComplete (s : State) : Host.Outcome State Fault Refusal := act .verifyComplete s.fwVerify
def execActivateFirmware (s : State) : Host.Outcome State Fault Refusal := act .activateFirmware s.fwActivate

end Sys2Proof.Machine
end

