-- ==== Sys2Proof/Machine/Lexicon.lean ====
section
/-! DEFINITION. The Lexicon engine: tables, gather, scatter, the hot-row directory (07 R336 to R370). -/
namespace Sys2Proof.Machine

/-! ## Tables (R336 to R340) -/

/-- The registers of a slot as a descriptor captures them: base, scale base, rows, CFG, tensor ID, version. -/
def State.slotRegs (s : State) (n t : Nat) : List Nat :=
  [s.pairReg (tblOff n t 0) (tblOff n t 4), s.pairReg (tblOff n t 8) (tblOff n t 12), (s.reg (tblOff n t 16)).toNat,
   (s.reg (tblOff n t 20)).toNat, s.rf (tblOff n t 24) 0 24, s.rf (tblOff n t 28) 0 16]

/-- A captured table. -/
structure Table where
  base : Nat
  sbase : Nat
  rows : Nat
  cfg : Nat
  tid : Nat
  version : Nat
deriving DecidableEq, Repr

def Inst.table (x : Inst) : Table :=
  ⟨x.slot.getD 0 0, x.slot.getD 1 0, x.slot.getD 2 0, x.slot.getD 3 0, x.slot.getD 4 0, x.slot.getD 5 0⟩

namespace Table
variable (t : Table)
def rowBytes : Nat := let v := bits t.cfg 0 4; if 4 ≤ v ∧ v ≤ 12 then 2 ^ v else 16
def kind : Nat := bits t.cfg 4 2
def fmt : Nat := bits t.cfg 6 4
def scaled : Bool := t.kind != 0
def elems : Nat := if t.kind = 0 then t.rowBytes / 2 else if t.kind = 1 then t.rowBytes else 2 * t.rowBytes
/-- ROW_KIND and ELEM_FMT agree (R337). -/
def fmtOk : Bool :=
  if t.kind = 0 then t.fmt == BF16
  else if t.kind = 1 then t.fmt == INT8 || t.fmt == UINT8 || t.fmt == E4M3
  else if t.kind = 2 then t.fmt == E2M1 || t.fmt == INT4 || t.fmt == UINT4
  else false

/-- An address on a device. -/
def on (dev : Option Nat) (a : Nat) : Nat := match dev with | none => a | some d => d * 2 ^ 48 + locOf a
/-- Address of a row, and of its scale word, of the table as it stands on a device. -/
def rowAt (dev : Option Nat) (r : Nat) : Nat := on dev (t.base + r * t.rowBytes)
def scaleAt (dev : Option Nat) (r : Nat) : Nat := on dev (t.sbase + 2 * r)

/-- Granule `i` of the table with the scale words of the rows that begin in it (R339). -/
def gran (dev : Option Nat) (i op : Nat) : Gran :=
  let per := max 1 (1024 / t.rowBytes)
  let first := if t.rowBytes ≤ 1024 then i * per else i * 1024 / t.rowBytes
  let n := if t.rowBytes ≤ 1024 then min per (t.rows - first) else if i * 1024 % t.rowBytes = 0 then 1 else 0
  if t.scaled then ⟨on dev (t.base + 1024 * i), on dev (t.sbase + 2 * first), 2 * n, 0, t.tid, i, op⟩
  else plainGran (on dev (t.base + 1024 * i)) t.tid i op

/-- Granules that hold a row. -/
def rowGrans (dev : Option Nat) (r op : Nat) : List Gran :=
  (upto (r * t.rowBytes / 1024) (cdiv (r * t.rowBytes % 1024 + t.rowBytes) 1024)).map fun i => t.gran dev i op
end Table

/-- The table that a request names: the slot's own, or slot TABLE of the job's context on another device, whose registers the spec
gives no way to read (R342; log entry 35). Rows have the format of the descriptor's own slot. -/
def Inst.tableOn (x : Inst) (dev : Option Nat) : Table :=
  match dev with
  | none => x.table
  | some d =>
    let v := fun k => (Config.peerTable d x.job (x.f 6 7 6) x.id k).toNat
    { x.table with base := v 0 / 1024 * 1024, sbase := v 1 / 2 * 2, rows := v 2 % 2 ^ 32, tid := v 3 % 2 ^ 24 }

/-- A stored row: bytes and scale word. -/
structure TRow where
  bs : List Byte
  sw : Nat
deriving DecidableEq, Repr

def State.tRow (s : State) (x : Inst) (dev : Option Nat) (r : Nat) : TRow :=
  let t := x.tableOn dev
  ⟨s.rdx x (t.rowAt dev r) t.rowBytes, if t.scaled then leNat (s.rdx x (t.scaleAt dev r) 2) else 0⟩

/-- Exact values of a row, with its subnormal elements. -/
def Table.vals (t : Table) (r : TRow) : List Val × Nat :=
  let cs := unpackElems t.fmt t.elems r.bs
  (decodeGroup t.fmt r.sw cs,
    if t.scaled ∧ (r.sw / 256 = 0 ∨ 0xFE ≤ r.sw / 256) then 0 else (cs.filter (isSubnormal t.fmt)).length)

/-! ## The descriptor (R367 to R370) -/

def Inst.lexOp (x : Inst) : Nat := x.f 6 0 4
def Inst.lexTable (x : Inst) : Nat := x.f 6 7 6
def Inst.outFmt (x : Inst) : Nat := x.f 6 14 2
def Inst.count (x : Inst) : Nat := x.f 9 0 24
def Inst.lexEngine (x : Inst) : Nat := x.queue - 0x90

/-- Format cases of a LEXICON's words (R370); a case that names OP or HOT_ALL names word 6 (R79, log entry 7). -/
def Inst.badLexicon (x : Inst) : List (Bool × Nat) :=
  let op := x.lexOp
  let of := x.outFmt
  x.resv 6 [0xFFFE0000, 0x3FF, 0, 0xFF000000, 0x3FF, 0, 0xFF000000, 0, 0xFFF00000, 0x7F00000F] ++
  [(decide (4 < op) || of == 3 || (op == 1 && of != 0) || (op == 2 && of == 0) ||
      (bit (x.w 6) 16 && (op != 4 || x.lexTable != 63)) || (!x.expert && x.f 6 4 3 != 0) ||
      (op != 4 && x.count == 0) || (op != 2 && x.f 14 0 20 != 0), 6),
   (decide (0x200000 ≤ x.f 12 0 24), 12)]

/-- The word of a table slot whose formats do not agree. -/
def Inst.badTable (x : Inst) : Option Nat := if x.table.fmtOk then none else some 6

/-! ## The request list (R342 to R345) -/

/-- A request: device where it is another row's home, and row; `none` row for a null request. -/
structure Req where
  ix : Nat
  dev : Option Nat
  row : Option Nat
deriving DecidableEq, Repr

def Inst.idxLen (x : Inst) : Nat := x.count * (if bit (x.w 6) 13 then 8 else 4)

def State.requests (s : State) (x : Inst) : List Req :=
  let wide := bit (x.w 6) 13
  ((pieces (if wide then 8 else 4) (s.rdx x (x.a64 7) x.idxLen)).zipIdx).map fun p =>
    let v := leAt p.1 0 4
    let d := leAt p.1 6 2
    ⟨p.2, if wide && d != s.devId then some d else none, if v = 0xFFFFFFFF then none else some v⟩

/-- Merge windows of 4,096 requests. -/
def windowsOf (l : List Req) : List (List Req) := pieces 4096 l

/-- Granules of the index list that hold the requests of window `k`. -/
def Inst.idxGrans (x : Inst) (k n : Nat) : List Gran :=
  let w := if bit (x.w 6) 13 then 8 else 4
  let lo := 4096 * w * k
  (upto (lo / 1024) (cdiv (lo + w * n) 1024 - lo / 1024)).map fun i =>
    plainGran (x.a64 7 + 1024 * i) (setBits (x.f 12 0 24) 21 3 7) i 0

/-- Distinct rows of a window. -/
def reqRows (l : List Req) : List (Option Nat × Nat) := (l.filterMap fun q => q.row.map fun r => (q.dev, r)).eraseDups

/-- A request out of range of the table that it names (R349): nothing of its window is written. -/
def outOfRange (x : Inst) (l : List Req) : Bool := l.any fun q => match q.row with | some r => decide ((x.tableOn q.dev).rows ≤ r) | none => false

/-- Ranges read for rows: their granules with the scale words where these are checked, else the rows and their scale words
(R364). -/
def Inst.rowRanges (x : Inst) (checked : Bool) (rows : List (Option Nat × Nat)) : List (Nat × Nat) :=
  rows.flatMap fun p =>
    let t := x.tableOn p.1
    if checked then (t.rowGrans p.1 p.2 1).flatMap fun g => [(g.a, 1024), (g.sa, g.sl)]
    else [(t.rowAt p.1 p.2, t.rowBytes)] ++ (if t.scaled then [(t.scaleAt p.1 p.2, 2)] else [])

/-- Granules of rows, as input stream `op`. -/
def Inst.rowGrans (x : Inst) (rows : List (Option Nat × Nat)) (op : Nat) : List Gran :=
  (rows.flatMap fun p => (x.tableOn p.1).rowGrans p.1 p.2 op).eraseDups

/-- Bytes of the index list that hold the requests of window `k`. -/
def Inst.idxRange (x : Inst) (k n : Nat) : Nat × Nat :=
  let w := if bit (x.w 6) 13 then 8 else 4
  (x.a64 7 + 4096 * w * k, w * n)

/-! ## The hot-row directory (R352 to R363) -/

def hotSet (t r : Nat) : Nat := (r ^^^ (r / 2 ^ 14) ^^^ (r / 2 ^ 28) ^^^ (t * 256)) % 16384
def hotCrc (t : Table) (r : TRow) (row : Nat) : Word :=
  crc32c (r.bs ++ (if t.scaled then leBytes 2 r.sw else []) ++ leBytes 3 t.tid ++ leBytes 4 row)

/-- The context owns the engine's enabled directory. -/
def State.hotMine (s : State) (x : Inst) : Bool :=
  s.rf (lexOff x.lexEngine 4) 12 1 == 1 && s.rf (lexOff x.lexEngine 4) 8 4 == x.ctx

/-- The entry that serves a local row. -/
def State.hotHit (s : State) (x : Inst) (dev : Option Nat) (row : Nat) : Option HotEntry :=
  if dev.isSome || !s.hotMine x then none
  else (s.hot.find? fun e => e.1 == x.lexEngine && e.2.slot == x.lexTable && e.2.row == row && e.2.version == x.table.version).map Prod.snd

def State.hotAddr (s : State) (e off : Nat) : Nat := ssmBase (4 * e) + s.rf (lexOff e 0) 0 24 + off

/-- The row held by an entry, and whether its CRC stands. -/
def State.hotRow (s : State) (x : Inst) (h : HotEntry) : TRow × Bool :=
  let a := s.hotAddr x.lexEngine h.off
  let t := x.table
  let r : TRow := ⟨s.rd none a t.rowBytes, if t.scaled then leNat (s.rd none (a + t.rowBytes) 2) else 0⟩
  (r, hotCrc t r h.row == h.crc)

/-- HOT_LOAD of one row: the new state, and whether it was refused (R356, R357). -/
def State.hotLoad1 (s : State) (x : Inst) (row : Nat) : State × Bool :=
  let t := x.table
  let e := x.lexEngine
  let set := hotSet x.lexTable row
  let mine := s.hot.filter fun h => h.1 == e && hotSet h.2.slot h.2.row == set
  let stale := fun (h : HotEntry) => h.version != s.rf (tblOff x.ctx h.slot 28) 0 16
  let way := (List.range 8).find? fun w => match mine.find? fun h => h.2.way == w with | none => true | some h => stale h.2
  let used := s.rf (lexOff e 12) 0 24
  let room := min 128 (s.rf (lexOff e 4) 0 8) * 65536
  match way with
  | none => (s, true)
  | some w =>
    if room < 16 * used + t.rowBytes + 16 then (s, true)
    else
      let r := s.tRow x none row
      let s := s.wrPhys (s.hotAddr e (16 * used)) (r.bs ++ leBytes 16 r.sw)
      let ent : HotEntry := ⟨x.lexTable, row, t.version, 16 * used, hotCrc t r row, w⟩
      let keep := s.hot.filter fun h => !(h.1 == e && hotSet h.2.slot h.2.row == set && h.2.way == w)
      let s := { s with hot := keep ++ [(e, ent)] }
      ((s.setF (lexOff e 12) 0 24 (used + t.rowBytes / 16 + 1)).hotCount e, false)

/-! ## Shared by the operations -/

/-- The result record (R368). -/
def State.lexResult (s : State) (x : Inst) (unique hits nulls refused : Nat) : Chunk :=
  if bit (x.w 15) 31 then
    { Chunk.empty with outs := [⟨s.ssm0 (4 * x.lexEngine) + x.f 15 0 24, leBytes 4 unique ++ leBytes 4 hits ++ leBytes 4 nulls ++ leBytes 4 refused, 0⟩] }
  else Chunk.empty

def nulls (l : List Req) : Nat := (l.filter fun q => q.row.isNone).length
def uniques (ws : List (List Req)) : Nat := (ws.map fun w => (reqRows w).length).sum

/-- Windows whose requests can be read: those before the first whose part of the index list is refused, poisoned or out of
reach. -/
def State.openWindows (s : State) (x : Inst) (ws : List (List Req)) : List (List Req) :=
  ((ws.zipIdx).takeWhile fun p =>
    let r := x.idxRange p.2 p.1.length
    s.mayAcc x 0 r.1 r.2 && !s.poisonx x r.1 r.2 && (s.hostUp || !s.isOwn r.1 || !isHost (locOf r.1))).map Prod.fst

/-- The opening of an operation: the index list at hand and its devices judged, and the rows of the windows in range brought. A
device that is no member offends with IDX_FMT (R79, R370). -/
def State.lexOpen (s : State) (x : Inst) (rows : Bool) (more : List (Nat × Nat)) : Except State (List (List Req)) :=
  match s.want x ((x.a64 7, x.idxLen) :: more) with
  | some s' => .error s'
  | none =>
    let ws := windowsOf (s.requests x)
    let here := s.openWindows x ws
    if here.flatten.any fun q => match q.dev with | some d => !s.isMember x.ctx d | none => false then .error (s.endFormat x 6)
    else
      let good := here.takeWhile fun w => !outOfRange x w
      match s.want x ((x.a64 7, x.idxLen) :: more ++ (if rows then x.rowRanges x.checkDiac (good.flatMap reqRows) else [])) with
      | some s' => .error s'
      | none => .ok ws

/-! ## GATHER (R343 to R351, R361, R364) -/

/-- Bytes of an output row. -/
def Inst.outRow (x : Inst) : Nat := if x.outFmt = 0 then x.table.rowBytes else 2 * x.table.elems

/-- DATA's granule `i`; RAW rows of a scaled table carry their scale words (R350). -/
def Inst.dataGran (x : Inst) (i op : Nat) : Gran :=
  let rb := x.table.rowBytes
  if x.outFmt = 0 ∧ x.table.scaled then
    let per := max 1 (1024 / rb)
    let first := if rb ≤ 1024 then i * per else i * 1024 / rb
    let n := if rb ≤ 1024 then min per (x.count - first) else if i * 1024 % rb = 0 then 1 else 0
    ⟨x.a64 10 + 1024 * i, x.a64 10 + up1k (x.count * rb) + 2 * first, 2 * n, if rb ≤ 1024 then 2 * (per - n) else 0, x.f 12 0 24, i, op⟩
  else plainGran (x.a64 10 + 1024 * i) (x.f 12 0 24) i op

/-- One window of a GATHER; `before`: the rows of earlier windows, whose subnormal elements have been counted (R162). A BF16 row
is copied into BF16 (R176). -/
def State.gatherChunk (s : State) (x : Inst) (k : Nat) (w : List Req) (before : List (Option Nat × Nat)) : Chunk :=
  let t := x.table
  let far := outOfRange x w
  let hot := w.filterMap fun q => q.row.bind fun r => (s.hotHit x q.dev r).map fun h => (r, s.hotRow x h)
  let src := fun (q : Req) => match q.row with
    | none => (⟨List.replicate t.rowBytes 0#8, 0⟩ : TRow)
    | some r => match hot.find? fun h => q.dev.isNone && h.1 == r with
      | some h => h.2.1
      | none => s.tRow x q.dev r
  let cold := if far then [] else (reqRows w).filter fun p => !(p.1.isNone && hot.any fun h => h.1 == p.2)
  let i0 := 4096 * k
  let o := x.outRow
  let last := i0 + w.length = x.count
  let f := if x.outFmt = 2 then FP16 else BF16
  let raw := x.outFmt = 0 ∨ (x.outFmt = 1 ∧ t.kind = 0)
  let conv := w.map fun q => (q, t.vals (src q))
  let codes := conv.map fun c => if c.1.row.isNone then List.replicate t.elems (0, {}) else c.2.1.map fun v => to16 f v none
  let body := if raw then w.flatMap fun q => (src q).bs else codes.flatMap fun r => r.flatMap fun c => leBytes 2 c.1
  let tail := if last then List.replicate (up1k (x.count * o) - x.count * o) 0#8 else []
  let scales := if x.outFmt = 0 ∧ t.scaled then outAt (x.a64 10 + up1k (x.count * o) + 2 * i0) (w.flatMap fun q => leBytes 2 (src q).sw) else []
  let outs := outAt (x.a64 10 + o * i0) (body ++ tail) ++ scales
  let flush := (((reqRows w).filter fun p => !before.contains p).map fun p => match w.find? fun q => q.dev == p.1 && q.row == some p.2 with | some q => (t.vals (src q)).2 | none => 0).sum
  { need := x.idxGrans k w.length ++ x.rowGrans cold 1,
    use := x.idxRange k w.length :: x.rowRanges x.checkDiac cold,
    outs := outs, ren := (upto (o * i0 / 1024) (cdiv (o * (i0 + w.length)) 1024 - o * i0 / 1024)).map fun i => x.dataGran i 0,
    cnt := if raw then {} else (sumCnt (codes.flatMap fun r => r.map Prod.snd)).add { flush := flush },
    bad := if far then some (0xF, 0) else if x.checkDiac ∧ (hot.any fun h => !h.2.2) then some (4, 1) else none,
    who := if far then none else (hot.find? fun h => !h.2.2).map fun h => t.gran none (h.1 * t.rowBytes / 1024) 1 }

/-- A started LEXICON with an operation. -/
def State.lexicon (s : State) (i op : Nat) : Option Inst :=
  match s.started i 5 with
  | some x => if x.lexOp = op then some x else none
  | none => none

/-- The work of a GATHER over its windows. -/
def State.gatherWork (s : State) (x : Inst) (ws : List (List Req)) : Work :=
  let good := (s.openWindows x ws).takeWhile fun w => !outOfRange x w
  let hits := ((ws.flatten).filter fun q => match q.row with | some r => (s.hotHit x q.dev r).isSome | none => false).length
  ⟨(x.a64 7, x.idxLen) :: x.rowRanges x.checkDiac (good.flatMap reqRows),
    (ws.zipIdx).map fun p => s.gatherChunk x p.2 p.1 ((ws.take p.2).flatMap reqRows),
    s.lexResult x (uniques ws) hits (nulls ws.flatten) 0, 255, 0, 0⟩

def State.gather (s : State) (i : Nat) : State :=
  match s.lexicon i 0 with
  | none => s
  | some x =>
    match s.lexOpen x true [] with
    | .error s' => s'
    | .ok ws => s.runWork x (s.gatherWork x ws)

/-- LEXICON GATHER. -/
def execGather (i : Nat) (s : State) : Host.Outcome State Fault Refusal := act (.gather i) (s.gather i)

/-! ## SCATTER (R348) -/

/-- One window of a SCATTER. Checked, it reads the granules that its rows lie in as well (R364). -/
def State.scatterChunk (s : State) (x : Inst) (k : Nat) (w : List Req) : Chunk :=
  let rb := x.table.rowBytes
  let scaled := x.table.scaled
  let i0 := 4096 * k
  let far := outOfRange x w
  let rows := if far ∨ !x.checkDiac then [] else reqRows w
  let win := w.filter fun q => match q.row with | none => false | some r => !(w.any fun p => decide (q.ix < p.ix) && p.dev == q.dev && p.row == some r)
  let src := fun (q : Req) => (s.rdx x (x.a64 10 + rb * q.ix) rb,
    if scaled then s.rdx x (x.a64 10 + up1k (x.count * rb) + 2 * q.ix) 2 else [])
  let outs := win.flatMap fun q => match q.row with
    | none => []
    | some r => let b := src q
      [(⟨(x.tableOn q.dev).rowAt q.dev r, b.1, 2 ^ 60 + k⟩ : Out)] ++ (if scaled then [⟨(x.tableOn q.dev).scaleAt q.dev r, b.2, 2 ^ 60 + k⟩] else [])
  { need := x.idxGrans k w.length ++ ((upto (rb * i0 / 1024) (cdiv (rb * (i0 + w.length)) 1024 - rb * i0 / 1024)).map fun i => x.dataGran i 1) ++
      x.rowGrans rows 2,
    use := [x.idxRange k w.length, (x.a64 10 + rb * i0, rb * w.length)] ++
      (if scaled then [(x.a64 10 + up1k (x.count * rb) + 2 * i0, 2 * w.length)] else []) ++ x.rowRanges true rows,
    outs := outs, ren := x.rowGrans (win.filterMap fun q => q.row.map fun r => (q.dev, r)) 0,
    cnt := {}, bad := if far then some (0xF, 0) else none }

/-- The input region of a SCATTER, with its scale words. -/
def Inst.scatterData (x : Inst) : List (Nat × Nat) :=
  let rb := x.table.rowBytes
  [(x.a64 10, x.count * rb)] ++ (if x.table.scaled then [(x.a64 10 + up1k (x.count * rb), 2 * x.count)] else [])

/-- The work of a SCATTER over its windows. -/
def State.scatterWork (s : State) (x : Inst) (ws : List (List Req)) : Work :=
  let good := (s.openWindows x ws).takeWhile fun w => !outOfRange x w
  ⟨(x.a64 7, x.idxLen) :: x.scatterData ++ (if x.checkDiac then x.rowRanges true (good.flatMap reqRows) else []), (ws.zipIdx).map fun p => s.scatterChunk x p.2 p.1,
    s.lexResult x (uniques ws) 0 (nulls ws.flatten) 0, 255, 0, 0⟩

def State.scatter (s : State) (i : Nat) : State :=
  match s.lexicon i 1 with
  | none => s
  | some x =>
    match s.lexOpen x x.checkDiac x.scatterData with
    | .error s' => s'
    | .ok ws => s.runWork x (s.scatterWork x ws)

/-- LEXICON SCATTER. -/
def execScatter (i : Nat) (s : State) : Host.Outcome State Fault Refusal := act (.scatter i) (s.scatter i)

/-! ## HOT_LOAD and HOT_INVALIDATE -/

/-- One window of a HOT_LOAD: its granules, checked in full with CHECK_DIAC = 1 (R356, R364), and the entries it finds present. A row of another device cannot be
held, since an entry names a slot and a row (R355; log entry 35). -/
def State.hotChunk (s : State) (x : Inst) (k : Nat) (w : List Req) : Chunk :=
  let t := x.table
  let far := outOfRange x w
  let own := w.filter fun q => q.dev.isNone
  let found := own.filterMap fun q => q.row.bind fun r => (s.hotHit x none r).map fun h => (r, (s.hotRow x h).2)
  let cold := if far then [] else (reqRows own).filter fun p => !found.any fun h => h.1 == p.2
  { need := x.idxGrans k w.length ++ x.rowGrans cold 1,
    use := x.idxRange k w.length :: x.rowRanges x.checkDiac cold,
    outs := [], ren := [], cnt := {},
    bad := if far then some (0xF, 0) else if x.checkDiac ∧ found.any (fun h => !h.2) then some (4, 1) else none,
    who := if far then none else (found.find? fun h => !h.2).map fun h => t.gran none (h.1 * t.rowBytes / 1024) 1 }

/-- Load the rows of the windows that pass their checks: state, entries found, requests refused. -/
def State.hotFill (s : State) (x : Inst) (ws : List (List Req)) : State × Nat × Nat :=
  let good := (s.runChunks x [] ((ws.zipIdx).map fun p => s.hotChunk x p.2 p.1)).1
  ((ws.take good.length).flatten).foldl (fun (q : State × Nat × Nat) u =>
    match u.row with
    | none => q
    | some r =>
      if u.dev.isSome then (q.1, q.2.1, q.2.2 + 1)
      else match q.1.hotHit x none r with
      | some _ => (q.1, q.2.1 + 1, q.2.2)
      | none =>
        let v := q.1.hotLoad1 x r; (v.1, q.2.1, q.2.2 + (if v.2 then 1 else 0))) (s, 0, 0)

/-- The work of a HOT_LOAD beside its fills. -/
def State.hotWork (s : State) (x : Inst) (ws : List (List Req)) : Work :=
  let go := s.hotFill x ws
  let good := (s.openWindows x ws).takeWhile fun w => !outOfRange x w
  ⟨(x.a64 7, x.idxLen) :: x.rowRanges x.checkDiac ((good.flatMap reqRows).filter fun p => p.1.isNone),
    (ws.zipIdx).map fun p => s.hotChunk x p.2 p.1, s.lexResult x (uniques ws) go.2.1 (nulls ws.flatten) go.2.2, 255, 0, 0⟩

def State.hotLoad (s : State) (i : Nat) : State :=
  match s.lexicon i 3 with
  | none => s
  | some x =>
    if !s.hotMine x then s.endInst x 0xF 0 {}
    else match s.lexOpen x false [] with
      | .error s' => s'
      | .ok ws =>
        let go := s.hotFill x ws
        let w := s.hotWork x ws
        if (s.workDenied x w).isSome ∨ s.workHostDown w then s.runWork x w
        else go.1.runWork x w

/-- LEXICON HOT_LOAD. -/
def execHotLoad (i : Nat) (s : State) : Host.Outcome State Fault Refusal := act (.hotLoad i) (s.hotLoad i)

/-- A HOT_INVALIDATE writes its result only. -/
def State.invalWork (s : State) (x : Inst) : Work := ⟨[], [], s.lexResult x 0 0 0 0, 255, 0, 0⟩

/-- LEXICON HOT_INVALIDATE (R358). -/
def State.hotInvalidate (s : State) (i : Nat) : State :=
  match s.lexicon i 4 with
  | none => s
  | some x =>
    let e := x.lexEngine
    if !s.hotMine x then s.endInst x 0xF 0 {}
    else
      let all := bit (x.w 6) 16
      let s := { s with hot := s.hot.filter fun h => !(h.1 == e && (all || h.2.slot == x.lexTable)) }
      let s := s.hotCount e
      let s := if all then s.setF (lexOff e 12) 0 24 0 else s
      s.runWork x (s.invalWork x)

def execHotInvalidate (i : Nat) (s : State) : Host.Outcome State Fault Refusal := act (.hotInvalidate i) (s.hotInvalidate i)

end Sys2Proof.Machine
end

