-- ==== Sys2Proof/Machine/Receive.lean ====
section
/-! DEFINITION. Packets that arrive: flows, acknowledgements, count groups, the checks of a destination, and the kinds that move data and signals (11 R597 to R610; 09 R465, R849; 16 R797, R798). -/
namespace Sys2Proof.Machine

/-! ## Receive flows (R597, R598) -/

def State.flow? (s : State) (src : Nat) : Option RecvFlow := s.fab.recv.find? fun f => f.src == src

def State.putRecv (s : State) (f : RecvFlow) : State :=
  if s.fab.recv.any fun g => g.src == f.src then
    { s with fab := { s.fab with recv := s.fab.recv.map fun g => if g.src == f.src then f else g } }
  else { s with fab := { s.fab with recv := s.fab.recv ++ [f] } }

/-- RBASE slides up to the floor that a packet carries. -/
def RecvFlow.slide (f : RecvFlow) (floor : Nat) : RecvFlow :=
  if seqDist floor f.rbase < 2 ^ 23 then
    { f with rbase := floor, got := f.got.filter fun q => decide (seqDist q floor < 4096) }
  else f

/-- The first number from `b` up that is not delivered. -/
def firstGap (got : List Nat) : Nat → Nat → Nat
  | 0, b => b
  | n + 1, b => if got.contains b then firstGap got n ((b + 1) % m24) else b

/-- ABASE: every number below it is delivered. -/
def RecvFlow.abase (f : RecvFlow) : Nat := firstGap f.got f.got.length f.rbase

/-- Send the ACK of a flow: ABASE in 4 B, then the 64-bit bitmap (R598). -/
def State.sendAck (s : State) (src : Nat) : State :=
  match s.flow? src with
  | none => s
  | some f =>
    let b := f.abase
    let bm := (List.range 64).foldl (fun a i => if f.got.contains ((b + i) % m24) then a + 2 ^ i else a) 0
    (s.putRecv { f with unacked := 0, ackDue := none }).sendRaw (mkPkt .ack src 0 1 0 0 (leBytes 4 b ++ leBytes 8 bm))

/-- Send a NACK with a reason: 1 CRC, 2 ACCESS, 3 BUSY, 4 HELD, 5 DIAC, 6 COUNT (R598). -/
def State.sendNack (s : State) (p : Packet) (reason : Nat) : State :=
  s.sendRaw (mkPkt .nack p.src 0 1 0 reason (leBytes 4 p.seq))

/-- A packet is delivered: its bit, and an ACK within 1 µs, at once when 32 have gathered (R598, R599). -/
def State.noteDelivered (s : State) (src seq : Nat) : State :=
  match s.flow? src with
  | none => s
  | some f =>
    let s := s.putRecv
      { f with
        got := insNat seq f.got, unacked := f.unacked + 1, ackDue := some (f.ackDue.getD (s.clock.now + 1000)),
        lastAt := s.clock.now }
    if 32 ≤ f.unacked + 1 then s.sendAck src else s

/-! ## Refusals (R797, R798) -/

/-- FAB_ACCESS_DENIED counts; at most one record per flow is written per millisecond. -/
def State.countDenied (s : State) (p : Packet) : State :=
  let s := s.count32 0x30200 1
  match s.fab.denyAt.find? fun e => e.1 == p.src with
  | some e =>
    if s.clock.now < e.2 + 1000000 then s
    else State.logEv { s with fab := { s.fab with denyAt := sput p.src s.clock.now s.fab.denyAt } } 0x040A p.job [p.src]
  | none => State.logEv { s with fab := { s.fab with denyAt := sput p.src s.clock.now s.fab.denyAt } } 0x040A p.job [p.src]

/-- How the destination takes a packet: delivered, discarded without an answer, or refused with a reason. -/
inductive Verdict where
  | delivered
  | discarded
  | refused (reason : Nat)
deriving DecidableEq, Repr

def State.refuse (s : State) (p : Packet) (reason : Nat) : State :=
  if reason = 2 then (s.countDenied p).sendNack p 2 else s.sendNack p reason

/-! ## The checks of a destination (R797) -/

/-- The live context of a packet's job of which the sender is a member. -/
def State.peerCtx (s : State) (p : Packet) : Option Nat :=
  (s.ctxsOf p.job).find? fun n => decide (2 ≤ s.jobState n ∧ s.jobState n ≤ 4) && s.isMember n p.src

/-- The range lies in HBM windows of the context with PEER_R (`b` = 2) or PEER_W (`b` = 3), outside banks 1 and up. -/
def State.peerOk (s : State) (n b a len : Nat) : Bool :=
  match s.place a with
  | .hbm o => s.mapped a (max 1 len) && s.inWins n b o (max 1 len) 5 && !(s.regions n).any fun g => g.bankHit (s.banks n) a (max 1 len)
  | _ => false

/-- Semaphore named by ARG of a SIGNAL or SEM_OP. -/
def pktIndex (p : Packet) : Nat := bits p.arg 0 13
def pktUnit (p : Packet) : Nat := bits p.arg 13 6

def State.peerSemOk (s : State) (p : Packet) : Bool :=
  s.unitFitted (pktUnit p) && decide ((pktIndex p) < semCount (pktUnit p)) && s.semOwned (pktUnit p) (pktIndex p) p.job

/-- The unit that a SIGNAL or SEM_OP targets is asleep (R759). -/
def State.targetAsleep (s : State) (p : Packet) : Bool :=
  if (pktUnit p) < 32 then s.pow.asleep.contains (pktUnit p) else s.pow.ioDeep.contains ((pktUnit p) - 32)

def State.wakeTarget (s : State) (p : Packet) : State :=
  if (pktUnit p) < 32 then s.wakeCluster (pktUnit p) else s.wakeIo ((pktUnit p) - 32)

/-! ## Count groups (R605 to R608) -/

def State.group? (s : State) (src num : Nat) : Option CountGroup := s.fab.groups.find? fun g => g.src == src && g.num == num

def State.dropGroup (s : State) (src num : Nat) : State :=
  { s with fab := { s.fab with groups := s.fab.groups.filter fun g => !(g.src == src && g.num == num) } }

def State.putGroup (s : State) (g : CountGroup) : State :=
  let s := s.dropGroup g.src g.num
  { s with fab := { s.fab with groups := s.fab.groups ++ [g] } }

/-- Every listed granule matches the data now in place (R608). -/
def State.listedOk (s : State) (n : Nat) (g : CountGroup) : Bool :=
  g.diacs.all fun d => diacOf (s.rd (some n) d.1 1024) [] d.2.1 d.2.2.1 == d.2.2.2 && !s.rdPoison (some n) d.1 1024

/-- The ADD of a SIGNAL, with the checks of R461 (R465). -/
def State.applySignal (s : State) (p : Packet) : State :=
  if (s.peerCtx p).isNone || !s.peerSemOk p then s.refuse p 2
  else (s.semAdd (pktUnit p) (pktIndex p) (leAt p.payload 0 2)).noteDelivered p.src p.seq

/-- Test a held SIGNAL against its group's count (R607). -/
def State.retest (s : State) (src num : Nat) (arrival : Bool) : State :=
  match s.group? src num with
  | none => s
  | some g =>
    match g.held with
    | none => s
    | some p =>
      let expect := leAt p.payload 4 4
      if g.arrivals < expect then (if arrival then s.sendNack p 4 else s)
      else
        let s := s.dropGroup src num
        if expect < g.arrivals then (s.logEv 0x0405 g.job [src, num]).sendNack p 6
        else match s.peerCtx p with
          | none => s.refuse p 2
          | some n => if s.listedOk n g then s.applySignal p else (s.logEv 0x040B g.job [src, num]).sendNack p 5

/-! ## Taking a packet (R597 to R599) -/

/-- A packet of the flow that is no copy: its effect, its count group, its answer. `diacs`: Diacritics it lists. -/
def State.deliver (s : State) (p : Packet) (diacs : List (Nat × Nat × Nat × Word)) (go : State → State × Verdict) : State :=
  let g := (s.group? p.src p.group).getD ⟨p.src, p.group, p.job, 0, none, []⟩
  let needs := p.group != 0 && (s.group? p.src p.group).isNone && p.kind != .cgCancel
  if needs && decide (16384 ≤ s.fab.groups.length) then s.refuse p 3
  else if p.kind = .signal ∧ p.group ≠ 0 then
    match go s with
    | (s', .refused r) => s'.refuse p r
    | _ => (s.putGroup { g with held := some p }).retest p.src p.group true
  else
    match go s with
    | (s', .refused r) => s'.refuse p r
    | (s', .discarded) => s'
    | (s', .delivered) =>
      let s' := s'.noteDelivered p.src p.seq
      if p.group = 0 ∨ p.kind = .cgCancel then s'
      else (s'.putGroup { g with arrivals := g.arrivals + 1, diacs := g.diacs ++ diacs }).retest p.src p.group false

/-- A sequenced packet meets its flow (R597). -/
def State.takeSeq (s : State) (p : Packet) (diacs : List (Nat × Nat × Nat × Word)) (go : State → State × Verdict) : State :=
  if (s.flow? p.src).isNone ∧ 16384 ≤ s.fab.recv.length then s.refuse p 3
  else
    let f := ((s.flow? p.src).getD ⟨p.src, p.seqFloor, [], 0, none, s.clock.now⟩).slide p.seqFloor
    let s := s.putRecv f
    let off := seqDist p.seq f.rbase
    if 2 ^ 23 ≤ off ∨ f.got.contains p.seq then (s.count32 (dieOff 0 0x38010) 1).sendAck p.src
    else if 4096 ≤ off then s.logEv 0x0404 p.job [p.src, p.seq]
    else if s.fab.groups.any (fun g => g.src == p.src && g.held.any fun h => h.seq == p.seq) then s.sendNack p 4
    else s.deliver p diacs go

/-- A packet that the switch delivered leaves the die's buffer. -/
def State.popLocal (s : State) (p : Packet) : State :=
  { s with fab := { s.fab with buf := s.fab.buf.filter fun b => !(b.link.isNone && decide ({ b.pkt with vc := p.vc, hopLimit := p.hopLimit } = p)) } }

/-- A packet of a kind arrives: it must be for this device, header-intact and with a good CRC (R583, R598). -/
def State.arrive (s : State) (kind : PKind) (p : Packet) (diacs : List (Nat × Nat × Nat × Word))
    (go : State → State × Verdict) : State :=
  let s := s.popLocal p
  if p.kind ≠ kind ∨ p.dst ≠ s.devId ∨ !s.ready ∨ !intact p then s
  else if !crcGood p then s.sendNack p 1
  else s.takeSeq p diacs go

/-- A REQ or SHORT packet with the context that its checks find (R797). -/
def State.arriveReq (s : State) (kind : PKind) (p : Packet) (diacs : List (Nat × Nat × Nat × Word))
    (go : State → Nat → State × Verdict) : State :=
  s.arrive kind p diacs fun s => match s.peerCtx p with | none => (s, .refused 2) | some n => go s n

/-! ## WRITE, DIAC, READ_REQ, READ_RSP (R581) -/

/-- A write to a range of a peer's windows; journal space that is lacking is a table entry that cannot be had. -/
def State.peerWrite (s : State) (n a : Nat) (bs : List Byte) : State × Verdict :=
  if !s.peerOk n 3 a bs.length then (s, .refused 2)
  else if !s.jnlRoom n [(a, bs.length)] then (s, .refused 3)
  else (s.wr (some n) a bs, .delivered)

def State.onWrite (s : State) (p : Packet) : State :=
  s.arriveReq .write p [] fun s n => s.peerWrite n p.addr p.payload

/-- WRITE (R581, R599). -/
def execWrite (p : Packet) (s : State) : Host.Outcome State Fault Refusal := act (.write p) (s.onWrite p)

/-- The Diacritics that a DIAC packet lists: address, tensor ID, index, value. -/
def diacList (p : Packet) : List (Nat × Nat × Nat × Word) :=
  let ix := leAt p.payload 0 4
  (((toWords (p.payload.drop 4)).take 127).zipIdx).map fun w => (p.addr + 1024 * w.2, p.arg % 2 ^ 24, (ix + w.2) % 2 ^ 32, w.1)

def State.onDiac (s : State) (p : Packet) : State :=
  let l := diacList p
  s.arriveReq .diac p l fun s n =>
    if !s.peerOk n 3 p.addr (1024 * l.length) then (s, .refused 2)
    else (l.foldl (fun s d => s.setDiac n d.1 d.2.2.2) s, .delivered)

/-- DIAC: the listed Diacritics are written, and joined to the count group (R581, R608). -/
def execDiac (p : Packet) (s : State) : Host.Outcome State Fault Refusal := act (.diac p) (s.onDiac p)

/-- The data of a read goes back in READ_RSP packets of at most 512 B, tagged as the request was. -/
def State.sendReadRsp (s : State) (p : Packet) (back : Nat) (bs : List Byte) : State :=
  ((pieces 512 bs).zipIdx).foldl (fun s b => s.sendSeq none 0 (mkPkt .readRsp p.src p.job 1 (back + 512 * b.2) p.arg b.1)) s

def State.onReadReq (s : State) (p : Packet) : State :=
  let back := leAt p.payload 0 6
  let len := leAt p.payload 8 4
  s.arriveReq .readReq p [] fun s n =>
    if len = 0 ∨ 65536 < len ∨ !s.peerOk n 2 p.addr len then (s, .refused 2)
    else if s.rdPoison (some n) p.addr len then (s.logPoison (some n) p.job [(p.addr, len)], .refused 5)
    else if !s.sendRoom p.src (cdiv len 512) then (s, .refused 3)
    else (s.sendReadRsp p back (s.rd (some n) p.addr len), .delivered)

/-- READ_REQ (R581; log entry 28). -/
def execReadReq (p : Packet) (s : State) : Host.Outcome State Fault Refusal := act (.readReq p) (s.onReadReq p)

/-- The range [a, a + n) lies in a range that the descriptor asked for. -/
def Inst.askedFor (x : Inst) (a n : Nat) : Bool := x.asked.any fun r => decide (r.1 ≤ a) && decide (a + n ≤ r.1 + r.2)

/-- Data that a read brings: staged for the descriptor that asked, or the value of a remote SEM READ written to its
result address (R581, R849; log entry 28). -/
def State.takeRsp (s : State) (p : Packet) : State :=
  let a := p.src * 2 ^ 48 + p.addr
  let n := p.payload.length
  match s.insts.find? fun x => (x.phase == .started || x.phase == .done) && decide (x.id % 2 ^ 32 = p.arg) && x.askedFor a n with
  | some x => s.modInst x.id fun y => { y with staged := memWrite y.staged a p.payload, awaiting := y.awaiting - n }
  | none =>
    match s.insts.find? fun x => (x.phase == .started || x.phase == .done) && x.opcode == 0x0B && x.f 6 0 3 == 5 && x.f 8 0 16 == p.src && x.stage == p.arg + 1 with
    | some x =>
      if x.awaiting = 0 then s
      else (s.wr (some x.ctx) p.addr (p.payload.take 4)).modInst x.id fun y => { y with awaiting := 0 }
    | none => s

def State.onReadRsp (s : State) (p : Packet) : State :=
  s.arrive .readRsp p [] fun s => (s.takeRsp p, .delivered)

/-- READ_RSP. -/
def execReadRsp (p : Packet) (s : State) : Host.Outcome State Fault Refusal := act (.readRsp p) (s.onReadRsp p)

/-! ## SIGNAL, SEM_OP, CG_CANCEL (R462, R465, R581, R607, R610, R759) -/

def State.onSignal (s : State) (p : Packet) : State :=
  s.arriveReq .signal p [] fun s _ =>
    if !s.peerSemOk p then (s, .refused 2)
    else if s.targetAsleep p then (s.wakeTarget p, .refused 3)
    else (s.semAdd (pktUnit p) (pktIndex p) (leAt p.payload 0 2), .delivered)

/-- SIGNAL: applied, or held until its group has arrived. -/
def execSignal (p : Packet) (s : State) : Host.Outcome State Fault Refusal := act (.signal p) (s.onSignal p)

/-- A SUB below 0 of a core writes a SEM_UNDER record and is reported in the next STEP_DONE (R97, R470). -/
def State.semUnder (s : State) (n u i : Nat) : State := (s.logEv 0x0306 (s.jobId n) [i + 2 ^ 13 * u]).addErr n 0xB

/-- The operation of a SEM_OP packet; its ring rules are those of any port but the ring's own (R482). A SUB that saturates
takes effect and its descriptor learns E_SEM_UNDER (R462), a SUB of a slot ring's semaphore has no effect and its
descriptor learns E_STATE (R482), by an answer that R598 leaves open (log entry 38). -/
def State.peerSem (s : State) (_ : Nat) (p : Packet) : State × Verdict :=
  let u := (pktUnit p)
  let i := (pktIndex p)
  let sop := bits p.arg 19 3
  let v := leAt p.payload 0 4
  if !s.peerSemOk p then (s, .refused 2)
  else if s.targetAsleep p then (s.wakeTarget p, .refused 3)
  else if sop = 0 then (s.semAdd u i v, .delivered)
  else if sop = 1 then
    if s.ringForbids u i 65536 false then (s.sendNack p 8, .delivered)
    else
      let (t, under) := s.semSub u i v
      (if under then t.sendNack p 7 else t, .delivered)
  else if sop = 4 then (s.semPut u i v, .delivered)
  else if sop = 5 then
    let back := leAt p.payload 0 6
    if back = 0 then (s, .delivered)
    else if !s.sendRoom p.src 1 then (s, .refused 3)
    else (s.sendSeq none 0 (mkPkt .readRsp p.src p.job 1 back p.seq (leBytes 4 (s.semVal u i))), .delivered)
  else (s, .refused 2)

def State.onSemOp (s : State) (p : Packet) : State := s.arriveReq .semOp p [] fun s n => s.peerSem n p

/-- SEM_OP. -/
def execSemOp (p : Packet) (s : State) : Host.Outcome State Fault Refusal := act (.semOp p) (s.onSemOp p)

def State.onCgCancel (s : State) (p : Packet) : State :=
  s.arriveReq .cgCancel p [] fun s _ => (s.dropGroup p.src p.group, .delivered)

/-- CG_CANCEL frees a group's entry (R610). -/
def execCgCancel (p : Packet) (s : State) : Host.Outcome State Fault Refusal := act (.cgCancel p) (s.onCgCancel p)

/-! ## ACK_SEND and FLOW_EVICTION (R598, R601) -/

/-- Deliveries are acknowledged within 1 µs. -/
def State.ackSend (s : State) (src : Nat) : State :=
  match s.flow? src with
  | some f => if 0 < f.unacked then s.sendAck src else s
  | none => s

def execAckSend (src : Nat) (s : State) : Host.Outcome State Fault Refusal := act (.ackSend src) (s.ackSend src)

/-- A receive flow idle for 1 ms may be evicted. -/
def State.evictFlow (s : State) (src : Nat) : State :=
  match s.flow? src with
  | some f =>
    if f.lastAt + 1000000 ≤ s.clock.now ∧ f.unacked = 0 then { s with fab := { s.fab with recv := s.fab.recv.filter fun g => g.src != src } }
    else s
  | none => s

def execFlowEviction (src : Nat) (s : State) : Host.Outcome State Fault Refusal := act (.flowEviction src) (s.evictFlow src)

/-! ## Manager messages (R798) -/

/-- A CTRL_MSG is accepted from the own manager, from a member of the domain at the manager, or from another domain
manager for time exchange. -/
def State.ctrlOk (s : State) (p : Packet) (time : Bool) : Bool :=
  p.src == s.managerId || (s.isManager && p.src / 64 == s.devId / 64) || (time && s.isManager && p.src % 64 == 0)

/-- A manager message of a type arrives. A refused one is discarded and counted. -/
def State.arriveCtrl (s : State) (p : Packet) (type : Nat) (time : Bool) (go : State → State) : State :=
  if p.arg ≠ type then s
  else s.arrive .ctrlMsg p [] fun s =>
    if s.ctrlOk p time then (go s, .delivered) else (s.countDenied p, .discarded)

/-- Word `k` of a message. -/
def pktWord (p : Packet) (k : Nat) : Nat := leAt p.payload (4 * k) 4

end Sys2Proof.Machine
end

