-- ==== Sys2Proof/Machine/Transport.lean ====
section
/-! DEFINITION. The sending side of flows, the switch, the links (11 R570 to R572, R583 to R586, R596, R602, R603, R851 to R853; 09 R497). -/
namespace Sys2Proof.Machine

/-! ## Stored packets (R602 to R604) -/

def State.stored? (s : State) (d seq : Nat) : Option Stored := (s.sendFlow d).stored.find? fun e => e.pkt.seq == seq

def State.modStored (s : State) (d seq : Nat) (f : Stored → Stored) : State :=
  s.putSend { s.sendFlow d with stored := (s.sendFlow d).stored.map fun e => if e.pkt.seq == seq then f e else e }

/-- One Interjection credit towards a member comes back (R497). -/
def State.creditBack (s : State) (d : Nat) : State :=
  { s with fab := { s.fab with creditsUsed := sset 0 (d % 64) (sget 0 s.fab.creditsUsed (d % 64) - 1) s.fab.creditsUsed } }

/-- A packet leaves the store: a closing packet frees its group's number (R605), its descriptor ends later (R90). -/
def State.unstore (s : State) (e : Stored) : State :=
  let f := s.sendFlow e.pkt.dst
  let s := s.putSend { f with stored := f.stored.filter fun g => g.pkt.seq != e.pkt.seq }
  let s := if e.pkt.group ≠ 0 ∧ (e.pkt.kind = .signal ∨ e.pkt.kind = .cgCancel) then s.freeGroup e.pkt.dst e.pkt.group else s
  match e.inst with
  | some i => s.modInst i fun y => if y.phase == .done then { y with endTs := s.clock.fab } else y
  | none => s

/-- The packet ends the descriptor that sent it, unless a status other than OK came first (R603). -/
def State.failInst (s : State) (e : Stored) (status detail : Nat) : State :=
  match e.inst.bind s.inst? with
  | none => s
  | some x =>
    let due := if e.pkt.kind = .readReq then x.awaiting - leAt e.pkt.payload 8 4 else if e.pkt.kind = .semOp then 0 else x.awaiting
    let x := { x with awaiting := due }
    let s := s.setInst x
    if x.phase = .started then s.endInst x status detail x.cnt
    else if x.status = 0 then s.setInst { x with status := status, detail := detail } else s

/-- Give a packet up: the record of R603, PEER_UNREACHABLE for E_TIMEOUT, credit 100 µs after the last send (R497). -/
def State.giveUp (s : State) (e : Stored) (status detail : Nat) : State :=
  let s := s.unstore e
  let s := if e.pkt.tc ≠ 3 then s
    else if status = 7 then { s with fab := { s.fab with creditsDue := s.fab.creditsDue ++ [(e.pkt.dst % 64, e.sentAt)] } }
    else s.creditBack e.pkt.dst
  let s := s.logEv 0x0406 e.pkt.job [e.pkt.dst, e.pkt.seq, status]
  let s := if status = 7 then s.sendCtrl s.managerId 0x11 [e.pkt.job, e.pkt.dst, e.pkt.seq] else s
  s.failInst e status detail

def State.tResend (s : State) : Nat := let v := s.rf (dieOff 0 0x38004) 0 10; if v = 0 then 20 else min v 1000
def State.resendMax (s : State) : Nat := let v := s.rf (dieOff 0 0x38004) 16 4; if v = 0 then 8 else v

/-- Send a stored packet again: the epoch in force, VC0, 31 hops (R596). -/
def State.resend (s : State) (e : Stored) (uses : Bool) : State :=
  if uses && decide (s.resendMax ≤ e.resends) then s.giveUp e 7 0
  else
    let q := sealPkt { e.pkt with epoch := s.injEpoch, vc := 0, hopLimit := 31 }
    let s' := s.modStored e.pkt.dst e.pkt.seq fun g =>
      { g with pkt := q, resends := g.resends + (if uses then 1 else 0), sentAt := s.clock.now, busyAt := none }
    s'.inject (s.storeDie e) q

/-- A reply for this device that checks. -/
def State.replyOk (s : State) (kind : PKind) (p : Packet) : Bool :=
  p.kind == kind && p.dst == s.devId && s.ready && intact p && crcGood p

/-- An ACK frees what it covers: numbers below ABASE and those of its bitmap (R598, R602). -/
def State.onAck (s : State) (p : Packet) : State :=
  let s := s.popLocal p
  if !s.replyOk .ack p then s
  else
    let b := leAt p.payload 0 3
    let bm := leAt p.payload 4 8
    let hit := fun (e : Stored) =>
      let below := seqDist b e.pkt.seq
      let above := seqDist e.pkt.seq b
      (decide (0 < below) && decide (below ≤ 2 ^ 23)) || (decide (above < 64) && bit bm above)
    ((s.sendFlow p.src).stored.filter hit).foldl (fun s e =>
      let s := s.unstore e
      if e.pkt.tc = 3 then s.creditBack e.pkt.dst else s) s

def execAck (p : Packet) (s : State) : Host.Outcome State Fault Refusal := act (.ack p) (s.onAck p)

/-- A NACK, by its reason (R602). A SHORT packet that is sent again takes the credit that its NACK returns (log entry 39). -/
def State.onNack (s : State) (p : Packet) : State :=
  let s := s.popLocal p
  if !s.replyOk .nack p then s
  else match s.stored? p.src (leAt p.payload 0 3) with
  | none => s
  | some e =>
    if p.arg = 1 then s.resend e true
    else if p.arg = 2 then s.giveUp e 0xF 0
    else if p.arg = 3 then s.modStored p.src e.pkt.seq fun g => { g with busyAt := some s.clock.now }
    else if p.arg = 4 then s.modStored p.src e.pkt.seq fun g => { g with sentAt := s.clock.now }
    else if p.arg = 5 then s.giveUp e 4 0
    else if p.arg = 6 then s.giveUp e 5 7
    else if p.arg = 7 then (s.unstore e).failInst e 0xB 0
    else if p.arg = 8 then (s.unstore e).failInst e 1 0
    else s

def execNack (p : Packet) (s : State) : Host.Outcome State Fault Refusal := act (.nack p) (s.onNack p)

/-- T_RESEND elapses with no reply. -/
def State.resendTimeout (s : State) (d seq : Nat) : State :=
  match s.stored? d seq with
  | some e => if e.busyAt.isNone ∧ e.sentAt + 1000 * s.tResend ≤ s.clock.now then s.resend e true else s
  | none => s

def execResendTimeout (dst seq : Nat) (s : State) : Host.Outcome State Fault Refusal :=
  act (.resendTimeout dst seq) (s.resendTimeout dst seq)

/-- 2 µs after a NACK BUSY. -/
def State.busyResend (s : State) (d seq : Nat) : State :=
  match s.stored? d seq with
  | some e => match e.busyAt with
    | some t => if t + 2000 ≤ s.clock.now then s.resend e false else s
    | none => s
  | none => s

def execBusyResend (dst seq : Nat) (s : State) : Host.Outcome State Fault Refusal :=
  act (.busyResend dst seq) (s.busyResend dst seq)

/-- CREDIT_RETURN_TIMER: 100 µs after the last send of a SHORT packet given up with E_TIMEOUT (R497). -/
def State.creditTimer (s : State) (m : Nat) : State :=
  match s.fab.creditsDue.find? fun e => e.1 == m && decide (e.2 + 100000 ≤ s.clock.now) with
  | none => s
  | some e => State.creditBack { s with fab := { s.fab with creditsDue := s.fab.creditsDue.erase e } } m

def execCreditReturnTimer (member : Nat) (s : State) : Host.Outcome State Fault Refusal :=
  act (.creditReturnTimer member) (s.creditTimer member)

/-! ## The switch (R583 to R586, R595, R614, R856) -/

/-- Packets other than CTRL may be injected (R11, R614). -/
def State.mayInject (s : State) : Bool := (s.fab.admitted || s.isManager) && !s.fab.injectOff

/-- PACKET_FORWARD: a packet that the device formed, or one that arrived on a link, meets the switch. A formed one waits while the
die's switch buffer has no room; the credits of R584 let a neighbour send only what has room. -/
def State.forward (s : State) (die : Nat) (link : Option Nat) (p : Packet) : State :=
  if !s.ready then s
  else match link with
  | none =>
    if !s.fab.outbox.contains (die, p) ∨ (p.tc ≠ 2 ∧ !s.mayInject) ∨ !s.bufRoom die p then s
    else State.switchPkt { s with fab := { s.fab with outbox := s.fab.outbox.erase (die, p) } } die none p
  | some l =>
    if die ≠ l / 16 ∨ s.linkState l ≠ 2 then s
    else if !intact p then s.linkDrop l
    else match p.kind with
      | .reserved _ => { s with fab := { s.fab with badKind := satAdd 32 s.fab.badKind 1 } }
      | _ => s.switchPkt die (some l) p

def execPacketForward (die : Nat) (link : Option Nat) (p : Packet) (s : State) : Host.Outcome State Fault Refusal :=
  act (.packetForward die link p) (s.forward die link p)

/-- PACKET_AGE_EXPIRY: a packet has waited 2 µs in an I/O die's buffers (R586). -/
def State.agePacket (s : State) (ix : Nat) : State :=
  match s.fab.buf[ix]? with
  | some b =>
    if b.at_ + 2000 ≤ s.clock.now then
      { s with fab := { s.fab with buf := s.fab.buf.eraseIdx ix, pktAged := satAdd 32 s.fab.pktAged 1 } }
    else s
  | none => s

def execPacketAgeExpiry (ix : Nat) (s : State) : Host.Outcome State Fault Refusal := act (.packetAgeExpiry ix) (s.agePacket ix)

/-! ## Links (R571, R572, R851, R852) -/

/-- A link enters FAILED: its queue is dropped, a record and a message are written (R571). -/
def State.failLink (s : State) (l : Nat) : State :=
  let lost := (s.fab.buf.filter fun b => b.link == some l).length
  let s := s.setLinkState l 3
  let s := State.count32 { s with fab := { s.fab with buf := s.fab.buf.filter fun b => b.link != some l } } (linkOff l 0x10) lost
  (s.logEv 0x0403 0 [l]).tellLink l

/-- A DOWN link with ENABLE = 1 starts a training attempt (R851, R852). -/
def State.trainStart (s : State) (l : Nat) : State :=
  if s.linkState l = 0 ∧ s.rf (linkOff l 0) 0 1 = 1 ∧ s.rst.phase ≠ .asserted then s.setLinkState l 1 else s

def execLinkTrainingStart (link : Nat) (s : State) : Host.Outcome State Fault Refusal :=
  act (.linkTrainingStart link) (s.trainStart link)

/-- A training attempt ends: UP with the neighbour found, DOWN, or FAILED after the third failure. -/
def State.trainEnd (s : State) (l : Nat) (up : Bool) (port dev : Nat) : State :=
  if s.linkState l ≠ 1 then s
  else if up then
    ((s.putLink l ⟨0, 0, s.clock.now⟩).setF (linkOff l 4) 8 8 port).setF (linkOff l 4) 16 16 dev |>.setLinkState l 2
  else
    let h := s.linkFails l
    let s := s.putLink l { h with fails := h.fails + 1 }
    if 3 ≤ h.fails + 1 then s.failLink l else s.setLinkState l 0

def execLinkTrainingEnd (link : Nat) (up : Bool) (peerPort peerDev : Nat) (s : State) : Host.Outcome State Fault Refusal :=
  act (.linkTrainingEnd link up peerPort peerDev) (s.trainEnd link up peerPort peerDev)

/-- Uncorrectable codewords are counted; more than 64 within one millisecond fail the link (R570, R571). -/
def State.uncorr (s : State) (l n : Nat) : State :=
  if s.linkState l ≠ 2 then s
  else
    let h := s.linkFails l
    let h := if h.since + 1000000 ≤ s.clock.now then { h with uncorr := n, since := s.clock.now } else { h with uncorr := h.uncorr + n }
    let s := (s.count32 (linkOff l 0xC) n).putLink l h
    if 64 < h.uncorr then s.failLink l else s

def execLinkFailed (link n : Nat) (s : State) : Host.Outcome State Fault Refusal := act (.linkFailed link n) (s.uncorr link n)

/-- The far end's signal is lost: DOWN (R851). -/
def State.signalLoss (s : State) (l : Nat) : State := if s.linkState l = 2 then s.setLinkState l 0 else s

def execLinkSignalLoss (link : Nat) (s : State) : Host.Outcome State Fault Refusal := act (.linkSignalLoss link) (s.signalLoss link)

/-- LINK_STATE and PEER_UNREACHABLE are handed to manager firmware (R853). -/
def State.toFirmware (s : State) (p : Packet) (type : Nat) : State :=
  s.arriveCtrl p type false fun s => { s with mgr := { s.mgr with fwInbox := s.mgr.fwInbox ++ [p] } }

def execLinkState (p : Packet) (s : State) : Host.Outcome State Fault Refusal := act (.linkState p) (s.toFirmware p 0x10)
def execPeerUnreachable (p : Packet) (s : State) : Host.Outcome State Fault Refusal := act (.peerUnreachable p) (s.toFirmware p 0x11)

end Sys2Proof.Machine
end

