-- ==== Sys2Proof/Machine/Exchange.lean ====
section
/-! DEFINITION. REDUCE, reduction windows, their packets, TOPK and SCATTER_ADD (10 R514 to R567; 07 R365, R366). -/
namespace Sys2Proof.Machine

/-! ## The descriptor (R562 to R567) -/

def Inst.rOp (x : Inst) : Nat := x.f 6 0 3
def Inst.rSparse (x : Inst) : Bool := bit (x.w 6) 4
def Inst.rLg (x : Inst) : Nat := x.f 6 7 8
def Inst.rWid (x : Inst) : Nat := x.f 7 0 20
def Inst.rHome (x : Inst) : Nat := x.f 8 0 16
/-- SHADOW; the firmware fills in the dual partner of HOME for a basic descriptor (R566). -/
def Inst.rShadow (x : Inst) : Nat := if x.expert then x.f 8 16 16 else Config.dualPartner x.rHome
def Inst.rLen (x : Inst) : Nat := if x.rOp = 0 ∧ x.rSparse then x.w 12 + 2 ^ 32 * x.f 13 0 8 else x.w 12
def Inst.rStep (x : Inst) : Nat := x.step % 2 ^ 32

/-- Format cases of the body; an OPEN names its own device as HOME, and HOME and SHADOW are judged by R567 (log entry 40). A case
that names an OP or a kind of window names word 6 (R79, log entry 7). -/
def State.badReduce (s : State) (x : Inst) : List (Bool × Nat) :=
  let op := x.rOp
  let sp := x.rSparse
  let open_ := op == 0
  let dense := op == 1 || (open_ && !sp)
  let len := x.w 12 + 2 ^ 32 * x.f 13 0 8
  let member := fun d => s.isMember x.ctx d
  let ksh := x.f 14 24 4
  x.resv 6 [0xFF000000, 0xFFF00000, 0, 0xFFFE0000, 0x3F, 0, 0, 0xFFFFFF00, 0xF0000000, full] ++
  [(decide (3 < op), 6), (len == 0, 12), (dense && decide (2 ^ 25 < len), 6),
   (open_ && !sp && bit (x.w 6) 3 && (decide (2 * len < 4 * mib) || decide (64 * mib < 2 * len) || len % 128 != 0), 6),
   (!(open_ && sp) && x.f 13 0 8 != 0, 6), ((open_ && sp) == (x.f 14 0 24 == 0), 6),
   (if op == 1 && sp then decide (ksh < 2) || decide (10 < ksh) else ksh != 0, 6),
   (open_ && (x.f 9 0 17 == 0 || decide (65536 < x.f 9 0 17)), 6),
   (!member x.rHome || (open_ && x.rHome != s.devId) || (open_ && x.expert && (!member x.rShadow || x.rShadow == x.rHome)) ||
      (!x.expert && x.f 8 16 16 != 0), 8)]

/-- DETAIL of the operand block's faults (R563, R567): 16 + word, or OP's word for a case that names OP. -/
def Inst.redBlockBad (x : Inst) : Option Nat :=
  let op := x.rOp
  let z := fun (k mask : Nat) => (x.blk k 0 32 &&& mask != 0, k)
  let rest := fun (k : Nat) => (upto k (16 - k)).map fun j => z j full
  let bad16 := x.blk 2 24 4 != BF16 && x.blk 2 24 4 != FP16
  if (op = 1 && !x.rSparse || op = 2) && bad16 then some 6
  else (worst (
    if op = 0 then
      [z 0 0x3FF, z 2 0xFF000000, (decide (0x200000 ≤ x.blk 2 0 24), 2), z 3 0x3F, z 5 0xFFFFC000,
       (x.blk 5 0 8 == 0 || x.blk 5 0 8 == 255, 5), z 6 0x3F, z 8 0xFF000000, (decide (0x200000 ≤ x.blk 8 0 24), 8)] ++ rest 9
    else if op = 1 then
      [z 2 0xF0000000] ++ (upto 3 5).map (fun j => z j full) ++
      [z 8 0xFF000000, (decide (0x200000 ≤ x.blk 8 0 24), 8)] ++ rest 9
    else if op = 2 then [z 2 0xF0000000] ++ rest 5
    else [z 0 0xFF, z 2 0xFF000000, z 3 0xFF, z 4 0xFFFF0000] ++ rest 5)).map (16 + ·)

/-- A started REDUCE with an OP, its operand block at hand and judged. -/
def State.reduceOf (s : State) (i op : Nat) : Except State (State × Inst) :=
  match s.started i 9 with
  | none => .error s
  | some x =>
    if x.rOp ≠ op then .error s
    else match s.withBlock x (x.a64 10) 64 with
      | .error s' => .error s'
      | .ok (s, x) => match x.redBlockBad with | some k => .error (s.endFormat x k) | none => .ok (s, x)

/-! ## I16B and the Agreement digest (R519 to R521, R551 to R553) -/

/-- The code of a value at a bucket exponent: none for NaN and infinity; counts (R520). -/
def toI16b (x : Val) (exp : Nat) (r : Option Nat) : Option Int × Counters :=
  match x with
  | .fin neg m =>
    let q := roundInt (m * pow2 (127 - (exp : Int))) r
    let v : Int := (min q 32767 : Nat)
    (some (if neg then -v else v), { sat := if 32767 < q then 1 else 0, flush := if m ≠ 0 ∧ q = 0 then 1 else 0 })
  | _ => (none, { nan := 1 })

/-- Coefficient of window element `i` (R551). -/
def digestCoef (seed tid step i : Nat) : Nat :=
  let c := feistel (feCounter tid step 3 i 0) seed % 2 ^ 61
  if c = mersenne61 then 0 else c

/-- Σ c_i × v_i modulo 2^61 − 1. -/
def digestOf (seed tid step : Nat) (l : List (Nat × Int)) : Nat :=
  ((l.foldl (fun (a : Int) p => a + (digestCoef seed tid step p.1 : Nat) * p.2) 0) % (mersenne61 : Nat)).toNat

/-- y_i of an output or a copy: its value times 2^(127 − EXP); 0 for a non-finite one (R553). -/
def outScaled (f exp c : Nat) : Rat :=
  match decodeFloat (floatFmt f) c with
  | .fin neg m => let v := m * pow2 (127 - (exp : Int)); if neg then -v else v
  | _ => 0

/-! ## Packets (R540, R541) -/

def redHead (kind : Nat) (shadow : Bool) (wid exp step count addr coef gf : Nat) : List Byte :=
  leBytes 4 (kind + (if shadow then 8 else 0) + wid * 16 + exp * 2 ^ 24) ++ leBytes 4 (step % 65536 + count * 65536) ++
  leBytes 6 addr ++ leBytes 2 (coef + gf * 256)

def redPkt (dst job addr : Nat) (head body : List Byte) : Packet := mkPkt .reduce dst job 0 addr 0 (head ++ body)

/-- A received reduction header. -/
structure RedHead where
  kind : Nat
  shadow : Bool
  wid : Nat
  exp : Nat
  step : Nat
  count : Nat
  addr : Nat
  coef : Nat
  gf : Bool
deriving DecidableEq, Repr

def redHeadOf (p : Packet) : RedHead :=
  let w0 := leAt p.payload 0 4
  ⟨bits w0 0 3, bit w0 3, bits w0 4 20, bits w0 24 8, leAt p.payload 4 2, leAt p.payload 6 2, leAt p.payload 8 6,
    leAt p.payload 14 1, bit (leAt p.payload 15 1) 0⟩

def redBody (p : Packet) : List Byte := p.payload.drop 16

/-! ## Windows (R515 to R518, R526 to R537) -/

def State.win? (s : State) (job wid : Nat) (shadow : Bool) : Option Window :=
  s.fab.windows.find? fun w => w.job == job && w.wid == wid && w.shadow == shadow

/-- Write a window entry, by its key. -/
def State.putWin (s : State) (w : Window) : State :=
  { s with fab := { s.fab with
    windows := (s.fab.windows.filter fun v => !(v.job == w.job && v.wid == w.wid && v.shadow == w.shadow)) ++ [w] } }

/-- A closed entry keeps its step (R537); its staging is cleared (R518). -/
def State.closeWin (s : State) (w : Window) : State :=
  s.putWin { w with isOpen := false, owner := none, staging := [], touched := [], sumcmp := [] }

/-- Staging that an entry reserves: 6 B an element, 3 KiB a granule of a sparse window (R517, R542). -/
def Window.reserve (w : Window) : Nat := if w.sparse then 3072 * w.maxGran else 6 * w.len

/-- An entry and its staging can be reserved; closed entries hold none (R515 to R517; log entry 40). -/
def State.winRoom (s : State) (need : Nat) : Bool :=
  let live := s.fab.windows.filter Window.isOpen
  decide (live.length < 4096) && decide ((live.map Window.reserve).sum + need ≤ s.stacksOk * 2 ^ 30)

/-- The window has counted every contribution and its elements (R531). -/
def Window.complete (w : Window) : Bool := w.digests == w.expect && w.elemsGot == w.elemsSum

def Window.poisonWith (w : Window) (d : Nat) : Window := if w.bad = 0 then { w with bad := d } else w

/-- A window after an arrival: too many elements or digests poison it (R531); its OPEN no longer waits once it is
complete or poisoned. -/
def State.settleWin (s : State) (w : Window) : State :=
  let w := if w.expect < w.digests ∨ (w.digests = w.expect ∧ w.elemsSum < w.elemsGot) then w.poisonWith 4 else w
  let s := s.putWin w
  match w.owner with
  | some i => if w.complete || w.bad != 0 then s.modInst i fun y => { y with blocked := false } else s
  | none => s

/-- Elements arrive: each is added exactly; a sparse window allocates the granules they touch (R518, R544). -/
def Window.addElems (w : Window) (l : List (Nat × Int)) : Window :=
  let l := l.filter fun p => decide (p.1 < w.len)
  let w := { w with staging := l.foldl (fun m p => sset 0 p.1 (sget 0 m p.1 + p.2) m) w.staging }
  if !w.sparse then w
  else
    let t := l.foldl (fun t p => insNat (p.1 / 512) t) w.touched
    if w.maxGran < t.length then w.poisonWith 5 else { w with touched := t }

def State.dualLog2 (s : State) (n : Nat) : Nat := s.rf (ctxOff n 0x320) 0 4

/-- The window is sampled (R555, R556). -/
def State.isSampled (s : State) (n seed job step wid : Nat) : Bool :=
  let v := s.dualLog2 n
  v != 15 && feistel (feCounter job step 4 wid 0) seed % 2 ^ min v 10 == 0

/-- The bucket exponent of a new window (R523). -/
def bucketExp (es : List Nat) (step l margin init : Nat) : Nat :=
  match histMaxOf es step l with
  | none => init
  | some (.fin _ m) =>
    let v := m * (2 ^ margin : Nat) / 32767
    let e := ilog2 v
    let e := if pow2 e = v then e else e + 1
    (min (max (127 + e) 1) 254).toNat
  | some _ => 254

/-! ## EXPQ and EXPR (R528) -/

def exprPkt (dst job wid step : Nat) (w : Option Window) (status : Nat) : Packet :=
  match w with
  | some w => redPkt dst job w.dst (redHead 4 false wid w.exp step status w.dst 0 0) (leBytes 4 (w.shadowDev + if w.sampled then 65536 else 0))
  | none => redPkt dst job 0 (redHead 4 false wid 0 step status 0 0 0) (leBytes 4 0)

/-- Held queries that a window answers. -/
def State.heldFor (s : State) (job wid step : Nat) : List Packet :=
  (s.fab.queries.map Prod.snd).filter fun p => p.job == job && (redHeadOf p).wid == wid && (redHeadOf p).step == step % 65536

/-- Every held query of the key can be answered now. -/
def State.queriesOk (s : State) (ps : List Packet) : Bool :=
  ps.all fun p => s.sendRoom p.src ((ps.filter fun q => q.src == p.src).length)

def State.answerQueries (s : State) (w : Window) : State :=
  let ps := s.heldFor w.job w.wid w.step
  let s := { s with fab := { s.fab with queries := s.fab.queries.filter fun q => !ps.contains q.2 } }
  ps.foldl (fun s p => s.sendSeq none 0 (exprPkt p.src w.job w.wid (w.step % 65536) (some w) 0)) s

/-- A REDUCE packet of a kind arrives. -/
def State.arriveRed (s : State) (p : Packet) (kind : Nat) (go : State → Nat → State × Verdict) : State :=
  if (redHeadOf p).kind ≠ kind then s else s.arriveReq .reduce p [] go

def State.onExpq (s : State) (p : Packet) : State :=
  s.arriveRed p 3 fun s _ =>
    let h := redHeadOf p
    if !s.sendRoom p.src 1 then (s, .refused 3)
    else
      let say := fun w st => (s.sendSeq none 0 (exprPkt p.src p.job h.wid h.step w st), Verdict.delivered)
      match (s.win? p.job h.wid false).filter fun w => w.step % 65536 == h.step with
      | some w => if w.isOpen then say (some w) 0 else say none 1
      | none =>
        if s.fab.queries.length < 1024 then ({ s with fab := { s.fab with queries := s.fab.queries ++ [(p.src, p)] } }, .delivered)
        else say none 2

/-- EXPQ: answered, or held until the key is open. -/
def execExpq (p : Packet) (s : State) : Host.Outcome State Fault Refusal := act (.expq p) (s.onExpq p)

/-- EXPR answers a descriptor holds: home, EXP, sampled, shadow, DST. -/
def Inst.answers (x : Inst) : List (List Nat) := pieces 5 (x.slot.drop (if x.opcode = 5 then 6 else 0))
def Inst.answer? (x : Inst) (home : Nat) : Option (List Nat) := x.answers.find? fun a => a.getD 0 0 == home
/-- Window that a SEND or SCATTER_ADD sends to. -/
def Inst.winOf (x : Inst) : Option Nat :=
  if x.opcode = 9 ∧ x.rOp = 1 then some x.rWid else if x.opcode = 5 ∧ x.lexOp = 2 then some (x.f 14 0 20) else none

/-- What a home tells SHADOW when a sampled window opens (R526): key, step, EXP, DST, EXPECT and the window's size. The
manual names no packet kind for it; the model sends an EXPR with SHADOW = 1 (log entry 69). -/
def Window.shadowPkt (w : Window) : Packet :=
  redPkt w.shadowDev w.job w.dst (redHead 4 true w.wid w.exp w.step 0 w.dst 0 0)
    (leBytes 4 (w.shadowDev + 65536) ++ leBytes 4 w.step ++ leBytes 4 w.expect ++ leBytes 4 w.winTid ++ leBytes 8 w.len ++
      leBytes 4 (w.maxGran + if w.sparse then 2 ^ 31 else 0))

/-- The shadow entry that it asks for (R557). -/
def shadowOf (p : Packet) (n dev : Nat) : Window :=
  let h := redHeadOf p
  let b := redBody p
  let g := leAt b 24 4
  { job := p.job, wid := h.wid, shadow := true, step := leAt b 4 4, exp := h.exp, owner := none, ctx := n, dst := h.addr,
    outTid := 0, outFmt := BF16, rnd := false, lg := 255, len := leAt b 16 8, sparse := bit g 31, maxGran := g % 2 ^ 24,
    expect := leAt b 8 4, bhist := 0, record := 0, winTid := leAt b 12 4, sampled := true, home := p.src, shadowDev := dev,
    staging := [], touched := [], digests := 0, digestSum := 0, elemsGot := 0, elemsSum := 0, amax := 0, poison := false,
    sumcmp := [], bad := 0, isOpen := true }

/-- A shadow entry opens; one that cannot be reserved is asked for again (R557). -/
def State.openShadow (s : State) (p : Packet) (n : Nat) : State × Verdict :=
  let w := shadowOf p n s.devId
  if !s.peerOk n 3 w.dst 2 then (s, .refused 2)
  else if !s.winRoom w.reserve then (s, .refused 3)
  else (s.putWin w, .delivered)

def State.onExpr (s : State) (p : Packet) : State :=
  s.arriveRed p 4 fun s n =>
    let h := redHeadOf p
    if h.shadow then s.openShadow p n
    else match s.insts.find? fun x => x.phase == .started && x.job == p.job && x.winOf == some h.wid && x.rStep % 65536 == h.step &&
        x.queries.any (fun q => q.1 == p.src && q.2.isNone) with
    | none => (s, .delivered)
    | some x =>
      let rest := x.queries.filter fun q => q.1 != p.src
      if h.count = 1 then (s.endInst x 1 0 {}, .delivered)
      else if h.count = 2 then (s.setInst { x with queries := rest ++ [(p.src, some s.clock.now)] }, .delivered)
      else
        let w := leAt (redBody p) 0 4
        (s.setInst { x with queries := rest, blocked := !rest.isEmpty, slot := x.slot ++ [p.src, h.exp, bits w 16 1, w % 65536, h.addr] }, .delivered)

/-- EXPR. -/
def execExpr (p : Packet) (s : State) : Host.Outcome State Fault Refusal := act (.expr p) (s.onExpr p)

/-- Ask a home for the window's exponent. -/
def State.askHome (s : State) (x : Inst) (home : Nat) : State :=
  s.sendFor x (redPkt home x.job 0 (redHead 3 false (x.winOf.getD 0) 0 x.rStep 0 0 0 0) [])

/-- Every home has answered; else the missing ones are asked, and the descriptor waits as on a credit (R501, R528). -/
def State.homesReady (s : State) (x : Inst) (homes : List Nat) : Option State :=
  let miss := homes.filter fun h => (x.answer? h).isNone
  if miss.isEmpty then none
  else
    let new := miss.filter fun h => !x.queries.any fun q => q.1 == h
    if new.all fun h => s.sendRoom h 1 && s.groupRoom x h then
      let s := new.foldl (fun s h => s.askHome x h) s
      some (s.modInst x.id fun y => { y with queries := y.queries ++ new.map fun h => (h, none), blocked := true })
    else some (s.modInst x.id fun y => { y with blocked := true })

/-- EXPQ_RETRY: 2 µs after a RETRY answer the query is repeated. -/
def State.expqRetry (s : State) (i : Nat) : State :=
  match s.inst? i with
  | none => s
  | some x =>
    match x.queries.find? fun q => match q.2 with | some t => decide (t + 2000 ≤ s.clock.now) && s.sendRoom q.1 1 | none => false with
    | none => s
    | some q =>
      if x.phase ≠ .started then s
      else (s.askHome x q.1).modInst i fun y => { y with queries := y.queries.map fun r => if r.1 == q.1 then (r.1, none) else r }

def execExpqRetry (i : Nat) (s : State) : Host.Outcome State Fault Refusal := act (.expqRetry i) (s.expqRetry i)

/-! ## OPEN (R526, R527) -/

/-- The window that an OPEN describes; `es`: its BHIST entries. -/
def State.newWindow (s : State) (x : Inst) (es : List Nat) : Window :=
  let sampled := s.isSampled x.ctx (s.seed x) x.job x.rStep x.rWid
  { job := x.job, wid := x.rWid, shadow := false, step := x.rStep,
    exp := bucketExp es x.rStep (x.blk 5 8 4 + 1) (x.blk 5 12 2) (x.blk 5 0 8), owner := some x.id, ctx := x.ctx,
    dst := locOf (x.blk64 0), outTid := x.blk 2 0 24, outFmt := if bit (x.w 6) 5 then FP16 else BF16,
    rnd := bit (x.w 6) 6 || !x.expert, lg := x.rLg, len := x.rLen, sparse := x.rSparse, maxGran := x.f 14 0 24,
    expect := x.f 9 0 17, bhist := locOf (x.blk64 3), record := locOf (x.blk64 6), winTid := x.blk 8 0 24,
    sampled := sampled, home := s.devId, shadowDev := if sampled then x.rShadow else 0, staging := [], touched := [],
    digests := 0, digestSum := 0, elemsGot := 0, elemsSum := 0, amax := 0, poison := false, sumcmp := [], bad := 0,
    isOpen := true }

/-- A sampled window's message to SHADOW can be sent beside the held queries. -/
def State.shadowRoom (s : State) (w : Window) (held : List Packet) : Bool :=
  !w.sampled || s.sendRoom w.shadowDev (1 + (held.filter fun q => q.src == w.shadowDev).length)

def State.openWin (s : State) (i : Nat) : State :=
  match s.reduceOf i 0 with
  | .error s' => s'
  | .ok (s, x) =>
    if s.fab.windows.any fun w => w.owner == some i then s
    else
      let dst := x.blk64 0
      let bh := x.blk64 3
      let rec_ := x.blk64 6
      let deny := [(dst, 1, 2 * x.rLen), (bh, 0, 64), (bh, 1, 64), (rec_, 1, 64)].find? fun r => !s.isOwn r.1 || !s.mayAcc x r.2.1 r.1 r.2.2
      match deny with
      | some r => s.endDeny x r.1
      | none =>
        let key := s.win? x.job x.rWid false
        if key.any fun w => w.isOpen || w.step == x.rStep then s.endInst x 1 0 {}
        else if (isHost (locOf dst) || isHost (locOf bh) || isHost (locOf rec_)) && !s.hostUp then s.endInst x 7 0 {}
        else if s.poisonx x bh 64 then s.endPoison x [(bh, 64)]
        else
          let w := s.newWindow x ((toWords (s.rdx x bh 64)).map BitVec.toNat)
          let held := s.heldFor w.job w.wid w.step
          if !s.winRoom w.reserve || !s.queriesOk held || !s.shadowRoom w held then s.modInst i fun y => { y with blocked := true }
          else
            let s := (s.putWin w).modInst i fun y => { y with blocked := true }
            (if w.sampled then s.sendSeq none 0 w.shadowPkt else s).answerQueries w

/-- REDUCE OPEN: the key is open, its exponent set, held queries answered. -/
def execOpenWin (i : Nat) (s : State) : Host.Outcome State Fault Refusal := act (.openWin i) (s.openWin i)

/-! ## Data at the home (R530, R531, R537, R544) -/

/-- A data packet for an open window of its step and exponent; else the record of R530 and R537, or DETAIL 3. -/
def State.dataFor (s : State) (p : Packet) (go : Window → Window) : State × Verdict :=
  let h := redHeadOf p
  match s.win? p.job h.wid (h.shadow && h.kind != 5) with
  | none => (s.logEv 0x0401 p.job [p.src, h.wid], .delivered)
  | some w =>
    if !w.isOpen || w.step % 65536 != h.step then (s.logEv 0x0401 p.job [p.src, h.wid], .delivered)
    else if w.exp ≠ h.exp then (s.settleWin (w.poisonWith 3), .delivered)
    else (s.settleWin (go w), .delivered)

/-- I16B values of a DENSE packet. -/
def denseVals (p : Packet) : List Int := (pieces 2 ((redBody p).take (2 * (redHeadOf p).count))).map fun b => signed 16 (leNat b)

def State.onDense (s : State) (p : Packet) : State :=
  s.arriveRed p 0 fun s n =>
    let h := redHeadOf p
    if !s.peerOk n 3 h.addr (2 * h.count) then (s, .refused 2)
    else s.dataFor p fun w =>
      let i0 := (h.addr - w.dst) / 2
      let w' := w.addElems ((denseVals p).zipIdx.map fun v => (i0 + v.2, v.1))
      { w' with elemsGot := w'.elemsGot + h.count }

/-- DENSE. -/
def execDense (p : Packet) (s : State) : Host.Outcome State Fault Refusal := act (.dense p) (s.onDense p)

/-- Pairs of a SPARSE packet: offset in its block, value. -/
def sparsePairs (p : Packet) : List (Nat × Int) :=
  ((toWords (redBody p)).take (redHeadOf p).count).map fun w => (fld w 0 12, signed 16 (fld w 16 16))

def State.onSparse (s : State) (p : Packet) : State :=
  s.arriveRed p 1 fun s n =>
    let h := redHeadOf p
    if !(sparsePairs p).all fun v => s.peerOk n 3 (h.addr + 2 * v.1) 2 then (s, .refused 2)
    else s.dataFor p fun w =>
      let i0 := (h.addr - w.dst) / 2
      let w' := w.addElems ((sparsePairs p).map fun v => (i0 + v.1, v.2))
      { w' with elemsGot := w'.elemsGot + h.count }

/-- SPARSE. -/
def execSparse (p : Packet) (s : State) : Host.Outcome State Fault Refusal := act (.sparse p) (s.onSparse p)

def State.onDigest (s : State) (p : Packet) : State :=
  s.arriveRed p 2 fun s n =>
    let b := redBody p
    let v := leAt b 12 4
    if !s.peerOk n 3 (redHeadOf p).addr 2 then (s, .refused 2)
    else s.dataFor p fun w =>
      { w with
        digests := w.digests + 1, digestSum := (w.digestSum + leAt b 0 8 % 2 ^ 61) % mersenne61,
        elemsSum := w.elemsSum + leAt b 8 4, amax := max w.amax (v % 65536), poison := w.poison || bit v 16 }

/-- DIGEST. -/
def execDigest (p : Packet) (s : State) : Host.Outcome State Fault Refusal := act (.digest p) (s.onDigest p)

/-- Key under which a window notes that its shadow's digest check failed. -/
def shadowFailed : Nat := 2 ^ 50

/-- A half-line of shadow staging is kept; COUNT = 2 says that the shadow's digest check failed (log entry 69). -/
def State.onSumcmp (s : State) (p : Packet) : State :=
  s.arriveRed p 5 fun s n =>
    let h := redHeadOf p
    if h.count = 2 then s.dataFor p fun w => { w with sumcmp := sput shadowFailed [] w.sumcmp }
    else if !s.peerOk n 3 h.addr 128 then (s, .refused 2)
    else s.dataFor p fun w => { w with sumcmp := sput ((h.addr - w.dst) / 128) ((pieces 6 ((redBody p).take 384)).map leNat) w.sumcmp }

/-- SUMCMP: kept until the home's own digest check has passed (R558). -/
def execSumcmp (p : Packet) (s : State) : Host.Outcome State Fault Refusal := act (.sumcmp p) (s.onSumcmp p)

/-! ## PARITY packets (R559, R560) -/

/-- CRC-32C of a delta taken as a granule with zero scale, tensor ID and index fields. -/
def deltaCrc (off : Nat) (d : List Byte) : Word :=
  crc32c (List.replicate off 0#8 ++ d ++ List.replicate (1024 - off - d.length + 7) 0#8) ^^^ crc32c (List.replicate 1031 0#8)

/-- Apply a delta to a line and to its granule's Diacritic. -/
def State.applyDelta (s : State) (n a : Nat) (d : List Byte) : State :=
  let s := s.wr (some n) a (xorBytes (s.rd (some n) a d.length) d)
  let g := a / 1024 * 1024
  s.setDiac n g (s.diac n g ^^^ deltaCrc (a - g) d)

def State.onParityPacket (s : State) (p : Packet) : State :=
  s.arriveRed p 6 fun s n =>
    let h := redHeadOf p
    let x := (redBody p).take 256
    let d := if h.gf then x.map fun b => BitVec.ofNat 8 (gfMul h.coef b.toNat) else x
    if h.addr % 256 ≠ 0 ∨ !s.peerOk n 3 h.addr 256 then (s, .refused 2)
    else if s.rdPoison (some n) h.addr 256 then (s.logPoison (some n) p.job [(h.addr, 256)], .refused 5)
    else if !s.jnlRoom n [(h.addr, 256)] then (s, .refused 3)
    else (s.applyDelta n h.addr d, .delivered)

/-- PARITY packet. -/
def execParityPacket (p : Packet) (s : State) : Host.Outcome State Fault Refusal := act (.parityPacket p) (s.onParityPacket p)

/-! ## WINDOW_COMPLETE (R524, R532 to R534, R552, R553, R558, R564) -/

/-- The window record. -/
def Window.recordBytes (w : Window) (status dsum dout : Nat) : List Byte :=
  let b := fun (v : Bool) i => if v then 2 ^ i else 0
  padTo 64 (leBytes 4 (status + w.bad * 2 ^ 8 + b w.sampled 16 + b w.poison 17) ++ leBytes 4 w.step ++ leBytes 4 w.exp ++
    leBytes 4 w.digests ++ leBytes 4 (satw 32 w.elemsGot) ++ leBytes 4 w.amax ++ leBytes 8 dsum ++ leBytes 8 dout ++ leBytes 4 w.winTid)

/-- D_SUM over the staging values. -/
def Window.dsum (w : Window) (seed : Nat) : Nat := digestOf seed w.winTid w.step w.staging

/-- Shadow staging is all here, or the shadow's check failed. -/
def Window.compared (w : Window) : Bool := w.sumcmp.any (fun e => e.1 == shadowFailed) || decide (cdiv w.len 64 ≤ w.sumcmp.length)
/-- Shadow staging equals the home's, and its check did not fail (R558). -/
def Window.sameStaging (w : Window) : Bool :=
  w.sumcmp.all fun e => e.1 != shadowFailed && (e.2.zipIdx).all fun v =>
    let i := 64 * e.1 + v.2
    decide (w.len ≤ i) || v.1 == unsigned 48 (sget 0 w.staging i)

/-- Output granules: index and element codes with counts. -/
def Window.granCodes (w : Window) (seed g : Nat) : List (Nat × Counters) :=
  let r : Rnd := ⟨w.rnd, seed, w.outTid, w.step⟩
  (upto (512 * g) 512).map fun i =>
    if w.len ≤ i then (0, {})
    else to16 w.outFmt (if w.poison then .nan else Val.ofRat ((sget 0 w.staging i : Int) * pow2 ((w.exp : Int) - 127))) (r.at_ i)

/-- Output, BHIST entry and record of a window that passed its checks. -/
def State.winOutput (s : State) (x : Inst) (w : Window) : Chunk :=
  let seed := s.seed x
  let dev := s.devId * 2 ^ 48
  let gs := (if w.sparse then w.touched else List.range (cdiv (2 * w.len) 1024)).map fun g => (g, w.granCodes seed g)
  let ys := gs.flatMap fun g => (g.2.zipIdx).map fun c => (512 * g.1 + c.2, (outScaled w.outFmt w.exp c.1.1).floor)
  let old := leAt (s.rd (some x.ctx) (w.bhist + 4 * (w.step % 16)) 4) 0 4
  let amax := if old / 65536 = w.step % 65536 then max (old % 65536) w.amax else w.amax
  let hist := if w.poison then [] else [(⟨dev + w.bhist + 4 * (w.step % 16), leBytes 4 (amax + w.step % 65536 * 65536), 0⟩ : Out)]
  { Chunk.empty with
    outs := (gs.map fun g => (⟨dev + w.dst + 1024 * g.1, g.2.flatMap fun c => leBytes 2 c.1, 0⟩ : Out)) ++ hist ++
      [⟨dev + w.record, w.recordBytes 0 (w.dsum seed) (digestOf seed w.winTid w.step ys), 0⟩],
    ren := gs.map fun g => plainGran (dev + w.dst + 1024 * g.1) w.outTid g.1 0,
    cnt := sumCnt (gs.flatMap fun g => g.2.map Prod.snd) }

/-- A poisoned window writes its record, and its OPEN ends with E_AGREE (R534). -/
def State.winFail (s : State) (x : Inst) (w : Window) (dsum : Nat) : State :=
  let s := s.putOut x ⟨s.devId * 2 ^ 48 + w.record, w.recordBytes 5 dsum 0, 0⟩
  (s.closeWin w).endEngine x 5 w.bad {} w.lg

/-- The shadow's end: its staging goes home half-line by half-line, or its failed check is recorded (R557, R558). -/
def State.shadowDone (s : State) (w : Window) (seed : Nat) : State :=
  if w.bad ≠ 0 ∨ w.dsum seed ≠ w.digestSum then
    if !s.sendRoom w.home 1 then s
    else ((s.logEv 0x0402 w.job [w.wid, w.home, s.devId]).sendSeq none 0
      (redPkt w.home w.job w.dst (redHead 5 false w.wid w.exp w.step 2 w.dst 0 0) [])).closeWin w
  else if !s.sendRoom w.home (cdiv w.len 64) then s
  else
    let s := (List.range (cdiv w.len 64)).foldl (fun s k =>
      let body := (upto (64 * k) 64).flatMap fun i => leBytes 6 (unsigned 48 (sget 0 w.staging i))
      s.sendSeq none 0 (redPkt w.home w.job (w.dst + 128 * k) (redHead 5 false w.wid w.exp w.step (k % 2) (w.dst + 128 * k) 0 0) body)) s
    s.closeWin w

/-- Job seed as the context's recipe in force holds it. -/
def State.ctxSeed (s : State) (n : Nat) : Nat :=
  match s.recipeBase n (s.epoch n) with
  | some b => leNat (s.rd (some n) b 8)
  | none => 0

def State.windowComplete (s : State) (job wid : Nat) (shadow : Bool) : State :=
  match s.win? job wid shadow with
  | none => s
  | some w =>
    if !w.isOpen || !(w.complete || w.bad != 0) then s
    else if shadow then s.shadowDone w (s.ctxSeed w.ctx)
    else match w.owner.bind s.inst? with
    | none => s
    | some x =>
      if x.phase ≠ .started then s
      else if w.bad ≠ 0 then s.winFail x w 0
      else
        let d := w.dsum (s.seed x)
        if d ≠ w.digestSum then s.winFail x (w.poisonWith 1) d
        else if w.sampled ∧ !w.compared then s
        else if w.sampled ∧ !w.sameStaging then
          (s.logEv 0x0402 w.job [w.wid, w.home, w.shadowDev]).winFail x (w.poisonWith 2) d
        else
          let s' := s.runWork x ⟨[], [s.winOutput x w], Chunk.empty, w.lg, 0, 0⟩
          match s'.inst? x.id with
          | some y => if y.phase = .done then s'.closeWin w else s'
          | none => s'

/-- WINDOW_COMPLETE. -/
def execWindowComplete (job wid : Nat) (shadow : Bool) (s : State) : Host.Outcome State Fault Refusal :=
  act (.windowComplete job wid shadow) (s.windowComplete job wid shadow)

/-! ## SEND (R528, R529, R535, R549) -/

/-- One contribution: packets as functions of target and shadow flag, its counts. -/
structure Contrib where
  /-- (element index, code or none) in sending order, blocks of a pair set apart -/
  elems : List (Nat × Option Int)
  cnt : Counters
  amax : Rat
deriving DecidableEq, Repr

def Contrib.poison (c : Contrib) : Bool := c.elems.any fun e => e.2.isNone

/-- Convert values at an exponent, each with its window element index and dither index. -/
def contribOf (exp : Nat) (r : Rnd) (vs : List (Nat × Nat × Val)) (flush : Nat) : Contrib :=
  let cs := vs.map fun v => (v.1, toI16b v.2.2 exp (r.at_ v.2.1))
  ⟨cs.map fun c => (c.1, c.2.1), (sumCnt (cs.map fun c => c.2.2)).add { flush := flush }, ratMax (vs.map fun v => v.2.2.mag)⟩

/-- DENSE packets, one per destination line; an element that is not sent leaves 0 in its place. -/
def densePkts (dst job wid exp step addr : Nat) (sh : Bool) (es : List Int) : List Packet :=
  ((pieces 128 es).zipIdx).map fun p =>
    redPkt dst job (addr + 256 * p.2) (redHead 0 sh wid exp step p.1.length (addr + 256 * p.2) 0 0) (p.1.flatMap fun v => leBytes 2 (unsigned 16 v))

/-- SPARSE packets of pairs in order, one block and at most 124 pairs each. -/
def sparsePkts (dst job wid exp step addr : Nat) (sh : Bool) (es : List (Nat × Int)) : List Packet :=
  let blocks := (es.map fun e => e.1 / 4096).eraseDups
  blocks.flatMap fun b =>
    let a := addr + 8192 * b
    (pieces 124 (es.filter fun e => e.1 / 4096 == b)).map fun ps =>
      redPkt dst job a (redHead 1 sh wid exp step ps.length a 0 0) (ps.flatMap fun e => leBytes 4 (e.1 % 4096 + unsigned 16 e.2 * 65536))

def digestPkt (dst job wid exp step addr : Nat) (sh : Bool) (d elems amax : Nat) (poison : Bool) : Packet :=
  redPkt dst job addr (redHead 2 sh wid exp step 0 addr 0 0) (leBytes 8 d ++ leBytes 4 elems ++ leBytes 4 (amax + if poison then 65536 else 0))

/-- All packets of a contribution to an answered home, its shadow's copies after them when it is sampled. -/
def contribPkts (job wid step seed winTid : Nat) (ans : List Nat) (pairs : Bool) (c : Contrib) : List Packet :=
  let exp := ans.getD 1 0
  let addr := ans.getD 4 0
  let sent := c.elems.filterMap fun e => e.2.map fun v => (e.1, v)
  let d := digestOf seed winTid step sent
  let n := if pairs then sent.length else c.elems.length
  let part := fun (dst : Nat) (sh : Bool) =>
    (if pairs then sparsePkts dst job wid exp step addr sh sent else densePkts dst job wid exp step addr sh (c.elems.map fun e => e.2.getD 0)) ++
    [digestPkt dst job wid exp step addr sh d n (bf16Up c.amax) c.poison]
  part (ans.getD 0 0) false ++ (if ans.getD 2 0 = 1 then part (ans.getD 3 0) true else [])

/-- Pair blocks of a TOPK: pairs of block `b`, and kept pairs of a full block (R547). -/
def topkK (ksh : Nat) : Nat := 4096 / 2 ^ ksh
def topkKept (n ksh b : Nat) : Nat := let nb := min 4096 (n - 4096 * b); if nb = 4096 then topkK ksh else cdiv (nb * topkK ksh) 4096
def topkPairBytes (n ksh : Nat) : Nat := let b := cdiv n 4096; 4 * (topkK ksh * (b - 1) + topkKept n ksh (b - 1))

/-- Granules of a plain range from the granule of its base. -/
def baseGrans (a len tid op : Nat) : List Gran :=
  if len = 0 then [] else
  (List.range ((a + len - 1) / 1024 + 1 - a / 1024)).map fun k => plainGran (1024 * (a / 1024 + k)) tid k op

/-- Check the whole source of a descriptor that sends it, or end the descriptor: nothing of it is sent (log entry 40). -/
def State.sourceBad (s : State) (x : Inst) (c : Chunk) (lg : Nat) : Option State :=
  (s.chunkBad x c).map fun h => (s.logHalt x h c.ranges).endEngine x h.status h.detail {} lg

/-- Send packets from where the last run stopped; when all have gone, `done` ends the descriptor. -/
def State.sendRest (s : State) (x : Inst) (pk : List Packet) (done : State → State) : State :=
  let rest := pk.drop x.progress
  let (s, k) := s.sendSome x rest 0
  if k < rest.length then s.modInst x.id fun y => { y with progress := y.progress + k, blocked := true }
  else done (s.modInst x.id fun y => { y with progress := y.progress + k, blocked := false })

def State.hostDown (s : State) (rs : List (Nat × Nat)) : Bool :=
  !s.hostUp && rs.any fun r => s.isOwn r.1 && isHost (locOf r.1) && r.2 != 0

/-- Pairs that a sparse SEND reads: window element index and BF16 code; none where a pair does not fit LEN (R549, R567). -/
def State.pairSet (s : State) (x : Inst) (src : Nat) : Option (List (Nat × Nat)) :=
  let n := x.rLen
  let ksh := x.f 14 24 4
  let bs := toWords (s.rdx x src (topkPairBytes n ksh))
  let l := (List.range (cdiv n 4096)).flatMap fun b => ((bs.drop (topkK ksh * b)).take (topkKept n ksh b)).map fun w =>
    (4096 * b + fld w 0 12, fld w 16 16, fld w 12 4)
  if l.all fun e => decide (e.1 < n) && e.2.2 == 0 then some (l.map fun e => (e.1, e.2.1)) else none

/-- Bytes that a SEND reads, and its input as a piece to check. -/
def Inst.sendLen (x : Inst) : Nat := if x.rSparse then topkPairBytes x.rLen (x.f 14 24 4) else 2 * x.rLen
def Inst.sendFmt (x : Inst) : Nat := if x.rSparse then BF16 else x.blk 2 24 4
def Inst.sendInput (x : Inst) (len : Nat) : Chunk :=
  { Chunk.empty with need := baseGrans (x.blk64 0) len (x.blk 2 0 24) 0, use := [(x.blk64 0, len)] }

/-- Elements of a SEND: window element index and code. -/
def State.sendElems (s : State) (x : Inst) : Option (List (Nat × Nat)) :=
  if x.rSparse then s.pairSet x (x.blk64 0)
  else some ((unpackElems x.sendFmt x.rLen (s.rdx x (x.blk64 0) x.sendLen)).zipIdx.map fun c => (c.2, c.1))

/-- The contribution that they make at the exponent that the home has answered, and its packets. -/
def State.sendContrib (s : State) (x : Inst) (es : List (Nat × Nat)) : Contrib :=
  let r : Rnd := ⟨bit (x.w 6) 6 || !x.expert, s.seed x, x.blk 2 0 24, x.rStep⟩
  contribOf (((x.answer? x.rHome).getD []).getD 1 0) r (es.map fun e => (e.1, e.1, decodeFloat (floatFmt x.sendFmt) e.2))
    (es.filter fun e => isSubnormal x.sendFmt e.2).length
def State.sendPkts (s : State) (x : Inst) (c : Contrib) : List Packet :=
  contribPkts x.job x.rWid x.rStep (s.seed x) (x.blk 8 0 24) ((x.answer? x.rHome).getD []) x.rSparse c

def State.sendRed (s : State) (i : Nat) : State :=
  match s.reduceOf i 1 with
  | .error s' => s'
  | .ok (s, x) =>
    match s.homesReady x [x.rHome] with
    | some s' => s'
    | none =>
      let src := x.blk64 0
      if !s.mayAcc x 0 src x.sendLen then s.endDeny x src
      else if s.hostDown [(src, x.sendLen)] then s.endInst x 7 0 {}
      else match s.want x [(src, x.sendLen)] with
      | some s' => s'
      | none =>
        match s.sourceBad x (x.sendInput x.sendLen) x.rLg with
        | some s' => s'
        | none =>
          match s.sendElems x with
          | none => s.endInst x 8 12 {}
          | some es =>
            let c := s.sendContrib x es
            s.sendRest x (s.sendPkts x c) fun s => s.endEngine x 0 0 c.cnt x.rLg

/-- REDUCE SEND. -/
def execSend (i : Nat) (s : State) : Host.Outcome State Fault Refusal := act (.send i) (s.sendRed i)

/-! ## VERIFY and PARITY (R554, R561) -/

/-- The copy is one that D_OUT of the record at hand came from. -/
def State.verifyOk (s : State) (x : Inst) : Bool :=
  let r := s.rdx x (x.blk64 3) 64
  let ys := (unpackElems (x.blk 2 24 4) x.rLen (s.rdx x (x.blk64 0) (2 * x.rLen))).zipIdx.map fun c =>
    (c.2, outScaled (x.blk 2 24 4) (leAt r 8 1) c.1)
  (ys.all fun y => y.2.den == 1) &&
    digestOf (s.seed x) (leAt r 40 3) (leAt r 4 4) (ys.map fun y => (y.1, y.2.floor)) == leAt r 32 8 % 2 ^ 61

/-- Record and copy as a VERIFY reads them. -/
def Inst.verifyReads (x : Inst) : List (Nat × Nat) := [(x.blk64 3, 64), (x.blk64 0, 2 * x.rLen)]
def Inst.verifyInput (x : Inst) : Chunk := { x.sendInput (2 * x.rLen) with use := x.verifyReads }

def State.verifyRed (s : State) (i : Nat) : State :=
  match s.reduceOf i 2 with
  | .error s' => s'
  | .ok (s, x) =>
    let src := x.blk64 0
    let rec_ := x.blk64 3
    if !s.mayAcc x 0 rec_ 64 then s.endDeny x rec_
    else if !s.mayAcc x 0 src (2 * x.rLen) then s.endDeny x src
    else if s.hostDown x.verifyReads then s.endInst x 7 0 {}
    else match s.want x x.verifyReads with
    | some s' => s'
    | none =>
      match s.sourceBad x x.verifyInput x.rLg with
      | some s' => s'
      | none => if s.verifyOk x then s.endInst x 0 0 {} else s.endInst x 5 6 {}

/-- REDUCE VERIFY: a copy that D_OUT could not come from, a non-integer one included, is a mismatch. -/
def execVerify (i : Nat) (s : State) : Host.Outcome State Fault Refusal := act (.verify i) (s.verifyRed i)

/-- PARITY packets of the source's lines. -/
def State.parityPkts (s : State) (x : Inst) : List Packet :=
  let dst := locOf (x.blk64 3)
  ((pieces 256 (s.rdx x (x.blk64 0) (256 * x.rLen))).zipIdx).map fun p =>
    redPkt x.rHome x.job (dst + 256 * p.2) (redHead 6 false x.rWid 0 0 0 (dst + 256 * p.2) (x.f 6 15 8) (x.f 6 23 1)) p.1

def State.parityRed (s : State) (i : Nat) : State :=
  match s.reduceOf i 3 with
  | .error s' => s'
  | .ok (s, x) =>
    let src := x.blk64 0
    let len := 256 * x.rLen
    if !s.mayAcc x 0 src len then s.endDeny x src
    else if s.hostDown [(src, len)] then s.endInst x 7 0 {}
    else match s.want x [(src, len)] with
    | some s' => s'
    | none =>
      match s.sourceBad x (x.sendInput len) x.rLg with
      | some s' => s'
      | none => s.sendRest x (s.parityPkts x) fun s => s.endInst x 0 0 {}

/-- REDUCE PARITY. -/
def execParity (i : Nat) (s : State) : Host.Outcome State Fault Refusal := act (.parity i) (s.parityRed i)

/-! ## TOPK (R545 to R548) -/

def Inst.badTopk (x : Inst) : List (Bool × Nat) :=
  let n := x.f 9 0 26
  x.resv 6 [0xFFFF0000, 0x3F, 0, 0xFC000000, full, full, full, full, full, full] ++
  [(decide (x.f 6 3 4 < 2) || decide (10 < x.f 6 3 4), 6), (n == 0 || decide (2 ^ 25 < n), 9)]

def Inst.topkBlockBad (x : Inst) : Option Nat :=
  let z := fun (k mask : Nat) => (x.blk k 0 32 &&& mask != 0, k)
  worst ([z 2 0xF0000000, (x.blk 2 24 4 != BF16 && x.blk 2 24 4 != FP16, 2), z 5 0xFF000000, z 6 0x3FF, z 8 0xFF000000] ++
    (upto 9 7).map fun j => z j full)

/-- `a` ranks above `b` (value, index). -/
def ranksAbove (a b : Val × Nat) : Bool :=
  if !a.1.isFin && b.1.isFin then true
  else if a.1.isFin && !b.1.isFin then false
  else if !a.1.isFin then decide (a.2 < b.2)
  else decide (b.1.mag < a.1.mag) || (a.1.mag == b.1.mag && decide (a.2 < b.2))

def rankIns (p : Val × Nat) : List (Val × Nat) → List (Val × Nat)
  | [] => [p]
  | q :: t => if ranksAbove p q then p :: q :: t else q :: rankIns p t

/-- One block: selected indices in ascending order. -/
def topkSel (vs : List Val) (k : Nat) : List Nat :=
  ((vs.zipIdx.foldl (fun l p => rankIns p l) []).take k).foldl (fun l p => insNat p.2 l) []

/-- Pairs (index, BF16 code, counts) and new Ellipsis codes of a block. -/
def topkBlock (vs : List Val) (k e0 p0 : Nat) (rp re : Rnd) : List (Nat × Nat × Counters) × List (Nat × Counters) :=
  let sel := topkSel vs k
  let ps := (sel.zipIdx).map fun s => (s.1, to16 BF16 (vs.getD s.1 .zero) (rp.at_ (p0 + s.2)))
  (ps.map fun p => (p.1, p.2.1, p.2.2), (vs.zipIdx).map fun v =>
    if !v.1.isFin then (0, {})
    else match ps.find? fun p => p.1 == v.2 with
      | some p => to16 FP16 (vAdd v.1 (vNeg (decodeFloat (floatFmt BF16) p.2.1))) (re.at_ (e0 + v.2))
      | none => to16 FP16 v.1 (re.at_ (e0 + v.2)))

def State.topkChunk (s : State) (x : Inst) (rnd : Bool) (b : Nat) : Chunk :=
  let n := x.f 9 0 26
  let ksh := x.f 6 3 4
  let nb := min 4096 (n - 4096 * b)
  let gf := x.blk 2 24 4
  let ga := x.blk64 0 + 8192 * b
  let ea := x.blk64 3 + 8192 * b
  let pa := x.blk64 6 + 4 * topkK ksh * b
  let last := b + 1 = cdiv n 4096
  let gc := unpackElems gf nb (s.rdx x ga (2 * nb))
  let ec := unpackElems FP16 nb (s.rdx x ea (2 * nb))
  let vs := List.zipWith (fun g e => vAdd (decodeFloat (floatFmt gf) g) (decodeFloat (floatFmt FP16) e)) gc ec
  let r := fun (tid : Nat) => (⟨rnd, s.seed x, tid, x.rStep⟩ : Rnd)
  let (ps, es) := topkBlock vs (topkKept n ksh b) (4096 * b) (topkK ksh * b) (r (x.blk 8 0 24)) (r (x.blk 5 0 24))
  let plen := 4 * ps.length
  let ptail := if last then List.replicate (1024 * cdiv (topkPairBytes n ksh) 1024 - topkPairBytes n ksh) 0#8 else []
  let etail := if last then List.replicate (1024 * cdiv (2 * n) 1024 - 2 * n) 0#8 else []
  let at0 := fun (base a len tid : Nat) => (upto ((a - base) / 1024) (cdiv (a - base + len) 1024 - (a - base) / 1024)).map fun i =>
    plainGran (base / 1024 * 1024 + 1024 * i) tid i
  { need := (at0 (x.blk64 0) ga (2 * nb) (x.blk 2 0 24)).map (fun g => g 0) ++ (at0 (x.blk64 3) ea (2 * nb) (x.blk 5 0 24)).map (fun g => g 1),
    use := [(ga, 2 * nb), (ea, 2 * nb)],
    outs := outAt pa ((ps.flatMap fun p => leBytes 4 (p.1 + p.2.1 * 65536)) ++ ptail) ++ outAt ea ((es.flatMap fun e => leBytes 2 e.1) ++ etail),
    ren := (at0 (x.blk64 6) pa plen (x.blk 8 0 24)).map (fun g => g 0) ++ (at0 (x.blk64 3) ea (2 * nb) (x.blk 5 0 24)).map (fun g => g 1),
    cnt := (sumCnt (ps.map fun p => p.2.2)).add ((sumCnt (es.map Prod.snd)).add
      { flush := (gc.filter (isSubnormal gf)).length + (ec.filter (isSubnormal FP16)).length }),
    bad := none }

/-- Gradients and residuals of a TOPK, and its work block by block. -/
def Inst.topkReads (x : Inst) : List (Nat × Nat) := [(x.blk64 0, 2 * x.f 9 0 26), (x.blk64 3, 2 * x.f 9 0 26)]
def State.topkWork (s : State) (x : Inst) : Work :=
  ⟨x.topkReads, (List.range (cdiv (x.f 9 0 26) 4096)).map (s.topkChunk x (bit (x.w 6) 7 || !x.expert)), Chunk.empty, x.f 6 8 8, 0, 0⟩

def State.topk (s : State) (i : Nat) : State :=
  match s.started i 0x0A with
  | none => s
  | some x =>
    match s.withBlock x (x.a64 7) 64 with
    | .error s' => s'
    | .ok (s, x) =>
      match x.topkBlockBad with
      | some k => s.endFormat x (16 + k)
      | none =>
        match s.want x x.topkReads with
        | some s' => s'
        | none => s.runWork x (s.topkWork x)

/-- TOPK. -/
def execTopk (i : Nat) (s : State) : Host.Outcome State Fault Refusal := act (.topk i) (s.topk i)

/-! ## SCATTER_ADD (R365, R366) -/

/-- Merged rows of a merge window for one home: element codes, none where one is not sent, and counts. -/
def State.scatterRows (s : State) (x : Inst) (home : Nat) (w : List Req) : List (Nat × Option Int) × Counters × Rat :=
  let t := x.table
  let n := t.elems
  let f := if x.outFmt = 2 then FP16 else BF16
  let exp := ((x.answer? home).getD []).getD 1 0
  let r : Rnd := ⟨true, s.seed x, x.f 12 0 24, x.rStep⟩
  let rows := ((w.filter fun q => q.dev.getD s.devId == home).filterMap Req.row).eraseDups
  let one := fun (q : Req) => (unpackElems f n (s.rdx x (x.a64 10 + 2 * n * q.ix) (2 * n))).zipIdx.map fun c =>
    (isSubnormal f c.1, decodeFloat (floatFmt f) c.1, (x.w 13 + q.ix) * n + c.2)
  let all := rows.map fun row =>
    let qs := (w.filter fun q => q.row == some row && q.dev.getD s.devId == home).map one
    let cs := qs.map fun q => q.map fun e => toI16b e.2.1 exp (r.at_ e.2.2)
    let cnt := (sumCnt (cs.flatMap fun q => q.map Prod.snd)).add { flush := ((qs.flatten).filter fun e => e.1).length }
    let sums := (List.range n).map fun e => cs.foldl (fun (a : Option Int) q => match a, (q.getD e (some 0, {})).1 with | some a, some b => some (a + b) | _, _ => none) (some 0)
    let clip := sums.map fun v => v.map fun v => (max (-32767) (min 32767 v), v)
    let sat := (clip.filter fun v => match v with | some v => v.1 != v.2 | none => false).length
    ((clip.zipIdx).map fun v => (row * n + v.2, v.1.map Prod.fst), cnt.add { sat := sat }, ratMax ((qs.flatten).map fun e => e.2.1.mag))
  (all.flatMap fun a => a.1, sumCnt (all.map fun a => a.2.1), ratMax (all.map fun a => a.2.2))

/-- The input of a SCATTER_ADD: gradient rows, homes of its requests, its windows as pieces to check. -/
def Inst.addData (x : Inst) : Nat × Nat := (x.a64 10, x.count * 2 * x.table.elems)
def State.addHomes (s : State) (ws : List (List Req)) : List Nat :=
  ((ws.flatten.filter fun q => q.row.isSome).map fun q => q.dev.getD s.devId).eraseDups
def Inst.addChunks (x : Inst) (ws : List (List Req)) : List Chunk :=
  let rb := 2 * x.table.elems
  (ws.zipIdx).map fun p => { Chunk.empty with
    need := x.idxGrans p.2 p.1.length ++ baseGrans (x.a64 10 + rb * (4096 * p.2) / 1024 * 1024) (rb * p.1.length) 0 1 |>.map fun g =>
      if g.op = 1 then plainGran g.a (x.f 12 0 24) ((g.a - x.a64 10) / 1024) 1 else g,
    use := [x.idxRange p.2 p.1.length, (x.a64 10 + rb * (4096 * p.2), rb * p.1.length)],
    bad := if outOfRange x p.1 then some (0xF, 0) else none }

/-- What a SCATTER_ADD sends to each home, and how. -/
def State.addParts (s : State) (x : Inst) (ws : List (List Req)) : List (Nat × Contrib × List (List (Nat × Int))) :=
  (s.addHomes ws).map fun h =>
    let rs := ws.map (s.scatterRows x h)
    (h, ⟨rs.flatMap fun r => r.1, sumCnt (rs.map fun r => r.2.1), ratMax (rs.map fun r => r.2.2)⟩,
      rs.map fun r => r.1.filterMap fun e => e.2.map fun v => (e.1, v))
/-- The pieces of a SCATTER_ADD, which write nothing on this device. -/
def Inst.addWork (x : Inst) (ws : List (List Req)) : Work := ⟨[(x.a64 7, x.idxLen), x.addData], x.addChunks ws, Chunk.empty, 255, 0, 0⟩

/-- Packets of the contributions of windows; `whole`: of all of them, so that the digest goes with them. -/
def State.addPkts (s : State) (x : Inst) (ws : List (List Req)) (whole : Bool) : List Packet :=
  (s.addParts x ws).flatMap fun p =>
    let ans := (x.answer? p.1).getD []
    let exp := ans.getD 1 0
    let wid := x.f 14 0 20
    let sent := p.2.2.flatten
    let d := digestOf (s.seed x) (x.f 12 0 24) x.rStep sent
    let part := fun (dst : Nat) (sh : Bool) =>
      (p.2.2.flatMap fun l => sparsePkts dst x.job wid exp x.rStep (ans.getD 4 0) sh l) ++
      (if whole then [digestPkt dst x.job wid exp x.rStep (ans.getD 4 0) sh d sent.length (bf16Up p.2.1.amax) p.2.1.poison] else [])
    part p.1 false ++ (if ans.getD 2 0 = 1 then part (ans.getD 3 0) true else [])

/-- A SCATTER_ADD: the contributions of the windows before a halt are sent, without the digest that would close them (R349). -/
def State.scatterAdd (s : State) (i : Nat) : State :=
  match s.lexicon i 2 with
  | none => s
  | some x =>
    if s.hostDown [(x.a64 7, x.idxLen), x.addData] then s.endInst x 7 0 {}
    else match s.lexOpen x false [x.addData] with
    | .error s' => s'
    | .ok ws =>
      let run := s.runPieces x (x.addWork ws)
      let good := ws.take run.1.length
      match s.homesReady x (s.addHomes good) with
      | some s' => s'
      | none =>
        match run with
        | (_, rest, some h) =>
          s.sendRest x (s.addPkts x good false) fun t =>
            (t.logHalt x h ((rest.head?.map Chunk.ranges).getD [])).endEngine x h.status h.detail
              (sumCnt ((s.addParts x good).map fun p => p.2.1.cnt)) 255
        | (_, _, none) =>
          s.sendRest x (s.addPkts x ws true) fun t =>
            let res := t.lexResult x (uniques ws) 0 (nulls ws.flatten) 0
            (t.putAll x res.outs []).endEngine x 0 0 (sumCnt ((s.addParts x ws).map fun p => p.2.1.cnt)) 255

/-- LEXICON SCATTER_ADD. -/
def execScatterAdd (i : Nat) (s : State) : Host.Outcome State Fault Refusal := act (.scatterAdd i) (s.scatterAdd i)

end Sys2Proof.Machine
end

