-- ==== Sys2Proof/Machine/Gemm.lean ====
section
/-! DEFINITION. GEMM: operand block, tile blocks, checks, retirement of tiles, outputs and epilogues (05 R236 to R291). -/
namespace Sys2Proof.Machine

/-! ## The operand block (R288) -/

/-- Operand formats of the modes (R239). -/
def modeFmtOk (mode f : Nat) (isA : Bool) : Bool :=
  if mode = 0 then f == E2M1 || f == INT4 || f == UINT4
  else if mode = 1 then (if isA then f == INT8 || f == UINT8 else f == INT2)
  else if mode = 2 then (if isA then f == INT8 || f == UINT8 else f == TERN)
  else if mode = 4 then f == BF16
  else f == E4M3 || f == E5M2

/-- A GEMM's parameters. -/
structure Gemm where
  cl : Nat
  m : Nat
  n : Nat
  k : Nat
  mode : Nat
  sparse : Bool
  acc : Bool
  rnd : Bool
  row0 : Nat
  total : Nat
  bm : Nat
  bn : Nat
  abftN : Nat
  a : OSet
  w : OSet
  metaAt : Nat
  metaTid : Nat
  cBase : Nat
  cTid : Nat
  cFmt : Nat
  accBase : Nat
  accTid : Nat
  accFmt : Nat
  lg : Nat
  epi : Bool
  ptA : Nat
  ptW : Nat
deriving DecidableEq, Repr

/-- Block sizes: the descriptor's, or the firmware's (R289; log entry 34). -/
def Inst.gBlock (x : Inst) : Nat × Nat :=
  if x.expert then (2 ^ x.f 12 8 4, 2 ^ x.f 12 12 4)
  else
    let bn := max 256 (colsPerLoad x.gMode x.gSparse)
    (min 256 (65536 / bn), bn)

/-- An operand's output set; Past-Tense operands are plain rows of codes (R266). -/
def opSet (base rows cols fmt gs tid : Nat) (half outl : Bool) (e : Entry) (plain : Bool) : OSet :=
  { base := base, rows := rows, cols := cols, fmt := fmt, gs := gs, half := half, outl := outl && fmtScaled fmt && !plain,
    hist := false, lscale := false, mx := false, cap := e.cap, promo := e.promo, sliceRows := e.sliceRows, tid := tid }

/-- The parameters; a GEMM in another mode than Past-Tense needs both recipe entries (R288), a basic one in that mode the entry of
W, for ABFT_N (R289, R408). -/
def State.gemmOf (s : State) (x : Inst) : Except Nat Gemm :=
  let mode := x.gMode
  let pt := mode == 5
  let go := fun (ea ew : Entry) (n : Nat) =>
    let k := x.f 10 0 20
    let gs := if pt then 0 else x.f 10 20 2
    let b := x.gBlock
    ({ cl := x.queue - 0x20, m := x.f 8 0 24, n := x.f 9 0 24, k := k, mode := mode, sparse := x.gSparse && !pt,
       acc := bit (x.w 10) 27, rnd := bit (x.w 10) 28 || (!x.expert && (x.blk 14 8 2 == 2 || x.blk 14 18 2 == 2)),
       row0 := x.f 13 0 24, total := x.f 15 0 24, bm := b.1, bn := b.2,
       abftN := if x.expert then x.f 11 0 4 else min 8 n,
       a := opSet (s.stagedBase x (x.blk64 0)) (x.f 15 0 24) k (x.blk 2 24 4) gs (x.blk 2 0 24) false (x.blk 2 28 1 == 1) ea pt,
       w := opSet (s.stagedBase x (x.blk64 3)) (x.f 9 0 24) k (x.blk 5 24 4) gs (x.blk 5 0 24) (x.gSparse && !pt) (x.blk 5 28 1 == 1) ew pt,
       metaAt := x.blk64 12, metaTid := setBits (x.blk 5 0 24) 21 3 6, cBase := x.blk64 6, cTid := x.blk 8 0 24,
       cFmt := x.blk 8 24 4, accBase := x.blk64 9, accTid := x.blk 11 0 24, accFmt := x.blk 11 24 4,
       lg := x.blk 14 10 8, epi := x.epiEn, ptA := x.f 14 0 16, ptW := x.f 14 16 16 } : Gemm)
  if pt ∧ x.expert then .ok (go ⟨[]⟩ ⟨[]⟩ 0)
  else if pt then (match s.entry x (x.blk 14 10 8) (x.blk 14 18 2) with
    | .error e => .error e
    | .ok ew => .ok (go ⟨[]⟩ ⟨[]⟩ (ew.f 2 18 4)))
  else match s.entry x (x.blk 14 0 8) (x.blk 14 8 2), s.entry x (x.blk 14 10 8) (x.blk 14 18 2) with
    | .error e, _ => .error e
    | _, .error e => .error e
    | .ok ea, .ok ew => .ok (go ea ew (ew.f 2 18 4))

/-- [a, a + len) lies in the SSM of the cluster (R242). -/
def State.inSsm (s : State) (cl a len : Nat) : Bool :=
  decide (s.ssm0 cl ≤ a) && decide (a + len ≤ s.ssm0 cl + ssmSize)

def OSet.plainLen (o : OSet) (pt : Bool) : Nat := if pt then o.dataLen else o.off 5 - o.base

/-- Ranges that a GEMM reads: whole operand sets, ACC_IN, metadata. -/
def Gemm.ranges (g : Gemm) : List (Nat × Nat) :=
  let pt := g.mode == 5
  [(g.a.base, g.a.plainLen pt), (g.w.base, g.w.plainLen pt)] ++ (if g.acc then [(g.accBase, 2 * g.m * g.n)] else []) ++
  (if g.sparse then [(g.metaAt, cdiv (g.n * (g.k / 4)) 2)] else [])

/-- Faults of the operand block and of the recipe entries it names (R290). The regions of a basic GEMM may lie
anywhere: the firmware stages them through the SSM (R848). A region outside the SSM of CLUSTER and a format that EPI_EN = 0
judges name the word of those fields, 12 (R79). -/
def State.gemmBad (s : State) (x : Inst) (g : Gemm) (ea ew : Entry) : Option Nat :=
  let pt := g.mode == 5
  let rotA := x.blk 2 29 1
  let rotW := x.blk 5 29 1
  worst
    [(x.blk 2 30 2 != 0 || !modeFmtOk g.mode (x.blk 2 24 4) true || (!pt && (rotA != rotW || (rotA == 1 && (ea.rotId != ew.rotId || ea.f 0 21 1 == ew.f 0 21 1)))), 16 + 2),
     (x.blk 5 30 2 != 0 || !modeFmtOk g.mode (x.blk 5 24 4) false, 16 + 5),
     (!pt && (ea.gs != x.f 10 20 2 || ew.gs != x.f 10 20 2), 10),
     (!pt && (!ea.sliceOk || !ew.sliceOk), 16 + 14),
     (x.expert && (!s.inSsm g.cl g.a.base (g.a.plainLen pt) || !s.inSsm g.cl g.w.base (g.w.plainLen pt) ||
        (!g.epi && !s.inSsm g.cl g.cBase (2 * g.m * g.n)) || (g.acc && !s.inSsm g.cl g.accBase (2 * g.m * g.n)) ||
        (g.sparse && !s.inSsm g.cl g.metaAt (cdiv (g.n * (g.k / 4)) 2))), 12),
     (!g.epi && (!fmt16 g.cFmt || !fmt16 g.accFmt), 12),
     (x.blk 6 0 10 != 0, 16 + 6), (x.blk 8 28 4 != 0, 16 + 8), (x.blk 11 28 4 != 0 || (g.acc && !fmt16 g.accFmt), 16 + 11),
     (x.blk 12 0 10 != 0, 16 + 12),
     (x.blk 14 20 12 != 0, 16 + 14), (x.blk 15 0 32 != 0, 16 + 15)]

/-- Judge a GEMM whose operand block is at hand: its parameters, or status and DETAIL. -/
def State.gemmJudge (s : State) (x : Inst) : Except (Nat × Nat) Gemm :=
  match s.gemmOf x with
  | .error e => .error (e, 0)
  | .ok g =>
    let ent := fun k r => match s.entry x k r with | .ok e => e | .error _ => (⟨[]⟩ : Entry)
    match s.gemmBad x g (ent (x.blk 14 0 8) (x.blk 14 8 2)) (ent (x.blk 14 10 8) (x.blk 14 18 2)) with
    | some k => .error (8, k)
    | none => .ok g

/-! ## Tiles (R248, R274 to R281) -/

/-- Active physical tiles in logical order. -/
def State.tilesOf (s : State) (c : Nat) : List Nat :=
  ((List.range 8).map fun n => s.rf (clusterOff c 0x100) (4 * n) 4).filter fun t => t != 15

def State.lastPass (s : State) (c t : Nat) : Nat := match s.stores.lastPass.find? fun e => e.1 == (c, t) with | some e => e.2 | none => 0

def State.setLastPass (s : State) (c t v : Nat) : State :=
  let old := s.lastPass c t
  if v = old then s
  else { s with
    stores := { s.stores with lastPass := s.stores.lastPass.filter (fun e => e.1 != (c, t)) ++ [((c, t), v)] },
    passBase := s.passBase.filter (fun e => e.1 != 9 * c + t) ++ [(9 * c + t, v, old)] }

/-- LAST_PASS of a tile as it stood before the checks of a step: the passes of the step's own blocks do not end its duty to
check all of them (R275). -/
def State.passBefore (s : State) (c t step : Nat) : Nat :=
  if s.lastPass c t = step then
    (match s.passBase.find? fun e => e.1 == 9 * c + t && e.2.1 == step with | some e => e.2.2 | none => s.lastPass c t)
  else s.lastPass c t

/-- The tile checks its blocks in step `st` (R274, R275). -/
def State.checks (s : State) (x : Inst) (g : Gemm) (t : Nat) : Bool :=
  bit (x.w 0) 14 || (g.abftN == 1) ||
  (decide (2 ≤ g.abftN) && ((x.step + 9 * g.cl + t) % g.abftN == 0 || decide (s.passBefore g.cl t x.step + g.abftN ≤ x.step)))

/-- The sum that the checks compare for a pair of groups: its integer, or in floating work and promoted pairs the sum of the
unshifted significand products of alignment block `j` (R270, R273). -/
def groupInt (mode : Nat) (a w : GOp) (j : Nat) : Int :=
  if a.kind ≠ .normal ∨ w.kind ≠ .normal then 0
  else if mode = 3 ∨ mode = 4 ∨ a.promo ∨ w.promo then
    match (pieces 32 a.els)[j]?, (pieces 32 w.els)[j]? with
    | some u, some v => ((List.zip u v).filterMap fun p => match p.1, p.2 with | some e, some f => some (e.sig * f.sig) | _, _ => none).sum
    | _, _ => 0
  else ((pairEls a w).map fun p => p.1.int * p.2.int).sum

/-- The same for products 16 m to 16 m + 15 of Past-Tense rows. -/
def pastInt (fa fw : Nat) (a w : List Nat) (m : Nat) : Int :=
  (((List.zip a w).drop (16 * m)).take 16 |>.map fun p => (sigExp fa p.1).1 * (sigExp fw p.2).1).sum

/-- Groups of a row of an operand as tiles see them. -/
def State.rowOps (s : State) (x : Inst) (o : OSet) (sides : List (Nat × Side)) (metaAt r : Nat) : List GOp :=
  (List.range o.ng).map fun k => s.gop x o (sideAt sides (r / max 1 o.sliceRows)) metaAt r k

/-- Reduction rows of a stationary load (R238). -/
def rowsPerLoad (mode : Nat) : Nat := if mode = 0 then 128 else if mode = 4 then 32 else 64

/-- A difference that faults make: row and column in the block, column load, group, amount. -/
structure Delta where
  i : Nat
  j : Nat
  g : Nat
  d : Int
deriving DecidableEq, Repr

/-- The checks see a difference: a row sum over a column load, or a column sum over a check block (R270 to R272).
Answers the row and column that they name. -/
def mismatchAt (cols : Nat) (ds : List Delta) : Option (Nat × Nat) :=
  let rowBad := ds.find? fun e => ((ds.filter fun f => f.i == e.i && f.g == e.g && f.j / cols == e.j / cols).map Delta.d).sum != 0
  let colBad := ds.find? fun e => ((ds.filter fun f => f.j == e.j && f.g == e.g && f.i / 64 == e.i / 64).map Delta.d).sum != 0
  match rowBad, colBad with
  | none, none => none
  | some r, some c => some (r.i, c.j)
  | some r, none => some (r.i, r.j)
  | none, some c => some (c.i, c.j)

/-- Faults that strike a block on a tile: position in the covered C, group, bit. -/
def applyFlips (fs : List Flip) (i j : Nat) (g : Nat) (v : Int) : Int :=
  (fs.filter fun f => f.row == i && f.col == j && f.group == g).foldl (fun v f => flipInt f.bit v) v

/-! ## One tile block -/

/-- A block as computed: values by row, input events, and the differences of faults. -/
structure TileBlock where
  vals : List (List Val)
  ds : List Delta
deriving DecidableEq, Repr

/-- Starting values: ACC_IN or +0 (R253). -/
def State.accIn (s : State) (x : Inst) (g : Gemm) (i j0 nc : Nat) : List Nat :=
  if g.acc then unpackElems BF16 nc (s.rdx x (g.accBase + 2 * (i * g.n + j0)) (2 * nc)) else []

/-- Past-Tense operand row. -/
def State.ptRow (s : State) (x : Inst) (o : OSet) (r : Nat) : List Nat :=
  unpackElems o.fmt o.cols (s.rdx x (o.base + elemBytes o.fmt (r * o.cols)) (elemBytes o.fmt o.cols))

/-- The outputs of a block of rows [i0, i0 + nr) and columns [j0, j0 + nc) under faults `fs`. -/
def State.blockVals (s : State) (x : Inst) (g : Gemm) (sa sw : List (Nat × Side)) (i0 nr j0 nc : Nat) (fs : List Flip) : TileBlock :=
  let pt := g.mode = 5
  let fmtA := if fmt16 g.accFmt then g.accFmt else BF16
  let start := (upto i0 nr).map fun i => (s.accIn x g i j0 nc).map (decode fmtA 0)
  if pt then
    let as := (upto i0 nr).map fun i => (s.ptRow x g.a (g.row0 + i)).map (decodeFloat (floatFmt g.a.fmt))
    let ws := (upto j0 nc).map fun j => (s.ptRow x g.w j).map (decodeFloat (floatFmt g.w.fmt))
    let out := fun (fx : Nat → Nat → Nat → Int → Int) => (as.zipIdx).map fun a => (ws.zipIdx).map fun w =>
      pastTense a.1 w.1 (bfVal g.ptA) (bfVal g.ptW) (if g.acc then some ((start.getD a.2 []).getD w.2 .zero) else none)
        (fx (i0 + a.2) (j0 + w.2))
    let ds := ((fs.filter fun f => decide (i0 ≤ f.row ∧ f.row < i0 + nr ∧ j0 ≤ f.col ∧ f.col < j0 + nc)).map fun f => (f.row, f.col, f.group)).eraseDups.map
      fun p =>
        let v := pastInt g.a.fmt g.w.fmt (s.ptRow x g.a (g.row0 + p.1)) (s.ptRow x g.w p.2.1) p.2.2
        ⟨p.1 - i0, p.2.1 - j0, p.2.2, applyFlips fs p.1 p.2.1 p.2.2 v - v⟩
    ⟨out (applyFlips fs), ds⟩
  else
    let as := (upto i0 nr).map fun i => s.rowOps x g.a sa 0 (g.row0 + i)
    let ws := (upto j0 nc).map fun j => s.rowOps x g.w sw g.metaAt j
    let vals := (as.zipIdx).map fun a => (ws.zipIdx).map fun w =>
      (tileOut g.mode ((start.getD a.2 []).getD w.2 .zero) (List.zip a.1 w.1) (applyFlips fs (i0 + a.2) (j0 + w.2))).toVal
    let nb := cdiv g.a.g 32
    let ds := ((fs.filter fun f => decide (i0 ≤ f.row ∧ f.row < i0 + nr ∧ j0 ≤ f.col ∧ f.col < j0 + nc)).map fun f => (f.row, f.col, f.group)).eraseDups.filterMap
      fun p =>
        let pair := fun k => ((as.getD (p.1 - i0) [])[k]?, (ws.getD (p.2.1 - j0) [])[k]?)
        let fp := g.mode = 3 ∨ g.mode = 4
        let k := if fp then p.2.2 / nb else p.2.2
        match pair k with
        | (some a, some w) =>
          if a.kind ≠ .normal ∨ w.kind ≠ .normal then none
          else
            let v := groupInt g.mode a w (if fp then p.2.2 % nb else 0)
            some ⟨p.1 - i0, p.2.1 - j0, p.2.2, applyFlips fs p.1 p.2.1 p.2.2 v - v⟩
        | _ => none
    ⟨vals, ds⟩

/-- The row sums of a block that its finished-tile entry carries (R270, R323). -/
def State.blockSums (s : State) (x : Inst) (g : Gemm) (sa sw : List (Nat × Side)) (i0 nr j0 nc : Nat) : List Int :=
  (upto i0 nr).map fun i =>
    if g.mode = 5 then
      ((upto j0 nc).map fun j => ((List.range (g.k / 16)).map (pastInt g.a.fmt g.w.fmt (s.ptRow x g.a (g.row0 + i)) (s.ptRow x g.w j))).sum).sum
    else
      let a := s.rowOps x g.a sa 0 (g.row0 + i)
      ((upto j0 nc).map fun j => ((List.zip a (s.rowOps x g.w sw g.metaAt j)).map fun p =>
        ((List.range (cdiv g.a.g 32)).map (groupInt g.mode p.1 p.2)).sum).sum).sum

/-- Input counts of operand rows, group by group: FLUSH and ZGRP with the group's granule (R142, R259). -/
def State.opParts (s : State) (x : Inst) (g : Gemm) (o : OSet) (sides : List (Nat × Side)) (metaAt r0 n op : Nat) : List (Gran × Counters) :=
  (upto r0 n).flatMap fun r =>
    if g.mode = 5 then
      [(plainGran (o.base + elemBytes o.fmt (r * o.cols) / 1024 * 1024) o.tid (elemBytes o.fmt (r * o.cols) / 1024) op,
        { flush := ((s.ptRow x o r).filter (isSubnormal o.fmt)).length })]
    else ((s.rowOps x o sides metaAt r).zipIdx).map fun q =>
      (o.dataGran ((r * o.ng + q.2) * o.gb / 1024) op, { flush := q.1.flush, zgrp := if q.1.zgrp then 1 else 0 })

/-- Granules and ranges of rows of an operand and its sides. -/
def OSet.rowUse (o : OSet) (pt : Bool) (sides : List (Nat × Side)) (r0 n op : Nat) : List Gran × List (Nat × Nat) :=
  if pt then
    let lo := elemBytes o.fmt (r0 * o.cols)
    let len := elemBytes o.fmt (n * o.cols)
    ((granPieces (o.base + lo) len).map fun p => plainGran (p.1 / 1024 * 1024) o.tid (p.1 / 1024 - o.base / 1024) op, [(o.base + lo, len)])
  else
    let u := o.elemUse (r0 * o.cols) (n * o.cols) op
    let d := o.elemSides sides (r0 * o.cols) (n * o.cols) op
    (u.1 ++ d.1, u.2 ++ d.2)

/-- The block `b` of a GEMM: rows and columns it covers. -/
def Gemm.span (g : Gemm) (b : Nat) : Nat × Nat × Nat × Nat :=
  let nc := cdiv g.n g.bn
  let i0 := b / nc * g.bm
  let j0 := b % nc * g.bn
  (i0, min g.bm (g.m - i0), j0, min g.bn (g.n - j0))

/-- The piece of work that block `b` is, given the values it ends with. The stream numbers it names in OPERAND (R231), A 0, W 1,
ACC_IN 2 and metadata 3, are the model's (DESIGN CHOICE, log entry 73). -/
def State.blockChunk (s : State) (x : Inst) (g : Gemm) (sa sw : List (Nat × Side)) (b : Nat) (vals : List (List Val)) : Chunk :=
  let (i0, nr, j0, nc) := g.span b
  let pt := g.mode == 5
  let metaUse := if g.sparse then [(g.metaAt + j0 * (g.k / 4) / 2, cdiv ((j0 + nc) * (g.k / 4)) 2 - j0 * (g.k / 4) / 2)] else []
  let metaNeed := metaUse.flatMap fun u => (granPieces u.1 u.2).map fun p => plainGran (p.1 / 1024 * 1024) g.metaTid (p.1 / 1024 - g.metaAt / 1024) 3
  let accUse := if g.acc then (upto i0 nr).map fun i => (g.accBase + 2 * (i * g.n + j0), 2 * nc) else []
  let accNeed := (accUse.flatMap fun u => (granPieces u.1 u.2).map fun p =>
      plainGran (p.1 / 1024 * 1024) g.accTid ((2 * g.row0 * g.n) / 1024 + p.1 / 1024 - g.accBase / 1024) 2).eraseDups
  let rnd : Rnd := ⟨g.rnd, s.seed x, g.cTid, x.step⟩
  let codes := (vals.zipIdx).map fun r => (r.1.zipIdx).map fun v => to16 g.cFmt v.1 (rnd.at_ ((g.row0 + i0 + r.2) * g.n + j0 + v.2))
  let last := g.row0 + g.m = g.total ∧ i0 + nr = g.m ∧ j0 + nc = g.n
  let tail := if last then outAt (g.cBase + 2 * g.m * g.n) (List.replicate (up1k (2 * g.m * g.n) - 2 * g.m * g.n) 0#8) else []
  let outs := if g.epi then [] else ((codes.zipIdx).flatMap fun r =>
    outAt (g.cBase + 2 * ((i0 + r.2) * g.n + j0)) (r.1.flatMap fun c => leBytes 2 c.1)) ++ tail
  let fmtA := if fmt16 g.accFmt then g.accFmt else BF16
  let part := (if j0 = 0 then s.opParts x g g.a sa 0 (g.row0 + i0) nr 0 else []) ++ (if i0 = 0 then s.opParts x g g.w sw g.metaAt j0 nc 1 else [])
  let cAcc : Counters := if g.acc then { flush := (((upto i0 nr).flatMap fun i => s.accIn x g i j0 nc).filter (isSubnormal fmtA)).length } else {}
  let ua := g.a.rowUse pt sa (g.row0 + i0) nr 0
  let uw := g.w.rowUse pt sw j0 nc 1
  let skew := if x.checkDiac && !pt then (g.a.skewIn sa ((g.row0 + i0) * g.k) (nr * g.k) 0).or (g.w.skewIn sw (j0 * g.k) (nc * g.k) 1) else none
  { need := ua.1 ++ uw.1 ++ accNeed ++ metaNeed, use := ua.2 ++ uw.2 ++ accUse ++ metaUse, outs := outs,
    ren := (outs.map fun o => plainGran (o.a / 1024 * 1024) g.cTid ((2 * g.row0 * g.n) / 1024 + o.a / 1024 - g.cBase / 1024) 0).eraseDups,
    cnt := ((sumCnt (part.map Prod.snd)).add cAcc).add (if g.epi then {} else sumCnt (codes.flatMap fun r => r.map Prod.snd)),
    bad := skew.map fun d => (3, 16 + d.op), who := skew, part := part }

/-! ## Blocks on tiles -/

/-- The blocks done so far: state of the tiles, pieces, values, and the tile state before each. -/
structure GRun where
  s : State
  chunks : List Chunk
  vals : List (List (List Val))
  before : List State
deriving DecidableEq, Repr

/-- A finished block enters its tile's queue, which holds 16 entries: with 16 there the tile has waited for its oldest entry to go
(R323, R324). The tile's two accumulator banks take its blocks in turn (R249). -/
def State.enterTile (s : State) (x : Inst) (g : Gemm) (t b : Nat) (sums : List Int) : State :=
  let tile := 9 * g.cl + t
  let mine := s.tileq.filter fun e => e.1 == tile
  let rest := if 16 ≤ mine.length then s.tileq.erase (mine.headD (0, ⟨0, 0, 0, 0, 0, 0, 0, []⟩)) else s.tileq
  let bank := match mine.getLast? with | some e => 1 - e.2.bank | none => 0
  let (i0, nr, j0, nc) := g.span b
  { s with tileq := rest ++ [(tile, ⟨x.id, b, g.row0 + i0, j0, nr, nc, bank, sums⟩)] }

/-- Entries leave their queues: of a block that its check failed, or of a GEMM whose rows have been drained and read (R324). -/
def State.leaveTiles (s : State) (x : Inst) (p : TileEntry → Bool) : State :=
  { s with tileq := s.tileq.filter fun e => !(e.2.owner == x.id && p e.2) }

/-- A failed check implicates the steps from LAST_PASS + 1 on (R669, R671). -/
def State.implicate (s : State) (x : Inst) (c t : Nat) : State :=
  let first := min x.step (s.lastPass c t + 1)
  s.modCtx x.ctx fun k => { k with implFrom := some (match k.implFrom with | some v => min v first | none => first) }

/-- A tile mismatches: TILE_CHECK_FAIL, record, implicated step, retirement (R278, R284, R669). -/
def State.tileMismatch (s : State) (x : Inst) (c t row col : Nat) : State :=
  let s := (s.countF (clusterOff c 0x108) 16 1).logEv 0x0201 x.job [9 * c + t, row, col]
  (s.implicate x c t).retireTile c t

/-- The tile that repeats a block: the spare that took over, or the next active tile (R278). -/
def nextTile (before after : List Nat) (b : Nat) : Option Nat :=
  match after.find? fun k => !before.contains k with
  | some k => some k
  | none => after[b % max 1 after.length]?

/-- Block `b` on the tile that takes it; a mismatch retires the tile and repeats the block. When the repeat mismatches too, its
tile is retired only if the known-answer test fails on it (R278 to R280). `s` holds the data, `r.s` the tiles. -/
def State.runBlock (s : State) (x : Inst) (g : Gemm) (flips : List Flip) (sa sw : List (Nat × Side)) (r : GRun) (b : Nat) : GRun :=
  let (i0, nr, j0, nc) := g.span b
  let tiles := r.s.tilesOf g.cl
  let t := tiles.getD (b % max 1 tiles.length) 15
  let cols := colsPerLoad g.mode g.sparse
  let sums := if g.epi then s.blockSums x g sa sw i0 nr j0 nc else []
  let enter := fun (st : State) (t : Nat) => if g.epi then st.enterTile x g t b sums else st
  let leave := fun (st : State) => st.leaveTiles x fun e => e.block == b
  let fail := fun (st : State) (k : Nat × Nat) =>
    ({ r with s := st, chunks := r.chunks ++ [{ s.blockChunk x g sa sw b [] with bad := some k, who := none, outs := [], ren := [], cnt := {} }],
              vals := r.vals ++ [[]], before := r.before ++ [r.s] } : GRun)
  let pass := fun (st : State) (v : TileBlock) =>
    ({ s := st, chunks := r.chunks ++ [s.blockChunk x g sa sw b v.vals], vals := r.vals ++ [v.vals], before := r.before ++ [r.s] } : GRun)
  if tiles.isEmpty then fail r.s (0xD, 0)
  else
    let v := s.blockVals x g sa sw i0 nr j0 nc (flips.filter fun f => f.tile == t)
    let st := enter r.s t
    if !r.s.checks x g t then pass st v
    else match mismatchAt cols v.ds with
      | none => pass (st.setLastPass g.cl t (max x.step (r.s.lastPass g.cl t))) v
      | some (i, j) =>
        let st := (leave st).tileMismatch x g.cl t (i0 + i) (j0 + j)
        match nextTile tiles (st.tilesOf g.cl) b with
        | none => fail st (0xD, 0)
        | some u =>
          let v' := s.blockVals x g sa sw i0 nr j0 nc (flips.filter fun f => f.again)
          match mismatchAt cols v'.ds with
          | none => pass ((enter st u).setLastPass g.cl u (max x.step (st.lastPass g.cl u))) v'
          | some _ =>
            let st := (st.countF (clusterOff g.cl 0x108) 16 1).implicate x g.cl u
            fail (if flips.any fun f => f.again && f.kat then st.retireTile g.cl u else st) (6, u)

/-- Rows of C from the blocks of complete bands. -/
def Gemm.rowsOf (g : Gemm) (vals : List (List (List Val))) : List (List Val) :=
  (pieces (cdiv g.n g.bn) vals).flatMap fun band =>
    if band.length < cdiv g.n g.bn then []
    else (List.range ((band.head?.map List.length).getD 0)).map fun r => band.flatMap fun blk => blk.getD r []

/-- Every block in order, up to the first that its tiles fail. -/
def State.gemmBlocks (s : State) (x : Inst) (g : Gemm) (flips : List Flip) : GRun :=
  let sa := s.sidesOf x g.a g.row0 g.m
  let sw := s.sidesOf x g.w 0 g.n
  (List.range (cdiv g.m g.bm * cdiv g.n g.bn)).foldl
    (fun r b => if r.chunks.any fun c => c.bad.isSome then r else s.runBlock x g flips sa sw r b) ⟨s, [], [], []⟩

/-- The work of a GEMM: one piece for each block. -/
def State.gemmWork (s : State) (x : Inst) (g : Gemm) (flips : List Flip) : Work :=
  ⟨g.ranges, (s.gemmBlocks x g flips).chunks, Chunk.empty, g.lg, 0, 0⟩

/-- The tiles after a run of blocks: as all of them left it, or, where an input fails first, as the blocks before that did. -/
def GRun.tiles (r : GRun) (s : State) (good : Nat) (halt : Option Halt) : State :=
  match halt with
  | some h => if h.gran.isNone && (h.status == 6 || h.status == 0xD) then r.s else r.before.getD good s
  | none => r.s

/-- The rows of a GEMM go to its epilogue instance; then the GEMM ends with what its work came to, unless the instance still has
writes of its rows to make, or has ended with it (R320, R321). -/
def State.serveEpi (x e : Inst) (g : Gemm) (rows : List (List Val)) (ran : Ran) : State :=
  let (st, h) := ran.s.epiRows e g.row0 rows g.bm g.bn
  let st := st.leaveTiles x fun _ => true
  let ended := State.endWork x g.lg 0
  match h, ran.halt with
  | some h, _ => ((st.endEngine x h.status h.detail ran.cnt g.lg).endVstream e.id h.status h.detail)
  | none, some _ => ended { ran with s := st }
  | none, none =>
    let st := (st.modInst x.id fun y => { y with stage := 1, cnt := ran.cnt }).epiFinish e.id
    match st.inst? x.id with
    | some y => if y.phase = .started ∧ !e.prog.lateChains then ended { ran with s := st } else st
    | none => st

/-- GEMM with its operand block judged. -/
def State.gemmTiles (s : State) (x : Inst) (g : Gemm) (flips : List Flip) : State :=
  let s := s.leaveTiles x fun _ => true
  let r := s.gemmBlocks x g flips
  let (good, _, halt) := s.runChunks x [] r.chunks
  let st := r.tiles s good.length halt
  let w := s.gemmWork x g flips
  if !g.epi then st.runWork x w
  else match st.boundEpi x with
    | none => st.endInst x 1 0 {}
    | some e =>
      if rowsTaken x e then st.endInst x 1 0 {}
      else match st.partWork x w with
        | .error s' => s'
        | .ok ran => State.serveEpi x e g (g.rowsOf (r.vals.take good.length)) ran

/-- A basic GEMM whose A, W and C do not lie in its cluster's SSM is staged through slot rings (R848). -/
def State.isStaged (s : State) (x : Inst) (g : Gemm) : Bool :=
  !x.expert && !([g.a.base, g.w.base] ++ (if g.epi then [] else [g.cBase])).all fun b => s.inSsm g.cl b 1

/-- What staging leaves: the ring's slots hold what passed through them, and the ring is sealed behind the last piece (R485, log
entry 77). -/
def State.leaveStaging (s : State) (n c : Nat) : State :=
  let g := s.ring c (Config.stagingRing n c % 64)
  if !g.enabled ∨ g.ctx ≠ n then s
  else
    let bs := (List.range (g.slots * g.slotBytes)).map (Config.slotByte s.freeCtr)
    ({ s with freeCtr := s.freeCtr + 1 }.wrPhys (g.slotAddr 0) bs).sealRing c g.r

/-- The tiles run a GEMM; the rings that staged it are left in their initial state. -/
def State.gemmRun (s : State) (x : Inst) (g : Gemm) (flips : List Flip) : State :=
  let t := s.gemmTiles x g flips
  if s.isStaged x g ∧ (t.inst? x.id).any (fun y => y.phase == .done) then t.leaveStaging x.ctx g.cl else t

/-- The blocks of a GEMM that must wait for earlier rows stand in their tiles' queues (R325). -/
def State.queueBlocks (s : State) (x : Inst) (g : Gemm) : State :=
  let s := s.leaveTiles x fun _ => true
  let sa := s.sidesOf x g.a g.row0 g.m
  let sw := s.sidesOf x g.w 0 g.n
  let tiles := s.tilesOf g.cl
  (List.range (cdiv g.m g.bm * cdiv g.n g.bn)).foldl (fun q b =>
    let t := tiles.getD (b % max 1 tiles.length) 15
    let (i0, nr, j0, nc) := g.span b
    if tiles.isEmpty ∨ 16 ≤ (q.tileq.filter fun e => e.1 == 9 * g.cl + t).length then q
    else q.enterTile x g t b (s.blockSums x g sa sw i0 nr j0 nc)) s

/-- GEMM: waits for its epilogue's turn; then every block in order. -/
def State.gemm (s : State) (i : Nat) (flips : List Flip) : State :=
  match s.started i 2 with
  | none => s
  | some x =>
    match s.withBlock x (x.a64 6) 64 with
    | .error s' => s'
    | .ok (s, x) =>
      match s.gemmJudge x with
      | .error e => if e.1 = 8 then s.endFormat x e.2 else s.endEntry x e.1 [(x.blk 14 0 8, x.blk 14 8 2), (x.blk 14 10 8, x.blk 14 18 2)]
      | .ok g =>
        match s.prefetchHolds x [g.a.base, g.w.base] with
        | some s' => s'
        | none =>
        match g.ranges.find? fun r => !s.mayAcc x 0 r.1 r.2 with
        | some r => s.endDeny x r.1
        | none =>
        if s.workHostDown ⟨g.ranges, [], Chunk.empty, 0, 0, 0⟩ then s.endInst x 7 0 {} else
        match s.want x g.ranges with
        | some s' => s'
        | none =>
        match (if g.epi then s.boundEpi x else none) with
        | some e =>
          if x.stage = 1 then s
          else if e.stage = 0 then s.modInst i fun y => { y with blocked := true }
          else if epiEarly x e then (s.queueBlocks x g).modInst i fun y => { y with blocked := true }
          else s.gemmRun x g flips
        | none => s.gemmRun x g flips

def execGemm (i : Nat) (flips : List Flip) (s : State) : Host.Outcome State Fault Refusal := act (.gemm i flips) (s.gemm i flips)

end Sys2Proof.Machine
end

