-- ==== Sys2Proof/Machine/Update.lean ====
section
/-! DEFINITION. UPDATE: optimiser steps, weight quantisation with error feedback, tables (08 R420 to R443). -/
namespace Sys2Proof.Machine

/-! ## Fields and format checks (R435, R436, R439) -/

def Inst.opt (x : Inst) : Nat := x.f 6 0 3
def Inst.factored (x : Inst) : Bool := bit (x.w 6) 3
def Inst.tableEn (x : Inst) : Bool := bit (x.w 6) 8
def Inst.wqOnly (x : Inst) : Bool := x.opt == 7
def Inst.wqEn (x : Inst) : Bool := bit (x.w 6) 15 || x.wqOnly
def Inst.qerrEn (x : Inst) : Bool := bit (x.w 6) 16
def Inst.scaleParam (x : Inst) : Bool := bit (x.w 6) 19
def Inst.momG (x : Inst) : Nat := groupOf (x.f 6 20 2)
def Inst.uRows (x : Inst) : Nat := x.f 9 0 24
def Inst.uCols (x : Inst) : Nat := x.f 10 0 20
def Inst.uRow0 (x : Inst) : Nat := x.f 11 0 24
def Inst.uTotal (x : Inst) : Nat := x.f 12 0 24
def Inst.uCount (x : Inst) : Nat := x.f 13 0 24
def Inst.uLg (x : Inst) : Nat := x.f 6 22 8

/-- Format cases of an UPDATE's words (R439); a case over several words names the smallest (R79). -/
def Inst.badUpdate (x : Inst) : List (Bool × Nat) :=
  let o := x.opt
  x.resv 6 [0xC0000000, 0x3F, 0, 0xFF000000, 0xFFF00000, 0xFF000000, 0xFF000000, 0xFF000000, 0, 0] ++
  [((decide (4 ≤ o) && decide (o ≤ 6)) || x.f 6 20 2 == 3 || (!x.expert && x.f 6 4 4 != 0) || x.uCols % x.momG != 0 ||
      (x.factored && ((o != 1 && o != 2) || x.uRow0 != 0 || x.uRows != x.uTotal || decide (65536 < x.uCols) || x.tableEn)) ||
      (x.scaleParam && (x.wqEn || x.tableEn || x.factored)), 6),
   (!x.tableEn && decide (x.uTotal < x.uRow0 + x.uRows), 9)]

/-- A BF16 hyperparameter that is negative or not finite. -/
def hyperBad (c : Nat) : Bool := match bfVal c with | .fin n m => n && m != 0 | _ => true
def ombBad (c : Nat) : Bool := match bfVal c with | .fin n m => (n && m != 0) || decide (1 < m) | _ => true

/-- Options of the weight entry; a basic expansion rescues (R212, R408). -/
def Inst.wqCtl (x : Inst) (e : Entry) : Nat := if x.expert then e.qctl else e.basicQctl

/-- The weight entry's options against an output set of `cols` columns, as R190 judges a QUANT that takes them; the operand block's
tensor IDs and addresses are R193's and R436's own matter (log entry 74). -/
def State.wqFault (s : State) (x : Inst) (e : Entry) : Bool :=
  let a := x.blk64 6 / 1024 * 1024
  let words : List Nat := [4 + 2 ^ 11, 0, 0, 0, 0, 0, 0, 0, a % 2 ^ 32, a / 2 ^ 32, 1, 2 ^ 16, 0,
    groupOf e.gs + BF16 * 2 ^ 20 + e.fmt * 2 ^ 24 + e.gs * 2 ^ 28, 0, 0]
  (worst (s.badQuant { x with words := words.map (BitVec.ofNat 32) } (some (x.wqCtl e)))).isSome

/-- Faults of the operand block and of the entry and slot it works with; `e` is the weight entry (R439). Cases that rest on the
entry name LAYER_GROUP's word. -/
def State.updBlockBad (s : State) (x : Inst) (e : Entry) : Option Nat :=
  let wq := x.wqEn && !x.tableEn
  let sp := wq && e.f 0 28 1 == 1
  let tr := x.wqEn && e.f 0 29 1 == 1
  let f := e.fmt
  let g := groupOf e.gs
  worst
    [(x.blk 0 0 10 != 0, 16), (x.blk 2 24 8 != 0, 16 + 2), (x.blk 5 28 4 != 0 || !fmt16 (x.blk 5 24 4), 16 + 5),
     ((wq || x.scaleParam) && x.blk 6 0 10 != 0, 16 + 6), (x.blk 8 24 8 != 0, 16 + 8), (x.tableEn && x.blk 9 0 10 != 0, 16 + 9),
     (hyperBad (x.blk 11 0 16) || hyperBad (x.blk 11 16 16), 16 + 11),
     (ombBad (x.blk 12 0 16) || ombBad (x.blk 12 16 16), 16 + 12),
     (hyperBad (x.blk 13 0 16) || hyperBad (x.blk 13 16 16), 16 + 13),
     (hyperBad (x.blk 14 0 16) || hyperBad (x.blk 14 16 16), 16 + 14),
     (x.blk 15 24 8 != 0, 16 + 15),
     ((wq && (s.wqFault x e || (fmtScaled f && x.uCols % g != 0))) || (tr && x.tableEn) || (sp && decide (TERN < f)) ||
        ((wq || x.scaleParam) && !e.sliceOk) || (x.scaleParam && e.gs == 3), 6),
     (tr && !x.tableEn && x.uRows % g != 0, 9), (tr && !x.tableEn && x.uRow0 % g != 0, 11),
     (tr && !x.tableEn && x.uTotal % g != 0, 12), (tr && !x.tableEn && x.f 14 0 10 != 0, 14),
     (x.tableEn && (x.uCols != x.table.elems || !x.table.fmtOk || x.uTotal != x.table.rows), 6)]

/-! ## The parameter set (R420) -/

/-- Moments and quantisation error lie as output sets without side regions (log entry 37). -/
def Inst.uSet (x : Inst) (base fmt tid : Nat) : OSet :=
  { base := base, rows := x.uTotal, cols := x.uCols, fmt := fmt, gs := x.f 6 20 2, half := false, outl := false,
    hist := false, lscale := false, mx := false, cap := 0, promo := 0, sliceRows := 128, tid := tid % 2 ^ 24 }

/-- Where the regions of a parameter set lie. -/
structure PSet where
  w : Nat
  urem : Nat
  m : OSet
  v : OSet
  fr : Nat
  fc : Nat
  qerr : OSet
  tid : Nat
deriving DecidableEq, Repr

/-- The parameter set of a descriptor. Bit 31 of word 6 is set only by the device, in the WQ_ONLY pass at a recipe switch
over a set that ADAM or ADAMW laid out (R419). -/
def Inst.pset (x : Inst) : PSet :=
  let n := x.uTotal * x.uCols
  let tid := x.blk 2 0 24
  let hasW := !x.scaleParam && !(x.tableEn && x.table.kind == 0)
  let two := x.opt == 1 || x.opt == 2 || bit (x.w 6) 31
  let mlen := up1k n + 2 * (n / x.momG)
  let sizes := [if hasW then 2 * n else 0, n, mlen, if !two then 0 else if x.factored then 2 * x.uTotal else mlen,
    if x.factored then 2 * x.uCols else 0]
  let off := fun k => x.blk64 0 + ((sizes.take k).map up1k).sum
  ⟨off 0, off 1, x.uSet (off 2) E4M3 (tid + 2), x.uSet (off 3) E5M2 (tid + 3), off 3, off 4, x.uSet (off 5) E4M3 (tid + 5), tid⟩

/-! ## Update of one element (R422 to R425) -/

structure Hyper where
  opt : Nat
  clamp : Bool
  lr : Val
  wd : Val
  omb1 : Val
  omb2 : Val
  eps : Val
  gscale : Val
  bc1 : Val
  bc2 : Val
deriving DecidableEq, Repr

def Inst.hyper (x : Inst) : Hyper :=
  let b := fun k lo => bfVal (x.blk k lo 16)
  ⟨x.opt, bit (x.w 6) 17 || x.scaleParam, b 11 0, b 11 16, b 12 0, b 12 16, b 13 0, b 13 16, b 14 0, b 14 16⟩

def vSub (a b : Val) : Val := vAdd a (vNeg b)

/-- ulp(x) of R422. -/
def ulpOf (q : Rat) : Rat := if q = 0 then pow2 (-133) else pow2 (max (ilog2 (if q < 0 then -q else q)) (-126) - 7)

/-- BF16 nearest, ties towards +∞ (R422, R424, R425). -/
def bf16Ties (x : Val) : Nat × Counters :=
  match x with
  | .fin n m =>
    if m = 0 then (floatCode (floatFmt BF16) x, {})
    else
      let u := pow2 (ilog2 m - 7)
      let lo := (m / u).floor.toNat
      let d := m / u - lo
      let k := if d < 1 / 2 then lo else if 1 / 2 < d then lo + 1 else if n then lo else lo + 1
      to16 BF16 (.fin n ((k : Rat) * u)) none
  | v => to16 BF16 v none

/-- What one element becomes: master code, remainder, delta and value. -/
structure ElemUpd where
  code : Nat
  urem : Int
  delta : Val
  w : Val
  cnt : Counters
deriving DecidableEq, Repr

/-- The last lines of R422, from the step direction `u`. -/
def finishElem (h : Hyper) (w : Val) (urem : Int) (u : Val) : ElemUpd :=
  let u := if h.opt = 2 ∨ h.opt = 3 then vAdd u (vMul h.wd w) else u
  let delta := vNeg (vMul h.lr u)
  let rem : Val := match w with | .fin _ _ => Val.ofRat ((urem : Rat) * ulpOf w.rat / 256) | _ => .zero
  let x := vAdd (vAdd w rem) delta
  let x := match x with | .fin _ _ => if h.clamp ∧ x.rat < pow2 (-126) then .fin false (pow2 (-126)) else x | .inf true => if h.clamp then .fin false (pow2 (-126)) else x | v => v
  let c := bf16Ties x
  let wn := bfVal c.1
  let ur : Int := match x, wn with
    | .fin _ _, .fin _ _ => max (-128) (min 127 ((x.rat - wn.rat) * 256 / ulpOf wn.rat).floor)
    | _, _ => 0
  ⟨c.1, ur, delta, wn, c.2⟩

/-- The gradient as the rule uses it, with coupled decay. -/
def gradOf (h : Hyper) (w g : Val) : Val :=
  let g := vMul h.gscale g
  if h.opt ≤ 1 then vAdd g (vMul h.wd w) else g

def vSign (c : Val) : Val := match c with | .nan => .nan | .inf n => .fin n 1 | .fin n m => if m = 0 then .zero else .fin n 1

/-- A run of elements that share moment groups. -/
structure RowUpd where
  els : List ElemUpd
  m : List GroupOut
  v : List GroupOut
deriving DecidableEq, Repr

/-- Encode consecutive groups with CURRENT scales (R423). -/
def encodeMom (f g : Nat) (xs : List Val) (rnd : Rnd) (e0 : Nat) : List GroupOut :=
  ((pieces g xs).zipIdx).map fun p => encodeCurrent f false p.1 rnd (e0 + g * p.2) 0

def decodeMom (f : Nat) (gs : List GroupOut) : List Val := gs.flatMap fun r => decodeGroup f r.sw r.codes

/-- Update a row (R422): masters, remainders, moments, gradients; `vq` gives the second moment of FACTORED. -/
def updRow (h : Hyper) (g : Nat) (rm rv : Rnd) (e0 : Nat) (ws : List Val) (us : List Int) (ms vs gs : List Val) (vq : Option (List Val)) : RowUpd :=
  let gr := List.zipWith (gradOf h) ws gs
  let one1 := vSub vOne h.omb1
  let one2 := vSub vOne h.omb2
  if h.opt = 3 then
    let u := List.zipWith (fun m g => vSign (vAdd (vMul one1 m) (vMul h.omb1 g))) ms gr
    let mo := encodeMom E4M3 g (List.zipWith (fun m g => vAdd (vMul one2 m) (vMul h.omb2 g)) ms gr) rm e0
    ⟨(List.zip (List.zip ws us) u).map fun p => finishElem h p.1.1 p.1.2 p.2, mo, []⟩
  else if h.opt = 0 then
    let mo := encodeMom E4M3 g (List.zipWith (fun m g => vAdd (vMul one1 m) g) ms gr) rm e0
    ⟨(List.zip (List.zip ws us) (decodeMom E4M3 mo)).map fun p => finishElem h p.1.1 p.1.2 p.2, mo, []⟩
  else
    let mo := encodeMom E4M3 g (List.zipWith (fun m g => vAdd (vMul one1 m) (vMul h.omb1 g)) ms gr) rm e0
    let vo := if vq.isSome then [] else encodeMom E5M2 g (List.zipWith (fun v g => vAdd (vMul one2 v) (vMul h.omb2 (vMul g g))) vs gr) rv e0
    let vv := match vq with | some l => l | none => decodeMom E5M2 vo
    let u := List.zipWith (fun m v =>
      let den := rn20V (vAdd (vSqrt (vMul h.bc2 v)).rn20 h.eps)
      rn20V (vDiv (vMul h.bc1 m) den)) (decodeMom E4M3 mo) vv
    ⟨(List.zip (List.zip ws us) u).map fun p => finishElem h p.1.1 p.1.2 p.2, mo, vo⟩

/-! ## Weight quantisation (R428 to R431) -/

/-- Positions of a block of four that 2:4 keeps: the two of largest magnitude, ties to the lower index (R430). -/
def keep24 (ys : List Val) : List Nat :=
  let gt := fun (i j : Nat) => vGt (vAbs (ys.getD i .zero)) (vAbs (ys.getD j .zero))
  let rank := fun i => ((List.range 4).filter fun j => j != i && (gt j i || (!gt i j && decide (j < i)))).length
  (List.range 4).filter fun i => decide (rank i < 2)

/-- A group of a slice, freshly quantised, or as stored (none of its own bytes are written again). -/
structure SlotGroup where
  gi : Nat
  fresh : Bool
  q : QGroup
deriving DecidableEq, Repr

/-- A stored group as the quantiser would have left it. -/
def State.storedGroup (s : State) (x : Inst) (o : OSet) (d : Side) (gi k : Nat) : QGroup :=
  let pr := match d.promoted k with
    | some (sw, cs) => leBytes 4 k ++ leBytes 4 sw ++ leBytes 8 0 ++ cs.map (BitVec.ofNat 8)
    | none => []
  ⟨s.scaleWord x o gi, [], {}, d.entsOf k, pr, false, none, false⟩

/-- What weight quantisation takes from memory: whether a group of the set is quantised now, and its elements if so; the codes
that are stored of a group; the LSCALE master of a group. -/
structure WqIn where
  now : Nat → Option GroupIn
  sel : Nat → List Nat → List Nat
  lsc : Nat → Nat

/-- Slice `i` with the groups of `w` quantised afresh among those already there. A fresh group finds the room that the groups
before it leave, so that pieces in ascending order come to what one descriptor would write (R217, R440); stored groups behind
keep their entries as far as the slice's partitions reach (R194; DESIGN CHOICE, log entry 74). -/
def State.slotSlice (s : State) (x : Inst) (c : QCfg) (i : Nat) (w : WqIn) (d : Side) : List SlotGroup :=
  let o := c.o
  let (r0, n) := o.sliceSpan i
  (((List.range (n * o.ng)).foldl (fun (q : List SlotGroup × Nat × Nat) k =>
    let gi := r0 * o.ng + k
    let g : SlotGroup := match w.now gi with
      | some r => ⟨gi, true, quantGroup c r false gi k (o.cs - q.2.1) (decide (q.2.2 < o.promo))
          (if o.hist then s.histEntries x o i (k % max 1 o.ng) else []) (w.lsc gi)⟩
      | none =>
        let a := s.storedGroup x o d gi k
        ⟨gi, false, { a with ents := a.ents.take (o.cs - q.2.1), promo := if q.2.2 < o.promo then a.promo else [] }⟩
    (q.1 ++ [g], q.2.1 + g.q.ents.length, q.2.2 + (if g.q.promo.isEmpty then 0 else 1))) ([], 0, 0))).1

/-- The SDIR entry of a slice whose groups are `gs`: a piece that begins the slice counts its overflows afresh and leaves it
incomplete, one that ends it completes it (R196; DESIGN CHOICE, log entry 74). -/
def State.slotDir (s : State) (x : Inst) (o : OSet) (i : Nat) (gs : List SlotGroup) : Out :=
  let old := s.rdx x (o.off 4 + 16 * i) 16
  let first := (gs.head?.map SlotGroup.fresh).getD false
  let last := (gs.getLast?.map SlotGroup.fresh).getD false
  let ovf := (gs.filter fun g => g.q.ovf).length
  o.sdirOut i (gs.map fun g => g.q.ents.length).sum (gs.filter fun g => !g.q.promo.isEmpty).length
    (if first then ovf else leAt old 8 4 + ovf) (if last then true else if first then false else bit (leAt old 12 4) 1)

/-- Outputs of a quantised slice: data, scale, entries of its groups, directory and history. -/
def State.slotOuts (s : State) (x : Inst) (c : QCfg) (i : Nat) (gs : List SlotGroup) (sel : Nat → List Nat → List Nat) : List Out × List Gran × Counters :=
  let o := c.o
  let body := (gs.foldl (fun (st : (List Out × List Gran) × Nat × Nat) p =>
    let ((os, rs), e, m) := st
    let a := p.q
    let (sw, codes, _) := a.stored o
    let pe := (i * o.promo + m) * (16 + o.g)
    let le := 4 * (o.cs * i + e)
    let at_ := o.off 0 + o.gb * p.gi
    let tail := if p.gi + 1 = o.groups then List.replicate (up1k o.dataLen - o.dataLen) 0#8 else []
    let own := if p.fresh then outAt at_ (packElems o.fmt (sel p.gi codes) ++ tail) ++ outAt (o.off 1 + o.sb * p.gi) (leBytes o.sb sw) else []
    ((os ++ own ++ (if a.ents.isEmpty then [] else outAt (o.off 2 + le) (a.ents.flatMap (leBytes 4))) ++ (if a.promo.isEmpty then [] else outAt (o.off 3 + pe) a.promo),
      rs ++ (if p.fresh then o.dataGrans (o.gb * p.gi) o.gb 0 else []) ++ o.sideGrans 2 le (4 * a.ents.length) 0 ++ o.sideGrans 3 pe a.promo.length 0),
     e + a.ents.length, m + (if a.promo.isEmpty then 0 else 1))) (([], []), 0, 0)).1
  let fr := gs.filter SlotGroup.fresh
  (body.1 ++ s.slotDir x o i gs :: s.histOuts x c i (fr.map fun g => (g.gi, g.q)), body.2 ++ o.endGrans i,
    sumCnt (fr.map fun g => (g.q.stored o).2.2))

/-- What the slice reads besides the weights: HIST, LSCALE of its fresh groups, and the side structures of the groups that stay,
with the first of these whose entry carries another group's GTAG (R206, R211, R230, R232). -/
def State.slotUse (s : State) (x : Inst) (o : OSet) (i : Nat) (d : Side) (gs : List SlotGroup) (op : Nat) (lscale : Bool) : Chunk :=
  let h := (i * o.ng * 64, o.ng * 64)
  let ls := if lscale then (gs.filter SlotGroup.fresh).map fun g => 2 * g.gi else []
  let kept := gs.filter fun g => !g.fresh
  let dir := leNat (s.rdx x (o.off 4 + 16 * i) 16)
  let side := if kept.isEmpty || (d.ents.isEmpty && d.promo.isEmpty && dir == 0) then ([], []) else
    if o.outl then o.sideUse i op d 0 o.perSlice else (o.sideGrans 4 (16 * i) 16 op, [(o.off 4 + 16 * i, 16)])
  let held := (kept.filter fun g => !(d.entsOf (o.slotOf g.gi).2).isEmpty).flatMap fun g => o.dataGrans (o.gb * g.gi) o.gb op
  let skew := if x.checkDiac then kept.findSome? fun g => o.skewIn [(i, d)] (g.gi * o.g) o.g op else none
  { Chunk.empty with
    need := (if o.hist then o.sideGrans 5 h.1 h.2 op else []) ++ (ls.flatMap fun b => o.sideGrans 6 b 2 op) ++ side.1 ++ held.eraseDups,
    use := (if o.hist then [(o.off 5 + h.1, h.2)] else []) ++ (ls.map fun b => (o.off 6 + b, 2)) ++ side.2,
    bad := if skew.isSome then some (3, 16 + op) else none, who := skew }

/-- What quantising rows of a weight reads first and what it leaves. -/
structure WqOut where
  prep : List Chunk
  outs : List Out
  ren : List Gran
  cnt : Counters
  /-- dequantised values by group of the set -/
  deq : List (Nat × List Val)
deriving DecidableEq, Repr

def WqOut.nil : WqOut := ⟨[], [], [], {}, []⟩

/-- Quantise the groups that `w` gives, slice by slice. `init`: the LSCALE masters are made here, not read. -/
def State.wqSlices (s : State) (x : Inst) (c : QCfg) (rows : List Nat) (w : WqIn) (init : Bool) : WqOut :=
  let o := c.o
  let slices := (rows.map fun r => r / max 1 o.sliceRows).eraseDups
  let parts := slices.map fun i =>
    let d := s.readSide x o i
    let gs := s.slotSlice x c i w d
    (gs, s.slotOuts x c i gs w.sel, s.slotUse x o i d gs 7 (o.lscale && !init))
  ⟨parts.map fun p => p.2.2, parts.flatMap fun p => p.2.1.1, parts.flatMap fun p => p.2.1.2.1, sumCnt (parts.map fun p => p.2.1.2.2),
    parts.flatMap fun p => (p.1.filter SlotGroup.fresh).map fun g => (g.gi, g.q.vals o.fmt)⟩

/-- y of R428 for one group: rotated master plus stored error. A rotated group with a non-finite master becomes a NaN group in
every format (R199). -/
def yGroup (c : QCfg) (rot : Bool) (e0 : Nat) (ws errs : List Val) : GroupIn :=
  if rot then
    if ws.all Val.isFin then
      .of (List.zipWith vAdd ((rotate c.seed c.rotId (e0 % max 1 c.o.cols) c.rside (ws.map Val.rat)).map Val.ofRat) errs) {}
    else { GroupIn.of (ws.map fun _ => Val.nan) {} with special := some 0xFF }
  else .of (List.zipWith vAdd ws errs) {}

/-! ## The rows that a descriptor updates -/

/-- A row of the whole tensor and the gradient row that belongs to it. -/
structure URow where
  r : Nat
  g : Nat
  /-- the request of a table halts the descriptor -/
  bad : Bool
deriving DecidableEq, Repr

def Inst.idxList (x : Inst) (s : State) : List Nat := (pieces 4 (s.rdx x (x.blk64 9) (4 * x.uCount))).map leNat

/-- Rows in processing order; a request out of range ends the list at the start of its merge window (R349, R433). -/
def State.updRows (s : State) (x : Inst) : List URow :=
  if !x.tableEn then (upto x.uRow0 x.uRows).map fun r => ⟨r, r, false⟩
  else
    let l := (x.idxList s).zipIdx
    let out := l.find? fun p => p.1 != 0xFFFFFFFF && decide (x.table.rows ≤ p.1)
    let l' := match out with | some p => l.take (p.2 / 4096 * 4096) | none => l
    let firsts := (l'.foldl (fun (q : List (Nat × Nat)) p => if p.1 = 0xFFFFFFFF ∨ q.any (fun e => e.1 == p.1) then q else q ++ [p]) [])
    firsts.map (fun p => ⟨p.1, p.2, false⟩) ++ (match out with | some p => [⟨p.1, p.2, true⟩] | none => [])

/-- Address of a master row, and what its Diacritics belong to: tensor ID and index of its first granule's base. -/
def Inst.masterAt (x : Inst) (e : Entry) (s : State) : Nat × Nat :=
  if x.scaleParam then
    let c := mkQCfg (e.qctl / 4 * 4) e (x.blk64 6) x.uTotal (x.uCols * groupOf e.gs) e.fmt e.gs (x.blk 8 0 24) false (s.seed x) x.step
    let o := { c.o with half := e.f 0 28 1 == 1 }
    (o.off 6, o.sideTid 6)
  else if x.tableEn ∧ x.table.kind = 0 then (x.table.base, x.table.tid)
  else (x.pset.w, x.pset.tid)

/-- Plain granules of bytes [b, b + n) of a region. -/
def regionGrans (base tid b n op : Nat) : List Gran :=
  if n = 0 then [] else (upto (b / 1024) ((b + n - 1) / 1024 + 1 - b / 1024)).map fun i => plainGran (base + 1024 * i) (tid % 2 ^ 24) i op

/-- One row's pass: the piece, the new masters, and the terms of the ratio sums. -/
structure URes where
  chunk : Chunk
  w : List Val
  sd : List Val
  sw : List Val
deriving DecidableEq, Repr

/-- A row of encoded groups of a moment or error region, from element `e0`; the row that ends the region also writes its zero
padding (R155). -/
def OSet.rowOuts (o : OSet) (e0 : Nat) (gs : List GroupOut) : List Out :=
  let b := gs.flatMap fun q => q.codes.map (BitVec.ofNat 8)
  let tail := if e0 + b.length = o.dataLen then List.replicate (up1k o.dataLen - o.dataLen) 0#8 else []
  outAt (o.off 0 + e0) (b ++ tail) ++ outAt (o.off 1 + 2 * (e0 / o.g)) (gs.flatMap fun q => leBytes 2 q.sw)

def signedByte (b : Byte) : Int := signed 8 b.toNat

/-- The optimiser step of a row. -/
def State.updOne (s : State) (x : Inst) (e : Entry) (p : PSet) (vq : Option (List Val)) (u : URow) : URes :=
  let n := x.uCols
  let g := x.momG
  let e0 := u.r * n
  let ma := x.masterAt e s
  let gFmt := x.blk 5 24 4
  let gCodes := unpackElems BF16 n (s.rdx x (x.blk64 3 + 2 * n * u.g) (2 * n))
  let wCodes := unpackElems BF16 n (s.rdx x (ma.1 + 2 * e0) (2 * n))
  let us := (s.rdx x (p.urem + e0) n).map signedByte
  let ms := s.readElems x p.m Side.nil e0 n
  let two := (x.opt = 1 ∨ x.opt = 2) ∧ !x.factored
  let vs := if two then s.readElems x p.v Side.nil e0 n else .of [] {}
  let rm : Rnd := ⟨true, s.seed x, p.m.tid, x.step⟩
  let rv : Rnd := ⟨true, s.seed x, p.v.tid, x.step⟩
  let ws := wCodes.map bfVal
  let r := updRow x.hyper g rm rv e0 ws us ms.vals vs.vals (gCodes.map (decode gFmt 0)) vq
  let mu := p.m.elemUse e0 n 3
  let vu := if two then p.v.elemUse e0 n 4 else ([], [])
  let outs := outAt (ma.1 + 2 * e0) (r.els.flatMap fun q => leBytes 2 q.code) ++ outAt (p.urem + e0) (r.els.map fun q => BitVec.ofNat 8 (unsigned 8 q.urem)) ++
    p.m.rowOuts e0 r.m ++ (if two then p.v.rowOuts e0 r.v else [])
  let wg := if x.tableEn ∧ x.table.kind = 0 then x.table.rowGrans none u.r 1 else regionGrans ma.1 ma.2 (2 * e0) (2 * n) 1
  { chunk :=
      { need := regionGrans (x.blk64 3) (x.blk 5 0 24) (2 * n * u.g) (2 * n) 0 ++ wg ++ regionGrans p.urem (p.tid + 1) e0 n 2 ++ mu.1 ++ vu.1,
        use := [(x.blk64 3 + 2 * n * u.g, 2 * n), (ma.1 + 2 * e0, 2 * n), (p.urem + e0, n)] ++ mu.2 ++ vu.2,
        outs := outs,
        ren := wg ++ regionGrans p.urem (p.tid + 1) e0 n 0 ++ p.m.dataGrans e0 n 0 ++ (if two then p.v.dataGrans e0 n 0 else []),
        cnt := (((sumCnt (r.els.map ElemUpd.cnt)).add (sumCnt (r.m.map GroupOut.cnt))).add (sumCnt (r.v.map GroupOut.cnt))).add
          { flush := ms.cnt.flush + vs.cnt.flush + (gCodes.filter (isSubnormal gFmt)).length + (wCodes.filter (isSubnormal BF16)).length },
        bad := if u.bad then some (0xF, 0) else none },
    w := r.els.map ElemUpd.w, sd := r.els.map ElemUpd.delta, sw := ws }

/-- A row of WQ_ONLY: masters as they stand (R437). -/
def State.wqRow (s : State) (x : Inst) (e : Entry) (u : URow) : URes :=
  let n := x.uCols
  let ma := x.masterAt e s
  let codes := unpackElems BF16 n (s.rdx x (ma.1 + 2 * u.r * n) (2 * n))
  let wg := if x.tableEn ∧ x.table.kind = 0 then x.table.rowGrans none u.r 1 else regionGrans ma.1 ma.2 (2 * u.r * n) (2 * n) 1
  { chunk := { need := wg, use := [(ma.1 + 2 * u.r * n, 2 * n)], outs := [], ren := [], cnt := { flush := (codes.filter (isSubnormal BF16)).length },
               bad := if u.bad then some (0xF, 0) else none },
    w := codes.map bfVal, sd := [], sw := codes.map bfVal }

/-! ## FACTORED (R426) -/

/-- First pass: FR′ and FC′ codes, μ, and the counts of rounding the factors (R161). -/
def State.factors (s : State) (x : Inst) (e : Entry) (p : PSet) : (List Nat × List Nat × Val) × Counters :=
  let n := x.uCols
  let h := x.hyper
  let ma := x.masterAt e s
  let rows := (List.range x.uTotal).map fun r =>
    let gs := (unpackElems BF16 n (s.rdx x (x.blk64 3 + 2 * n * r) (2 * n))).map (decode (x.blk 5 24 4) 0)
    let ws := (unpackElems BF16 n (s.rdx x (ma.1 + 2 * n * r) (2 * n))).map bfVal
    (List.zipWith (gradOf h) ws gs).map fun g => vMul g g
  let fr := (unpackElems BF16 x.uTotal (s.rdx x p.fr (2 * x.uTotal))).map bfVal
  let fc := (unpackElems BF16 n (s.rdx x p.fc (2 * n))).map bfVal
  let nxt := fun (old : Val) (l : List Val) => rnbfC (.val (vAdd (vMul (vSub vOne h.omb2) old)
    (vMul h.omb2 (vDiv (rn20V (reduce l).toVal) (vCount l.length))))) none
  let fr' := List.zipWith nxt fr rows
  let fc' := (fc.zipIdx).map fun q => nxt q.1 (rows.map fun r => r.getD q.2 .zero)
  ((fr'.map Prod.fst, fc'.map Prod.fst, rn20V (vDiv (reduce (fr'.map fun c => bfVal c.1)).toVal (vCount x.uTotal))),
    sumCnt ((fr' ++ fc').map Prod.snd))

def factoredV (f : List Nat × List Nat × Val) (r : Nat) : List Val :=
  f.2.1.map fun c => if f.2.2.isZero then .zero else rn20V (vDiv (vMul (bfVal (f.1.getD r 0)) (bfVal c)) f.2.2)

/-! ## The whole descriptor -/

/-- How Wq is quantised. The rotation acts on the masters alone, before QERR is added (R428), so it is no stage of this. -/
def State.wqCfg (s : State) (x : Inst) (e : Entry) : QCfg :=
  let c := mkQCfg (x.wqCtl e) e (x.blk64 6) x.uTotal x.uCols e.fmt e.gs (x.blk 8 0 24) false (s.seed x) x.step
  { c with o := { c.o with half := e.f 0 28 1 == 1 } }

/-- How WQT is quantised: the transposed set, dense (R431). -/
def State.wqtCfg (s : State) (x : Inst) (e : Entry) : QCfg :=
  mkQCfg (x.wqCtl e) e (x.f 14 0 32 + 2 ^ 32 * x.f 15 0 32) x.uCols x.uTotal e.fmt e.gs (x.blk 15 0 24) false (s.seed x) x.step

/-- y by group of the weight (first element, elements), and the counts of reading QERR (R428). -/
def State.wqInputs (s : State) (x : Inst) (c : QCfg) (p : PSet) (ws : List (Nat × List Val)) : List (Nat × GroupIn) × Counters :=
  let step := if c.o.scaled then c.o.g else x.uCols
  let l := ws.flatMap fun r => ((pieces step r.2).zipIdx).map fun q =>
    let e0 := r.1 * x.uCols + step * q.2
    let err := if x.qerrEn then s.readElems x p.qerr Side.nil e0 q.1.length else .of (List.replicate q.1.length .zero) {}
    (e0, yGroup c (c.rot && c.o.scaled) e0 q.1 err.vals, err.cnt)
  (l.map fun y => (y.1, y.2.1), sumCnt (l.map fun y => y.2.2))

/-- The elements that 2:4 keeps, the others zero (R430). -/
def masked24 (y : List Val) : List Val :=
  (pieces 4 y).flatMap fun b => (b.zipIdx).map fun v => if (keep24 b).contains v.2 then v.1 else .zero

/-- QERR′ of the rows: what the stored weights miss of y (R429). -/
def State.qerrOuts (x : Inst) (p : PSet) (ys : List (Nat × GroupIn)) (deq : List (Nat × List Val)) (step : Nat) (rows : List Nat) :
    List Out × List Gran × Counters :=
  let n := x.uCols
  let d := ys.flatMap fun y => match deq.find? fun q => q.1 == y.1 / step with
    | some q => [(y.1, List.zipWith vSub y.2.vals q.2)]
    | none => []
  let es := rows.map fun r => (r * n, encodeMom E4M3 x.momG ((d.filter fun y => y.1 / n == r).flatMap Prod.snd) ⟨false, 0, 0, 0⟩ (r * n))
  (es.flatMap fun r => p.qerr.rowOuts r.1 r.2, es.flatMap fun r => p.qerr.dataGrans r.1 n 0, sumCnt (es.flatMap fun r => r.2.map GroupOut.cnt))

/-- Wq of the rows `ws` (row, values) with QERR, 2:4 metadata and initial LSCALE masters (R428 to R430, R419). -/
def State.wqMain (s : State) (x : Inst) (e : Entry) (p : PSet) (ws : List (Nat × List Val)) (init : Bool) : WqOut :=
  let sp := e.f 0 28 1 == 1
  let n := x.uCols
  let c := s.wqCfg x e
  let o := c.o
  let g := o.g
  let step := if o.scaled then g else n
  let (ys, qcnt) := s.wqInputs x c p ws
  let init := init && o.scaled && o.lscale
  let yAt := fun gi => ys.find? fun y => y.1 == gi * g
  let masked := fun (r : GroupIn) => if sp then { r with vals := masked24 r.vals } else r
  let sel := fun gi (cs : List Nat) => if sp then
      match yAt gi with
      | some y => (List.zip (pieces 4 cs) (pieces 4 y.2.vals)).flatMap fun b => (keep24 b.2).map fun k => b.1.getD k 0
      | none => cs
    else cs
  let cur := fun gi => match yAt gi with
    | some y => (match currentPick o.fmt c.pow2 (masked y.2).vals 0 with | .word sw => (to16 BF16 (.fin false (scaleOf sw)) none).1 | .const sw _ => (to16 BF16 (.fin false (scaleOf sw)) none).1 | .above => 0x7F80)
    | none => 0
  let wq : WqOut := if o.scaled then
      s.wqSlices x { c with rot := false } (ws.map Prod.fst) ⟨fun gi => (yAt gi).map fun y => masked y.2, sel,
        if init then cur else fun gi => if o.lscale then leNat (s.rdx x (o.off 6 + 2 * gi) 2) else 0⟩ init
    else
      let cs := ys.map fun y => (y.1, y.2.vals.map fun v => to16 o.fmt v none)
      let tail := fun e0 => if e0 + n = x.uTotal * n then List.replicate (up1k o.dataLen - o.dataLen) 0#8 else []
      ⟨[], cs.flatMap fun y => outAt (x.blk64 6 + 2 * y.1) ((y.2.flatMap fun v => leBytes 2 v.1) ++ tail y.1), cs.flatMap fun y => o.dataGrans (2 * y.1) (2 * y.2.length) 0,
        sumCnt (cs.flatMap fun y => y.2.map Prod.snd), cs.map fun y => (y.1 / step, y.2.map fun v => decode o.fmt 0 v.1)⟩
  let lsc : List Out × List Gran := if init then
      (ys.flatMap fun y => outAt (o.off 6 + 2 * (y.1 / g)) (leBytes 2 (cur (y.1 / g))), ys.flatMap fun y => o.sideGrans 6 (2 * (y.1 / g)) 2 0) else ([], [])
  let qe := if x.qerrEn then State.qerrOuts x p ys wq.deq step (ws.map Prod.fst) else ([], [], {})
  let meta_ : List Out × List Gran := if sp then
      let bs := ys.map fun y => (y.1 / 4, (pieces 4 y.2.vals).map fun b => let k := keep24 b; k.getD 0 0 + 4 * k.getD 1 1)
      (bs.flatMap fun b => outAt (o.end_ + b.1 / 2) (packElems INT4 b.2), bs.flatMap fun b => regionGrans o.end_ (setBits (x.blk 8 0 24) 21 3 6) (b.1 / 2) (b.2.length / 2) 0) else ([], [])
  ⟨wq.prep, lsc.1 ++ wq.outs ++ qe.1 ++ meta_.1, lsc.2 ++ wq.ren ++ qe.2.1 ++ meta_.2, (wq.cnt.add qe.2.2).add qcnt, []⟩

/-- WQT of the rows `ws` (R431). -/
def State.wqTrans (s : State) (x : Inst) (e : Entry) (ws : List (Nat × List Val)) : WqOut :=
  let t := s.wqtCfg x e
  let g := t.o.g
  let now := fun gi =>
    let row := gi / max 1 t.o.ng
    let c1 := gi % max 1 t.o.ng * g
    if x.uRow0 ≤ c1 ∧ c1 < x.uRow0 + x.uRows then
      some (GroupIn.of ((ws.filter fun r => decide (c1 ≤ r.1 ∧ r.1 < c1 + g)).map fun r => r.2.getD row .zero) {})
    else none
  s.wqSlices x t (List.range x.uCols) ⟨now, fun _ cs => cs, fun gi => if t.o.lscale then leNat (s.rdx x (t.o.off 6 + 2 * gi) 2) else 0⟩ false

/-- Weight quantisation of the rows `ws` (row, values): Wq, QERR, metadata, WQT; `init`: LSCALE takes CURRENT scales
first (R419). -/
def State.wqAll (s : State) (x : Inst) (e : Entry) (p : PSet) (ws : List (Nat × List Val)) (init : Bool) : WqOut :=
  let m := s.wqMain x e p ws init
  let t := if e.f 0 29 1 == 1 ∧ fmtScaled e.fmt then s.wqTrans x e ws else WqOut.nil
  ⟨m.prep ++ t.prep, m.outs ++ t.outs, m.ren ++ t.ren, m.cnt.add t.cnt, []⟩

/-- Table rows of kinds 1 and 2: one group each (R434). -/
def State.tableRow (s : State) (x : Inst) (p : PSet) (r : Nat) (w : List Val) : Chunk :=
  let t := x.table
  let n := x.uCols
  let e0 := r * n
  let err := if x.qerrEn then s.readElems x p.qerr Side.nil e0 n else .of [] {}
  let y := if x.qerrEn then List.zipWith vAdd w err.vals else w
  let a := encodeCurrent t.fmt false y ⟨false, 0, 0, 0⟩ e0 0
  let q := if x.qerrEn then encodeMom E4M3 x.momG (List.zipWith vSub y (decodeGroup t.fmt a.sw a.codes)) ⟨false, 0, 0, 0⟩ e0 else []
  { Chunk.empty with
    outs := outAt (t.rowAt none r) (packElems t.fmt a.codes) ++ outAt (t.scaleAt none r) (leBytes 2 a.sw) ++
      (if x.qerrEn then p.qerr.rowOuts e0 q else []),
    ren := t.rowGrans none r 0 ++ (if x.qerrEn then p.qerr.dataGrans e0 n 0 else []),
    cnt := (err.cnt.add a.cnt).add (sumCnt (q.map GroupOut.cnt)) }

/-- SD and SW of a finished UPDATE with WQ_EN or another OPT than WQ_ONLY; a non-finite term leaves it out (R442, R443). -/
def State.addRatio (s : State) (x : Inst) (sd sw : List Val) : State :=
  let a := reduce (sd.map fun v => vMul v v)
  let b := reduce (sw.map fun v => vMul v v)
  if (bit (x.w 6) 15 || !x.wqOnly) && a.sp == .fin && b.sp == .fin then
    s.modCtx x.ctx fun c => { c with ratios := c.ratios ++ [⟨x.blk 2 0 24, x.uRow0, x.queue - 0x80, x.uLg, a.v, b.v⟩] }
  else s

/-- The work of an UPDATE, with the terms of its ratio sums. -/
def State.updWork (s : State) (x : Inst) (e : Entry) (rows : List URow) (init : Bool) : Work × List Val × List Val :=
  let p := x.pset
  let fac := if x.factored && !x.wqOnly then some (s.factors x e p) else none
  let rs := rows.map fun u => (u, if x.wqOnly then s.wqRow x e u else s.updOne x e p (fac.map fun f => factoredV f.1 u.r) u)
  let n := x.uCols
  let facChunk : List Chunk := match fac with
    | none => []
    | some f =>
      [{ need := regionGrans (x.blk64 3) (x.blk 5 0 24) 0 (2 * n * x.uTotal) 0 ++ regionGrans p.fr (p.tid + 3) 0 (2 * x.uTotal) 4 ++ regionGrans p.fc (p.tid + 4) 0 (2 * n) 5,
         use := [(x.blk64 3, 2 * n * x.uTotal), (p.fr, 2 * x.uTotal), (p.fc, 2 * n)], outs := [], ren := [],
         cnt := { flush := ((unpackElems BF16 x.uTotal (s.rdx x p.fr (2 * x.uTotal))).filter (isSubnormal BF16)).length + ((unpackElems BF16 n (s.rdx x p.fc (2 * n))).filter (isSubnormal BF16)).length },
         bad := none },
       { Chunk.empty with cnt := f.2,
                          outs := outAt p.fr (f.1.1.flatMap (leBytes 2)) ++ outAt p.fc (f.1.2.1.flatMap (leBytes 2)),
                          ren := regionGrans p.fr (p.tid + 3) 0 (2 * x.uTotal) 0 ++ regionGrans p.fc (p.tid + 4) 0 (2 * n) 0 }]
  let qneed := fun (r : Nat) => if x.qerrEn ∧ (x.wqEn ∨ x.tableEn) then (p.qerr.elemUse (r * n) n 6) else ([], [])
  let chunks := rs.map fun r =>
    let c := r.2.chunk
    let qn := qneed r.1.r
    let c := { c with need := c.need ++ qn.1, use := c.use ++ qn.2 }
    if x.tableEn ∧ x.table.kind ≠ 0 ∧ !r.1.bad then
      let t := s.tableRow x p r.1.r r.2.w
      { c with outs := c.outs ++ t.outs, ren := c.ren ++ t.ren, cnt := c.cnt.add t.cnt }
    else c
  let q := if x.wqEn ∧ !x.tableEn then s.wqAll x e p (rs.map fun r => (r.1.r, r.2.w)) init else WqOut.nil
  let post := facChunk.drop 1
  let fin : Chunk := { Chunk.empty with
    outs := post.flatMap Chunk.outs ++ q.outs, ren := post.flatMap Chunk.ren ++ q.ren, cnt := (sumCnt (post.map Chunk.cnt)).add q.cnt }
  let chunks := facChunk.take 1 ++ chunks ++ q.prep
  let reads := chunks.flatMap Chunk.use ++ (if x.tableEn then [(x.blk64 9, 4 * x.uCount)] else [])
  (⟨reads, chunks, fin, x.uLg, 0, 0⟩, rs.flatMap fun r => r.2.sd, rs.flatMap fun r => r.2.sw)

/-- Gradient rows of a descriptor: first, number. -/
def Inst.gradRows (x : Inst) : Nat × Nat := if x.tableEn then (0, x.uCount) else (x.uRow0, x.uRows)

/-- The whole gradient range of a descriptor (R427). -/
def Inst.gradRange (x : Inst) : Nat × Nat := (x.blk64 3 + 2 * x.uCols * x.gradRows.1, 2 * x.uCols * x.gradRows.2)

/-- The weight entry, where the descriptor needs one. -/
def State.updEntry (s : State) (x : Inst) : Except Nat Entry :=
  if x.wqEn || x.scaleParam then s.entry x x.uLg 0 else .ok ⟨[]⟩

/-- GUARD acts: always in basic mode, never in a requantisation. -/
def Inst.guarded (x : Inst) : Bool := (bit (x.w 6) 18 || !x.expert) && !x.wqOnly

/-- Row list and gradients that an UPDATE reads first. -/
def State.updReads (s : State) (x : Inst) : List (Nat × Nat) :=
  (if x.tableEn then [(x.blk64 9, 4 * x.uCount)] else []) ++
  (if x.guarded then [x.gradRange] else if x.wqOnly then [] else (s.updRows x).map fun u => (x.blk64 3 + 2 * x.uCols * u.g, 2 * x.uCols))

/-- Non-finite gradients that a guarded UPDATE finds in its range (R427). -/
def State.updBad (s : State) (x : Inst) : Nat :=
  if x.guarded then
    let n := x.uCols * x.gradRows.2
    (((unpackElems BF16 n (s.rdx x x.gradRange.1 x.gradRange.2)).map (decode (x.blk 5 24 4) 0)).filter fun v => !v.isFin).length
  else 0

/-- The first piece: row list and, when guarded, every gradient. -/
def State.updFirst (s : State) (x : Inst) : Chunk :=
  let gneed := regionGrans (x.blk64 3) (x.blk 5 0 24) (2 * x.uCols * x.gradRows.1) (2 * x.uCols * x.gradRows.2) 0
  let idxNeed := if x.tableEn then regionGrans (x.blk64 9) (setBits (x.blk 5 0 24) 21 3 7) 0 (4 * x.uCount) 7 else []
  { Chunk.empty with
    need := idxNeed ++ (if x.guarded then gneed else []),
    use := if x.guarded then s.updReads x else if x.tableEn then [(x.blk64 9, 4 * x.uCount)] else [] }

/-- The whole work of an UPDATE whose gradients are finite. -/
def State.updWhole (s : State) (x : Inst) (e : Entry) : Work :=
  let w := (s.updWork x e (s.updRows x) false).1
  { w with chunks := s.updFirst x :: w.chunks }

def State.updRun (s : State) (x : Inst) (e : Entry) : State :=
  match s.want x (s.updReads x) with
  | some s' => s'
  | none =>
    if s.updBad x ≠ 0 then
      s.runWork x ⟨s.updReads x, [{ s.updFirst x with cnt := { nan := s.updBad x } }], Chunk.empty, x.uLg, 1, 0⟩
    else
      let w := s.updWork x e (s.updRows x) false
      let s' := s.runWork x (s.updWhole x e)
      match s'.inst? x.id with
      | some y =>
        if y.phase = .done ∧ y.status = 0 then
          let s' := s'.addRatio x w.2.1 w.2.2
          if x.wqEn ∧ !x.tableEn then
            (s'.noteHist x x.uLg w.1.fin (s.wqCfg x e).o).modCtx x.ctx fun c => { c with weights := (c.weights.filter fun d => !(leAt d.2 8 3 == x.blk 2 0 24 && (d.1.getD 11 0#32).toNat == x.w 11)) ++ [(x.words, x.block)] }
          else s'
        else s'
      | none => s'

/-- UPDATE. -/
def State.update (s : State) (i : Nat) : State :=
  match s.started i 8 with
  | none => s
  | some x =>
    match s.withBlock x (x.a64 7) 64 with
    | .error s' => s'
    | .ok (s, x) => match s.updEntry x with
      | .error k => s.endEntry x k [(x.uLg, 0)]
      | .ok e => match s.updBlockBad x e with
        | some k => s.endFormat x k
        | none => s.updRun x e

def execUpdate (i : Nat) (s : State) : Host.Outcome State Fault Refusal := act (.update i) (s.update i)

end Sys2Proof.Machine
end

