-- ==== Sys2Proof/Machine/Fetch.lean ====
section
/-! DEFINITION. Fetching a descriptor and starting its access side (02 R74 to R92, R104 to R114, R842, R844, R854; 09 R454, R455, R461, R482; 13 R670, R673; 16 R796). -/
namespace Sys2Proof.Machine

/-! ## Where a descriptor runs (R455, R369, R384, R438, R848) -/

/-- Clusters that the firmware may choose: those of CLUSTER_MASK in service at the last Full Stop, or at START before the first
(R704, R848); all of the mask when none was. -/
def State.servingClusters (s : State) (x : Inst) : List Nat :=
  let mine := (List.range 32).filter fun c => x.fromPf || s.clusterOk x.ctx c
  match mine.filter fun c => !(s.ctx x.ctx).outAtStop.contains c with
  | [] => mine
  | l => l

/-- The cluster whose SSM holds the operands of a basic GEMM, else the lowest that may serve (log entry 6). -/
def State.basicCluster (s : State) (x : Inst) : Nat :=
  let pick := (s.servingClusters x).headD 0
  let a := x.a64 6
  if x.opcode = 2 ∧ s.isOwn a ∧ s.mayAcc x 0 a 64 then
    let b := s.rdx x a 64
    let ks := if x.epiEn then [0, 3] else [0, 3, 6]
    ((List.range 32).find? fun c => ks.all fun k => s.inSsm c (leAt b (4 * k) 8) 1).getD pick
  else pick

/-- The Lexicon engine of a basic LEXICON. -/
def State.basicLexicon (s : State) (x : Inst) : Nat :=
  ((List.range 8).find? fun e => s.rf (lexOff e 4) 12 1 == 1 && s.rf (lexOff e 4) 8 4 == x.ctx).getD (x.lexTable % 8)

/-- Queue number of a descriptor. -/
def State.queueOf (s : State) (x : Inst) : Nat :=
  match x.opcode with
  | 1 => 0xA8 + x.f 6 8 6
  | 2 => 0x20 + (if x.expert then x.f 12 0 5 else s.basicCluster x)
  | 3 => 0x40 + x.vCluster
  | 4 => 0x60 + (if x.expert then x.f 15 24 5 else s.basicCluster x)
  | 5 => 0x90 + (if x.expert then x.f 6 4 3 else s.basicLexicon x)
  | 6 => 0x98 + x.f 6 2 2
  | 7 => 0x9C + x.f 6 0 2
  | 8 => 0x80 + x.f 6 4 4
  | 9 => if x.rOp = 0 ∨ x.rOp = 2 then 0xED else 0xEE
  | 10 => 0xA0 + x.f 6 0 3
  | 11 => x.f 6 4 8
  | _ => 0xEC

/-- Clusters that a descriptor names: of its queue, of a SCAN, of the rings of a MOVE. -/
def Inst.clusters (x : Inst) : List Nat :=
  match x.opcode with
  | 1 => (if x.srcRing then [x.f 7 0 5] else []) ++ (if x.dstRing then [x.f 9 0 5] else [])
  | 2 => [x.queue - 0x20]
  | 3 => [x.vCluster]
  | 4 => [x.queue - 0x60]
  | 7 => [x.scanCluster]
  | _ => []

/-! ## Checks at fetch (R79 to R81, R88, R114, R461, R796, R854) -/

def Inst.badStep (x : Inst) : List (Bool × Nat) := x.resv 7 (List.replicate 9 full)

def Inst.recOp (x : Inst) : Nat := x.f 6 0 4

def Inst.badRecover (x : Inst) : List (Bool × Nat) :=
  x.resv 6 ([0xFFFFFFF0, 0, 0xFFFFF, 0, 0, 0] ++ List.replicate 4 full) ++ [(decide (3 < x.recOp), 6)]

/-- Format cases of the body's own words. -/
def State.badBody (s : State) (x : Inst) : List (Bool × Nat) :=
  match x.opcode with
  | 1 => s.badMove x
  | 2 => x.badGemm
  | 3 => x.badVstream
  | 4 => s.badQuant x (if x.expert then some (x.f 15 0 22) else none)
  | 5 => x.badLexicon
  | 6 => x.badDispatch
  | 7 => x.badScan
  | 8 => x.badUpdate
  | 9 => s.badReduce x
  | 10 => x.badTopk
  | 11 => s.badSemDesc x
  | 12 => x.badFence
  | 13 => x.badStep
  | 14 => x.badPlan
  | 15 => x.badDump
  | 16 => x.badRecover
  | _ => []

/-- Ranges that the descriptor's own words give whole: whether written, address, length. -/
def Inst.ownRanges (x : Inst) : List (Nat × Nat × Nat) :=
  match x.opcode with
  | 1 => if x.moveKind ≠ 0 then [] else
      (if x.srcRing then [] else [(0, x.a64 7, if x.dstRing then 0 else x.w 11)]) ++
      (if x.dstRing then [] else [(1, x.a64 9, if x.srcRing then 0 else x.w 11)])
  | 2 => [(0, x.a64 6, 64)]
  | 3 => [(0, x.a64 7, x.progLen)]
  | 6 => [(0, x.a64 7, 64)]
  | 7 => [(0, x.a64 7, 192)]
  | 8 => [(0, x.a64 7, 64)]
  | 9 => [(0, x.a64 10, 64)]
  | 11 => if x.sop = 5 ∧ x.a64 10 ≠ 0 then [(1, x.a64 10, 4)] else []
  | 14 => [(0, x.a64 6, 64 * x.f 8 0 9)]
  | 15 => [(1, x.a64 7, x.w 9)]
  | _ => []

/-- The operand block, program or plan object of a descriptor: 64-bit address and bytes. -/
def Inst.blockAt (x : Inst) : Option (Nat × Nat) :=
  match x.opcode with
  | 2 => some (x.a64 6, 64)
  | 3 => some (x.a64 7, x.progLen)
  | 6 => some (x.a64 7, 64)
  | 7 => some (x.a64 7, 192)
  | 8 => some (x.a64 7, 64)
  | 9 => some (x.a64 10, 64)
  | 10 => some (x.a64 7, 64)
  | 14 => some (x.a64 6, 64 * x.f 8 0 9)
  | _ => none

/-- The descriptor with its block, when this device can read it at once: it is read when the descriptor is fetched
(R79, R303). One that lies on another device, is refused, poisoned or out of reach is left to the access side. -/
def State.withFetched (s : State) (x : Inst) : Inst :=
  match x.blockAt with
  | some (a, n) =>
    if s.isOwn a ∧ s.mayAcc x 0 a n ∧ (!isHost (locOf a) ∨ s.hostUp) ∧ !s.poisonx x a n then { x with block := s.rdx x a n } else x
  | none => x

/-- The format fault of a descriptor's operand block, program or plan object, where it is at hand, or of a QUANT against its
recipe entries; the recipe version is the one in force (R79; log entry 7). -/
def State.blockJudge (s : State) (x : Inst) : Option Nat :=
  let x := { x with epoch := s.epoch x.ctx }
  let here := match x.blockAt with | some (_, n) => x.block.length == n | none => true
  if !here then none
  else match x.opcode with
  | 2 => match s.gemmJudge x with | .error (8, k) => some k | _ => none
  | 3 => s.progBad x x.prog x.epilogue (!x.expert) false
  | 4 => match s.quantJudge x with | .error (8, k, _) => some k | _ => none
  | 6 => x.dBlockBad
  | 7 => x.scanBad
  | 8 => match s.updEntry x with | .ok e => s.updBlockBad x e | .error _ => none
  | 9 => x.redBlockBad
  | 10 => x.topkBlockBad.map (16 + ·)
  | 14 => ((pieces 64 x.block).map toWords).findIdx? fun ws => wd ws 0 % 256 == 0x0E
  | _ => none

/-- A local bank named by the header is not the job's. -/
def State.badBank (s : State) (x : Inst) : Bool :=
  (x.waitMode != 0 && !s.semOwned x.waitUnit x.waitIndex x.job) ||
  (x.sigOn && x.sigDev == s.devId && !s.semOwned x.sigUnit x.sigIndex x.job)

/-- The first failing check: status, DETAIL, and the address or offset that a violation record names. A descriptor from
function 0's rings is not held to CLUSTER_MASK: R796 exempts it from windows and names no other exemption, and R848 names none
(DESIGN CHOICE, log entry 73). -/
def State.fetchCheck (s : State) (x : Inst) : Option (Nat × Nat × Option Nat) :=
  if s.jobState x.ctx = 0 ∨ x.job ≠ s.jobId x.ctx then some (0xF, 0, none)
  else if x.opcode = 0x10 ∧ !x.fromPf then some (0xF, 0, none)
  else if x.expert ∧ !s.expertEn x.ctx then some (0xF, 0, some (ctxOff x.ctx 8))
  else match worst (s.badHeader x ++ s.badBody x ++ [((s.blockJudge x).isSome, (s.blockJudge x).getD 0)]) with
  | some k => some (8, k, none)
  | none =>
    if x.sigOn ∧ !s.isMember x.ctx x.sigDev then some (0xF, 0, none)
    else if s.badBank x then some (0xF, 0, none)
    else match x.clusters.find? fun c => !x.fromPf && !s.clusterOk x.ctx c with
    | some _ => some (0xF, 0, none)
    | none =>
      match x.ownRanges.find? fun r => !s.mayAcc x r.1 r.2.1 r.2.2 with
      | some r => some (0xF, 0, if x.fromPf || !s.isOwn r.2.1 then none else some r.2.1)
      | none =>
        if x.opcode = 0xF ∧ bit (x.w 6) 0 ∧ !x.fromPf then some (0xF, 0, none)
        else if x.opcode = 0x10 ∧ x.recOp = 3 ∧ x.sq < 1024 then some (0xF, 0, none)
        else none

/-- A basic descriptor with an expansion carries CHECK_DIAC (R234); a SEM has none (R468). -/
def basicWords (ws : List Word) : List Word :=
  let op := wd ws 0 % 256
  if 1 ≤ op ∧ op ≤ 10 ∧ !bit (wd ws 0) 11 then modNth (fun w => setFld w 13 1 1) 0 ws else ws

/-- The handle is held by an accepted instance; one is queued behind it. -/
def State.handleHeld (s : State) (n h : Nat) : Bool := s.insts.any fun y => y.phase != .rearm && y.ctx == n && y.handle == some h
def State.rearmQueued (s : State) (n h : Nat) : Bool := s.insts.any fun y => y.phase == .rearm && y.ctx == n && y.handle == some h

/-- The descriptor is over before it executes (R91). -/
def State.turnAway (s : State) (x : Inst) (status detail : Nat) : State :=
  s.addInst { x with phase := .done, queue := noQueue, status := status, detail := detail, startTs := s.clock.fab, endTs := s.clock.fab }

/-- A descriptor is checked and accepted into its lane (R82, R86, R107 to R112, R507). -/
def State.takeIn (s : State) (x : Inst) : State :=
  let x := { x with words := basicWords x.words }
  let x := s.withFetched x
  let x := { x with queue := s.queueOf x }
  match s.fetchCheck x with
  | some (st, d, v) =>
    let s := s.turnAway x st d
    match v with | some a => s.logViolation x.ctx a | none => s
  | none =>
    match x.handle with
    | some h =>
      if s.rearmQueued x.ctx h then s.turnAway x 2 0
      else if s.handleHeld x.ctx h then
        (if bit (x.w 0) 12 then s.addInst { x with phase := .rearm } else s.turnAway x 2 0)
      else s.addInst x
    | none => s.addInst x

/-! ## DESCRIPTOR_FETCH (R74, R101, R844) -/

/-- The ring may be fetched: a live context, entries beyond SQ_HEAD, a CQ entry to reserve. In RECOVERY only rings that
function 0 drives are fetched (log entry 22). -/
def State.fetchable (s : State) (g : Nat) : Bool :=
  s.ready && (s.jobState (g / 64) == 2 || (s.jobState (g / 64) == 4 && s.host.sqPf.contains g)) && s.sqEnabled g &&
  s.rf (sqOff g 0x14) 1 1 == 0 && s.sqHead g != s.sqTail g && s.cqEnabled (s.cqOf g) &&
  decide (s.cqInUse (s.cqOf g) + 1 < s.cqSize (s.cqOf g))

/-- Host address of an entry of a ring. -/
def State.sqEntry (s : State) (g k : Nat) : Nat := hostLocal (s.pairReg (sqOff g 0) (sqOff g 4) + 64 * k)

/-- Fetch the entry at SQ_HEAD. -/
def State.fetch (s : State) (g : Nat) (readOk : Bool) : State :=
  if !s.fetchable g then s
  else if !readOk || !s.hostUp then s.setF (sqOff g 0x14) 1 1 1
  else
    let ws := toWords (memRead s.mem (s.sqEntry g (s.sqHead g)) 64)
    let cq := s.cqOf g
    let x := Inst.fresh 0 g (g / 64) cq (s.host.sqPf.contains g) ws
    let s := s.setF (sqOff g 0xC) 0 16 ((s.sqHead g + 1) % s.sqSize g)
    (s.putCq { s.cqs cq with reserved := (s.cqs cq).reserved + 1 }).takeIn x

/-- DESCRIPTOR_FETCH. -/
def execDescriptorFetch (sq : Nat) (readOk : Bool) (s : State) : Host.Outcome State Fault Refusal :=
  act (.descriptorFetch sq readOk) (s.fetch sq readOk)

/-! ## DESCRIPTOR_ACCESS_START (R36, R37, R82, R89, R104 to R106, R454) -/

/-- A rejection at the head of the lane. -/
def State.reject (s : State) (x : Inst) (status detail : Nat) : State :=
  (s.modInst x.id fun y => { y with startTs := s.clock.fab }).endInst x status detail {}

def Phase.begun (p : Phase) : Bool := p == .started || p == .done

/-- Descriptors of the lane before `x`, its own PLAN left out. -/
def State.ahead (s : State) (x : Inst) : List Inst := (s.earlierInLane x).filter fun y => some y.id != x.parent

/-- Every earlier descriptor of the same SQ has completed; a PLAN's record waits for earlier records and for what was
fetched before its PLAN. -/
def State.sqClear (s : State) (x : Inst) : Bool :=
  match x.parent with
  | none => !s.insts.any fun y => y.sq == x.sq && decide (y.id < x.id)
  | some p => !s.insts.any fun y => y.sq == x.sq && y.id != p && (decide (y.id < p) || (y.parent == some p && decide (y.recIx < x.recIx)))

/-- FENCE_BEFORE, or the rule of FENCE, is not yet satisfied. -/
def State.fenced (s : State) (x : Inst) : Bool :=
  (bit (x.w 0) 8 && !(s.ahead x).isEmpty) || (x.opcode == 0xC && !s.sqClear x)

/-- Not held by a STEP (R673). -/
def Inst.unheld (x : Inst) : Bool := x.opcode == 0xF || x.opcode == 0x10 || x.opcode == 0xD || (x.opcode == 0xB && x.sop == 5)

/-- The unit that executes a queue is awake (R755, R757). -/
def State.unitAwake (s : State) (q : Nat) : Bool :=
  let u := queueUnit q
  if u < 32 then !s.pow.asleep.contains u && !s.pow.deepDies.contains (u / 16)
  else if u < 34 then !s.pow.deepDies.contains (u - 32) else !s.pow.ioDeep.contains (u - 34)

/-- A RECOVER outside its legal states (R717, R718, R720). -/
def State.recoverState (s : State) (x : Inst) : Bool :=
  let n := x.ctx
  let step := x.w 7
  match x.recOp with
  | 0 => s.jobState n == 4 || s.fsStep n == s.jr n 0x810
  | 1 => decide (s.fsStep n + 2 ≤ step + s.banks n) && decide (step ≤ s.jr n 0x80C)
  | 2 => s.jobState n == 4
  | _ => true

/-- The table slot whose registers the descriptor captures. -/
def Inst.slotOf (x : Inst) : Option Nat :=
  if x.opcode = 5 then some x.lexTable
  else if x.opcode = 8 ∧ x.tableEn then some (x.f 6 9 6) else none

/-- The epilogue instance that a GEMM names has not read its program, so that its shape is not known yet. -/
def State.epiUnread (s : State) (x : Inst) : Bool :=
  x.epiEn && (match s.epiOf x with | some e => e.block.length != e.progLen | none => false)

/-- A GEMM that passes its state check is bound to its epilogue instance from then on (R319). -/
def State.bindEpi (s : State) (x : Inst) : Inst :=
  if x.epiEn then { x with bound := (s.epiOf x).map Inst.id } else x

/-- The state check: status and DETAIL of a descriptor that may not start in the present state. -/
def State.stateCheck (s : State) (x : Inst) : Option (Nat × Nat) :=
  let n := x.ctx
  if s.jobState n = 4 ∧ !(x.opcode = 0xF ∨ x.opcode = 0x10 ∨ (x.opcode = 0xB ∧ x.sop = 5)) then some (1, 0)
  else if x.clusters.any fun c => s.rst.clusterInReset.contains c then some (1, 0)
  else if x.opcode = 0xD ∧ (x.w 6 ≠ s.fsStep n + 1 ∨ s.stepOpen n) then some (1, 0)
  else if x.opcode = 0x10 ∧ !s.recoverState x then some (1, 0)
  else
    let y := match x.slotOf with | some t => { x with slot := s.slotRegs n t } | none => x
    if x.slotOf.isSome ∧ y.table.rows = 0 then some (1, 0)
    else if x.opcode = 5 ∧ x.slotOf.isSome ∧ y.badTable.isSome then some (8, 6)
    else if x.epiEn then
      match s.epiOf x with
      | none => some (1, 0)
      | some e => epiBad x e x.gBlock.2
    else none

/-- The access side starts: the stamp, the step and recipe version of the work, the captured table slot. -/
def State.startAccess (s : State) (i : Nat) : State :=
  match s.inst? i with
  | none => s
  | some x =>
    let slot := match x.slotOf with | some t => s.slotRegs x.ctx t | none => []
    let s := s.setInst { x with
      phase := .started, wait := none, waited := true, lends := false, startTs := s.clock.fab,
      step := s.fsStep x.ctx + 1, epoch := s.epoch x.ctx, slot := slot }
    let s := (s.touch (queueUnit x.queue)).startBackward x
    match x.slotOf with
    | some t => if x.opcode = 8 ∨ x.lexOp = 1 then s.bumpTable x.ctx t else s
    | none => s

/-- The wait of a header. -/
def Inst.headerWait (x : Inst) : Wait := ⟨x.waitUnit, x.waitIndex, x.w 3, x.waitMode == 2⟩

/-- The header WAIT: refused, met, or slept on. -/
def State.headerWait (s : State) (x : Inst) : State :=
  if x.waitMode = 0 then s.startAccess x.id
  else
    let w := x.headerWait
    if !s.semOwned w.unit w.index x.job then s.reject x 0xF 0
    else if w.acquire && s.ringForbids w.unit w.index x.port true then s.reject x 1 0
    else match s.tryWait w with
    | some s' => s'.startAccess x.id
    | none => s.setInst { x with phase := .waiting, wait := some w, sleepAt := s.clock.now, lends := false }

/-- A descriptor at the head of its lane: its fence, the hold of a STEP, the state check, its WAIT. A DUMP does not
wait behind its lane. -/
def State.accessStart (s : State) (i : Nat) : State :=
  match s.inst? i with
  | none => s
  | some x =>
    if x.phase ≠ .queued ∨ !s.unitAwake x.queue then s
    else if x.opcode ≠ 0xF ∧ !(s.ahead x).all (fun y => y.phase.begun) then s
    else if s.fenced x || (s.stepOpen x.ctx && !x.unheld) then
      (if x.sleepAt = 0 then s.setInst { x with sleepAt := s.clock.now } else s)
    else if s.epiUnread x then s
    else match s.stateCheck x with
    | some (st, d) => s.reject x st d
    | none =>
      let y := s.bindEpi x
      (s.setInst y).headerWait y

/-- DESCRIPTOR_ACCESS_START. -/
def execDescriptorAccessStart (i : Nat) (s : State) : Host.Outcome State Fault Refusal :=
  act (.descriptorAccessStart i) (s.accessStart i)

end Sys2Proof.Machine
end

