-- ==== Sys2Proof/Machine/Parity.lean ====
section
/-! DEFINITION. The journal, cross-device parity, and RECOVER: PARITY_INIT, DRAIN, RESTORE, REBUILD (13 R688 to R691, R695 to R702, R708 to R710, R716 to R722). -/
namespace Sys2Proof.Machine

/-! ## Granules of regions -/

def Region.grans (g : Region) : Nat := g.size / 1024

/-- DENSE and JOURNALED regions. -/
def State.stateRegions (s : State) (n : Nat) : List Region := (s.regions n).filter fun g => g.kind ≤ 1

/-- Physical address of a granule's copy for a committed step that memory still holds. -/
def State.granAt (s : State) (n : Nat) (g : Region) (step k : Nat) : Nat :=
  if g.kind = 1 then g.base + 1024 * k else g.bankAddr (step % s.banks n) k

/-- A granule is written in step `t` (R684's text before R685). -/
def State.writtenIn (s : State) (g : Region) (t k : Nat) : Bool :=
  s.tagLast g k == t || (s.tagPrev g k == t && s.tagLast g k == t + 1)

/-- Copy a granule with its Diacritic and its poison. -/
def State.copyGranule (s : State) (src dst : Nat) : State :=
  let bad := (touchedCw src 1024).filter fun c => s.poison.contains c
  let s := (s.wrPhys dst (memRead s.mem src 1024)).setDiacPhys dst (s.diacPhys src)
  { s with poison := bad.foldl (fun l c => insNat (c - src / 64 + dst / 64) l) s.poison }

/-- The fill of a banked region's open bank for step `t` (R686). -/
def State.fillRegion (s : State) (n t : Nat) (g : Region) : State :=
  (List.range g.grans).foldl (fun s k =>
    if s.tagLast g k = t then s else s.copyGranule (g.bankAddr ((t - 1) % s.banks n) k) (g.bankAddr (t % s.banks n) k)) s

/-! ## The journal (R689, R691) -/

structure JnlEntry where
  step : Nat
  region : Nat
  gran : Nat
  diac : Nat
  data : List Byte
deriving DecidableEq, Repr

/-- The entries held, oldest first. -/
def State.journal (s : State) (n : Nat) : List JnlEntry :=
  (List.range (s.jnlUsed n)).map fun j =>
    let b := memRead s.mem (s.jnlAddr n ((s.ctx n).jnlHead + j)) 1040
    ⟨leAt b 0 4, leAt b 4 4 % 32, leAt b 8 4, leAt b 12 4, b.drop 16⟩

/-- Free the oldest entries, those of steps up to `lim`. -/
def State.trimJournal (s : State) (n lim : Nat) : State :=
  let c := ((s.journal n).takeWhile fun e => decide (e.step ≤ lim)).length
  (s.modCtx n fun k => { k with jnlHead := k.jnlHead + c }).setF (ctxOff n 0x82C) 0 24 (s.jnlUsed n - c)

/-- Apply the entries of steps above `f` in reverse order of appending; they leave the journal (R692). -/
def State.undoJournal (s : State) (n f : Nat) : State :=
  let es := s.journal n
  let s := (es.reverse.filter fun e => decide (f < e.step)).foldl (fun s e =>
    let a := (s.region n e.region).base + 1024 * e.gran
    (s.wrPhys a e.data).setDiacPhys a (BitVec.ofNat 32 e.diac)) s
  s.setF (ctxOff n 0x82C) 0 24 (es.filter fun e => decide (e.step ≤ f)).length

/-- Data, Diacritic and poison of a granule as step `t` left it: of a journaled one, its earliest later before-image (R719). -/
def State.granOfStep (s : State) (n : Nat) (g : Region) (t k : Nat) (jnl : List JnlEntry) : List Byte × Word × Bool :=
  let now := s.granAt n g t k
  match if g.kind = 1 then jnl.find? fun e => e.region == g.r && e.gran == k && decide (t < e.step) else none with
  | some e => (e.data, BitVec.ofNat 32 e.diac, false)
  | none => (memRead s.mem now 1024, s.diacPhys now, s.poisonPhys now 1024)

/-- STATE_DIGEST over the DENSE and JOURNALED regions as step `t` left them (R676, R719). -/
def State.stateDigest (s : State) (n t : Nat) : Nat :=
  let jnl := s.journal n
  (s.stateRegions n).foldl (fun a g =>
    (List.range g.grans).foldl (fun a k => (a + (2 ^ 35 * g.r + k + 1) * (s.granOfStep n g t k jnl).2.1.toNat) % mersenne61) a) 0

/-! ## Images, shares and holders (R695 to R697) -/

def State.imgRegions (s : State) (n : Nat) : List Region := (s.regions n).filter Region.img

/-- Bytes of the data part and of the whole image, and of a segment. -/
def State.imgData (s : State) (n : Nat) : Nat := mib * s.rf (ctxOff n 0x834) 0 24
def State.imgSize (s : State) (n : Nat) : Nat := s.imgData n / 1024 * 1028
def State.segSize (s : State) (n : Nat) : Nat := s.imgSize n / s.groupG n

/-- Image offset of each CK_IMG region's first byte. -/
def State.imgPlan (s : State) (n : Nat) : List (Region × Nat) :=
  ((s.imgRegions n).foldl (fun (p : List (Region × Nat) × Nat) g => (p.1 ++ [(g, p.2)], p.2 + g.size)) ([], 0)).1

/-- Ranks of the job, trailing absences cut: M of them in NG groups. -/
def State.jobRanks (s : State) (n : Nat) : List Nat := ((s.ctx n).ranks.reverse.dropWhile fun d => d == 0xFFFF).reverse
def State.rankOf (s : State) (n d : Nat) : Option Nat := (s.jobRanks n).findIdx? fun e => e == d
def State.parityGroups (s : State) (n : Nat) : Nat := (s.jobRanks n).length / s.groupG n

/-- The ranks cannot carry the shares (R697). -/
def State.parityBad (s : State) (n : Nat) : Bool :=
  (s.jobRanks n).length % s.groupG n != 0 || decide (s.parityGroups n < s.shares n + 1)

/-- Base of the PARITY region, the same on every rank. -/
def State.parityBase (s : State) (n : Nat) : Nat :=
  match (s.regions n).find? fun g => g.kind == 2 with | some g => g.base | none => 0

/-- Holder of an image offset of a share of group `grp`, and the address there. -/
def State.holder (s : State) (n grp r off : Nat) : Nat × Nat :=
  let f := off / max 1 (s.segSize n)
  let rank := (grp + 1 + r) % max 1 (s.parityGroups n) * s.groupG n + f
  ((s.jobRanks n).getD rank 0xFFFF, s.parityBase n + r * s.segSize n + off % max 1 (s.segSize n))

/-- A PARITY packet of a line with a coefficient of GF(2^8); coefficient 1 is plain XOR (R559). -/
def parityPkt (dst job a coef : Nat) (line : List Byte) : Packet :=
  redPkt dst job a (redHead 6 false 0 0 0 0 a (if coef = 1 then 0 else coef) (if coef = 1 then 0 else 1)) line

/-- Packets of a delta of this rank: to the P holder by XOR, to the Q holder with coefficient α^m (R698). -/
def State.deltaPkts (s : State) (n : Nat) (l : Nat × List Byte) : List Packet :=
  match s.rankOf n s.devId with
  | none => []
  | some rank =>
    (List.range (s.shares n)).filterMap fun r =>
      let h := s.holder n (rank / s.groupG n) r l.1
      if h.1 = 0xFFFF then none
      else some (parityPkt h.1 (s.jobId n) h.2 (if r = 0 then 1 else gfPow 2 (rank % s.groupG n)) l.2)

/-- The 256-byte lines of one granule of the image, data then its Diacritic-part line. -/
def State.granLines (s : State) (n off : Nat) (data : List Byte) (diac : Word) : List (Nat × List Byte) :=
  let o := s.imgData n + 4 * (off / 1024)
  ((pieces 256 data).zipIdx).map (fun p => (off + 256 * p.2, p.1)) ++
    [(o / 256 * 256, slice (List.replicate (o % 256) 0#8 ++ leBytes 4 diac.toNat) 0 256)]

/-- Lines of the whole image of a committed state. -/
def State.imageLines (s : State) (n t : Nat) : List (Nat × List Byte) :=
  (s.imgPlan n).flatMap fun p => (List.range p.1.grans).flatMap fun k =>
    let a := s.granAt n p.1 t k
    s.granLines n (p.2 + 1024 * k) (memRead s.mem a 1024) (s.diacPhys a)

/-- Deltas of step `t`, taken while its journal entries are held and no later step has written (R698). -/
def State.deltaLines (s : State) (n t : Nat) : List (Nat × List Byte) :=
  let jnl := s.journal n
  (s.imgPlan n).flatMap fun p => ((List.range p.1.grans).filter (s.writtenIn p.1 t)).flatMap fun k =>
    let new := s.granAt n p.1 t k
    let old := if p.1.kind = 1 then
        (match jnl.find? fun e => e.region == p.1.r && e.gran == k && e.step == t with
         | some e => (e.data, BitVec.ofNat 32 e.diac)
         | none => (memRead s.mem new 1024, s.diacPhys new))
      else let a := s.granAt n p.1 (t - 1) k; (memRead s.mem a 1024, s.diacPhys a)
    s.granLines n (p.2 + 1024 * k) (xorBytes (memRead s.mem new 1024) old.1) (s.diacPhys new ^^^ old.2)

/-- Physical ranges that the deltas of step `t` read, new and old, with the granule. -/
def State.deltaReads (s : State) (n t : Nat) : List (Nat × Nat × Nat) :=
  ((s.imgRegions n).flatMap fun g => ((List.range g.grans).filter (s.writtenIn g t)).map fun k => (g, k)).flatMap fun p =>
    (s.granAt n p.1 t p.2, 1024, p.1.base + 1024 * p.2) ::
      (if p.1.kind = 1 then [] else [(s.granAt n p.1 (t - 1) p.2, 1024, p.1.base + 1024 * p.2)])

/-- A granule of step `t`'s deltas that is poisoned, old or new. -/
def State.deltaPoison (s : State) (n t : Nat) : Option Nat :=
  ((s.deltaReads n t).find? fun r => s.poisonPhys r.1 r.2.1).map fun r => r.2.2

/-- Lines kept in a descriptor's block: offset in 8 bytes, 256 bytes of data. -/
def linesBlock (ls : List (Nat × List Byte)) : List Byte := ls.flatMap fun l => leBytes 8 l.1 ++ l.2
def blockLines (bs : List Byte) : List (Nat × List Byte) := (pieces 264 bs).map fun p => (leAt p 0 8, p.drop 8)

/-- The Diacritic verdict of a recovery read. The device holds no tensor ID of a granule, so the verdict of a clean
one is a free value; poison fails it (log entry 45). -/
def State.recoveryCheck (s : State) (poisoned : Bool) : Bool × State :=
  let (v, s) := s.free 1
  (!poisoned && v == 0, s)

/-- Begin sending the deltas of step `t`: a descriptor of the device's own, driven as PARITY_INIT (R698; log entry 46). -/
def State.startDeltas (s : State) (n t : Nat) : State :=
  let bad := s.deltaPoison n t
  let ls := s.deltaLines n t
  let (_, s) := s.notePoison (s.jobId n) ((s.deltaReads n t).map fun r => (r.1, r.2.1))
  let (ok, s) := s.recoveryCheck bad.isSome
  let s := if ok || ls.isEmpty then s else s.modCtx n fun c =>
    { c with deltasFail := true, badGranule := match bad with | some a => a | none => (s.imgRegions n).headD ⟨0, hbmBase, 0, 0, 0, 0, true⟩ |>.base }
  let x := Inst.fresh 0 1024 n 0 true [BitVec.ofNat 32 (0x10 + s.jobId n * 2 ^ 16), 0#32, 0#32, 0#32, 0#32, 0#32, 0#32, BitVec.ofNat 32 t]
  s.addInst { x with phase := .started, queue := noQueue, waited := true, startTs := s.clock.fab, step := t + 1, block := linesBlock ls }

/-! ## RECOVER (R716) -/

/-- A started RECOVER with an operation. -/
def State.recoverOf (s : State) (i op : Nat) : Option Inst := (s.started i 0x10).filter fun x => x.recOp == op

/-- PARITY_INIT: the whole image as deltas; or the deltas of a Full Stop. -/
def State.doParityInit (s : State) (i : Nat) : State :=
  match s.recoverOf i 0 with
  | none => s
  | some x =>
    let n := x.ctx
    if x.sq < 1024 ∧ s.parityBad n then s.endFormat x 6
    else
      let ls := if x.sq = 1024 then blockLines x.block else s.imageLines n (s.fsStep n)
      s.sendRest x (if s.parityBad n then [] else ls.flatMap (s.deltaPkts n)) fun s => s.endInst ((s.inst? i).getD x) 0 0 {}

def execParityInit (i : Nat) (s : State) : Host.Outcome State Fault Refusal := act (.parityInit i) (s.doParityInit i)

/-! ### Drain images (R718 to R720) -/

/-- Regions that REGIONS selects, with their offsets in the image. -/
def State.drained (s : State) (x : Inst) : List (Region × Nat) :=
  (((s.stateRegions x.ctx).filter fun g => bit (x.w 10) g.r).foldl
    (fun (p : List (Region × Nat) × Nat) g => (p.1 ++ [(g, p.2)], p.2 + g.size)) ([], mib)).1

/-- The 4 KiB header. -/
def State.drainHeader (s : State) (x : Inst) : List Byte :=
  padTo 4096 (leBytes 4 1 ++ leBytes 4 x.job ++ leBytes 4 (x.w 7) ++ leBytes 8 (s.stateDigest x.ctx (x.w 7)) ++ leBytes 12 0 ++
    (s.drained x).flatMap fun p => leBytes 4 p.1.r ++ leBytes 4 (p.1.size / mib))

/-- The work of a DRAIN: header, then the granules with their Diacritics. -/
def State.drainWork (s : State) (x : Inst) : Work :=
  let dst := x.a64 8
  let jnl := s.journal x.ctx
  let head := { Chunk.empty with outs := outAt dst (s.drainHeader x) }
  let chunks := (s.drained x).flatMap fun p => (List.range p.1.grans).map fun k =>
    let d := s.granOfStep x.ctx p.1 (x.w 7) k jnl
    let a := dst + p.2 + 1024 * k
    { Chunk.empty with outs := [⟨a, d.1, a / 1024⟩], car := [(a, 0, k, d.2.1)], bad := if d.2.2 then some (9, 0) else none }
  ⟨[], head :: chunks, Chunk.empty, 255, 0, 0⟩

def State.doDrain (s : State) (i : Nat) : State :=
  match s.recoverOf i 1 with
  | none => s
  | some x => s.runWork x (s.drainWork x)

def execDrain (i : Nat) (s : State) : Host.Outcome State Fault Refusal := act (.drain i) (s.doDrain i)

/-- Regions named by the header of a drain image, with their offsets. -/
def imageRegions (hdr : List Byte) : List (Nat × Nat × Nat) :=
  let es := ((List.range 508).map fun k => (leAt hdr (32 + 8 * k) 4, mib * leAt hdr (36 + 8 * k) 4)).takeWhile fun e => e.2 != 0
  (es.foldl (fun (p : List (Nat × Nat × Nat) × Nat) e => (p.1 ++ [(e.1, e.2, p.2)], p.2 + e.2)) ([], mib)).1

/-- Clear the map tags of a context whose LAST exceeds `f` (R692). -/
def State.clearTags (s : State) (n f : Nat) : State :=
  (s.regions n).foldl (fun s g => (List.range g.grans).foldl (fun s k => if f < s.tagLast g k then s.setTags g k 0 0 else s) s) s

/-- Regions of a drain image that a RESTORE takes, each with its range in the image. -/
def State.restoreParts (s : State) (x : Inst) : List (Nat × Nat × Nat) :=
  ((imageRegions (s.rdx x (x.a64 8) 4096)).filter fun e => bit (x.w 10) e.1 && (s.stateRegions x.ctx).any fun g => g.r == e.1).map
    fun e => (e.1, x.a64 8 + e.2.2, min e.2.1 (s.region x.ctx e.1).size)

/-- Granules of an image into bank STEP mod D of their regions; the steps; an empty journal. -/
def State.restoreFrom (s : State) (x : Inst) (parts : List (Nat × Nat × Nat)) : State :=
  let n := x.ctx
  let s := parts.foldl (fun s e =>
    let g := s.region n e.1
    (List.range (e.2.2 / 1024)).foldl (fun s k =>
      let src := e.2.1 + 1024 * k
      let dst := s.granAt n g (x.w 7) k
      (s.wrPhys dst (s.rdx x src 1024)).setDiacPhys dst (s.diacx x src)) s) s
  let w := BitVec.ofNat 32 (x.w 7)
  let s := ((s.setReg (ctxOff n 0x804) w).setReg (ctxOff n 0x808) w).setReg (ctxOff n 0x80C) w
  (s.setF (ctxOff n 0x82C) 0 24 0).clearTags n (x.w 7)

/-- RESTORE: an image's selected regions, once they are at hand. -/
def State.doRestore (s : State) (i : Nat) : State :=
  match s.recoverOf i 2 with
  | none => s
  | some x =>
    let a := x.a64 8
    if !s.mayAcc x 0 a 4096 then s.endDeny x a
    else if s.hostDown [(a, 4096)] then s.endInst x 7 0 {}
    else match s.want x [(a, 4096)] with
    | some s' => s'
    | none =>
      let rs := (s.restoreParts x).map Prod.snd
      if s.poisonx x a 4096 then s.endPoison x [(a, 4096)]
      else if leAt (s.rdx x a 4096) 0 4 ≠ 1 then s.endInst x 8 8 {}
      else match rs.find? fun r => !s.mayAcc x 0 r.1 r.2 with
      | some r => s.endDeny x r.1
      | none =>
        match s.want x rs with
        | some s' => s'
        | none =>
          let poisoned := rs.any fun r => s.poisonx x r.1 r.2
          let parts := s.restoreParts x
          let (ok, s) := s.recoveryCheck poisoned
          if ok then (s.restoreFrom x parts).endInst x 0 0 {}
          else if poisoned then s.endPoison x (rs.filter fun r => s.poisonx x r.1 r.2) else s.endInst x 4 0 {}

def execRestore (i : Nat) (s : State) : Host.Outcome State Fault Refusal := act (.restore i) (s.doRestore i)

/-! ### Rebuild (R702, R709, R710, R722) -/

/-- Coefficient with which each term enters the image of member `a` when members `lost` of the group are lost: that of
survivor `m`, of P and of Q; none where two shares do not suffice (R702). -/
structure Coefs where
  survivor : Nat → Nat
  p : Nat
  q : Nat

def rebuildCoefs (a : Nat) (lost : List Nat) (haveP : Bool) : Option Coefs :=
  let al := gfPow 2
  match lost.filter fun b => b != a with
  | [] => if haveP then some ⟨fun _ => 1, 1, 0⟩
    else let d := gfInv (al a); some ⟨fun m => gfMul d (al m), 0, d⟩
  | [b] => if !haveP then none else let d := gfInv (al a ^^^ al b); some ⟨fun m => gfMul d (al m ^^^ al b), gfMul d (al b), d⟩
  | _ => none

/-- Address on the replacement of an image offset in the data part, laid out as here (log entry 47). -/
def State.imgAddr (s : State) (n off : Nat) : Option Nat :=
  ((s.imgPlan n).find? fun p => decide (p.2 ≤ off) && decide (off < p.2 + p.1.size)).map fun p => p.1.base + (off - p.2)

/-- What this rank sends the replacement: its image's terms for a lost member of its group, the segments of shares that
it holds, and its terms of the shares that the lost rank held. -/
def State.rebuildPkts (s : State) (n lostRank target : Nat) : List Packet :=
  match s.rankOf n s.devId with
  | none => []
  | some me =>
    let g := s.groupG n
    let job := s.jobId n
    let grp := lostRank / g
    let a := lostRank % g
    let gone := fun rank => (s.jobRanks n).getD rank 0xFFFF == 0xFFFF || rank == lostRank
    let lost := (List.range g).filter fun m => gone (grp * g + m)
    let img := s.imageLines n (s.psStep n)
    let seg := s.segSize n
    let holds := fun r => (grp + 1 + r) % max 1 (s.parityGroups n)
    let pHere := fun f => !gone (holds 0 * g + f)
    let own := if me / g ≠ grp then [] else img.filterMap fun l =>
      match rebuildCoefs a lost (pHere (l.1 / max 1 seg)), s.imgAddr n l.1 with
      | some c, some ad => some (parityPkt target job ad (c.survivor (me % g)) l.2)
      | _, _ => none
    let held := (List.range (s.shares n)).flatMap fun r =>
      if holds r ≠ me / g then []
      else (List.range (seg / 256)).filterMap fun j =>
        let off := me % g * seg + 256 * j
        match rebuildCoefs a lost (pHere (me % g)), s.imgAddr n off with
        | some c, some ad =>
          let k := if r = 0 then c.p else c.q
          if k = 0 then none else some (parityPkt target job ad k (s.rd (some n) (s.parityBase n + r * seg + 256 * j) 256))
        | _, _ => none
    let shares := (List.range (s.shares n)).flatMap fun r =>
      if (me / g + 1 + r) % max 1 (s.parityGroups n) ≠ grp then []
      else (img.filter fun l => l.1 / max 1 seg == a).map fun l =>
        parityPkt target job (s.parityBase n + r * seg + l.1 % max 1 seg) (if r = 0 then 1 else gfPow 2 (me % g)) l.2
    own ++ held ++ shares

/-- The replacement zeroes its base bank and PARITY region. -/
def State.zeroBanks (s : State) (n : Nat) : State :=
  ((s.imgRegions n) ++ (s.regions n).filter fun g => g.kind == 2).foldl (fun s g =>
    let a := s.granAt n g (s.psStep n) 0
    { s with
      mem := memClear s.mem a (a + g.size), diacs := memClear s.diacs (4 * (a / 1024)) (4 * ((a + g.size) / 1024)),
      poison := s.poison.filter fun c => decide (c < a / 64) || decide ((a + g.size) / 64 ≤ c) }) s

/-- REBUILD of a lost device onto TARGET: survivors and holders send; TARGET zeroes its regions and, once data is in,
checks it and reports with REJOIN. -/
def State.doRebuild (s : State) (i : Nat) : State :=
  match s.recoverOf i 3 with
  | none => s
  | some x =>
    let n := x.ctx
    if x.f 11 16 16 = s.devId then
      (if x.stage = 0 then (s.zeroBanks n).modInst i fun y => { y with stage := 1 }
       else
         let (poisoned, s) := s.notePoison (s.jobId n) ((s.imgRegions n).map fun g => (s.granAt n g (s.psStep n) 0, g.size))
         let (ok, s) := s.recoveryCheck poisoned
         let s := s.sendCtrl s.managerId 0x28 [s.jobId n, s.fsStep n, if ok then 1 else 0]
         s.endInst x (if ok then 0 else if poisoned then 9 else 4) 0 {})
    else s.sendRest x (s.rebuildPkts n (x.slot.headD 0) (x.f 11 16 16)) fun s => s.endInst ((s.inst? i).getD x) 0 0 {}

def execRebuild (i : Nat) (s : State) : Host.Outcome State Fault Refusal := act (.rebuild i) (s.doRebuild i)

end Sys2Proof.Machine
end

