-- ==== Sys2Proof/Machine/Mover.lean ====
section
/-! DEFINITION. MOVE: copies, transposes, output sets, slot rings, small transfers (09 R487 to R497; 11 R609). -/
namespace Sys2Proof.Machine

/-! ## Pieces of a move (R488 to R490) -/

/-- Source granules that bytes [a, a + n) touch; `src` lies in granule number `g0` of tensor `tid`. -/
def srcGrans (src g0 tid a n : Nat) : List Gran :=
  if n = 0 then [] else
  (upto (a / 1024) ((a + n - 1) / 1024 + 1 - a / 1024)).map fun k => plainGran (1024 * k) tid (g0 + k - src / 1024) 0

/-- How a COPY or TRANSPOSE treats Diacritics and granule numbers. -/
structure MoveCfg where
  diac : Nat
  srcTid : Nat
  dstTid : Nat
  g0s : Nat
  g0d : Nat
deriving DecidableEq, Repr

def Inst.moveCfg (x : Inst) : MoveCfg := ⟨x.moveDiac, x.f 14 0 24, x.f 15 0 24, x.w 12, x.w 13⟩

/-- Bytes of a destination piece: RENEW fills the tail of the last granule with zeros (R296). -/
def MoveCfg.fill (m : MoveCfg) (bs : List Byte) : List Byte := if m.diac = 2 then padTo 1024 bs else bs

/-- The fresh Diacritic of the destination granule of a piece at `a`. -/
def MoveCfg.fresh (m : MoveCfg) (dst a : Nat) : List Gran :=
  if m.diac = 2 then [plainGran a m.dstTid (m.g0d + (a - dst) / 1024) 0] else []

/-- COPY of `len` bytes, by destination granule. -/
def State.copyChunks (s : State) (x : Inst) (m : MoveCfg) (src dst len : Nat) : List Chunk :=
  (granPieces dst len).map fun p =>
    let a := src + (p.1 - dst)
    { Chunk.empty with
      need := if m.diac = 0 then [] else srcGrans src m.g0s m.srcTid a p.2,
      use := [(a, p.2)],
      outs := [⟨p.1, m.fill (s.rdx x a p.2), p.1 / 1024⟩],
      ren := m.fresh dst p.1,
      car := if m.diac = 1 then [(p.1, m.dstTid, m.g0d + (p.1 - dst) / 1024, s.diacx x a)] else [] }

/-- TRANSPOSE of R rows of C elements of `es` bytes, by destination granule. -/
def State.transChunks (s : State) (x : Inst) (m : MoveCfg) (src dst r c es : Nat) : List Chunk :=
  (granPieces dst (r * c * es)).map fun p =>
    let at_ := fun b => src + (b / es % r * c + b / es / r) * es + b % es
    let from_ := (upto (p.1 - dst) p.2).map at_
    { Chunk.empty with
      need := if m.diac = 0 then [] else (from_.flatMap fun a => srcGrans src m.g0s m.srcTid a 1).eraseDups,
      use := from_.map fun a => (a, 1),
      outs := [⟨p.1, m.fill (from_.flatMap fun a => s.rdx x a 1), p.1 / 1024⟩],
      ren := m.fresh dst p.1 }

/-- The set of an OUTSET move at a base. -/
def Inst.moveSet (x : Inst) (e : Entry) (base : Nat) : OSet :=
  { base := base, rows := x.f 11 0 24, cols := x.f 12 0 20, fmt := x.f 12 20 4, gs := x.f 12 24 2, half := false,
    outl := bit (x.w 12) 26, hist := false, lscale := false, mx := false, cap := e.cap, promo := e.promo,
    sliceRows := e.sliceRows, tid := x.f 14 0 24 }

/-- One granule of a set, with its scale words, to the same place of another; a scaled granule's Diacritic does not
travel to another device (R609). -/
def State.setChunk (s : State) (x : Inst) (o d : OSet) (g : Gran) : Chunk :=
  let dst := d.base + (g.a - o.base)
  { Chunk.empty with
    need := [g], use := [(g.a, 1024), (g.sa, g.sl)],
    outs := ⟨dst, s.rdx x g.a 1024, dst / 1024⟩ ::
      (if g.sl = 0 then [] else [⟨d.base + (g.sa - o.base), s.rdx x g.sa g.sl, dst / 1024⟩]),
    car := if g.sl ≠ 0 ∧ !s.isOwn dst then [] else [(dst, g.tid, g.ix, s.diacx x g.a)] }

/-- The regions DATA with SCALES, PLIST, PROMO and SDIR. -/
def State.setChunks (s : State) (x : Inst) (o d : OSet) : List Chunk :=
  (o.dataGrans 0 o.dataLen 0 ++ o.sideGrans 2 0 (o.len 2) 0 ++ o.sideGrans 3 0 (o.len 3) 0 ++ o.sideGrans 4 0 (o.len 4) 0).map
    (s.setChunk x o d)

/-- Bytes from a set's base to the end of its SDIR region. -/
def OSet.moveLen (o : OSet) : Nat := o.off 5 - o.base

/-! ## Small transfers (R494 to R497) -/

/-- The Interjection path carries the move. -/
def State.interjects (s : State) (x : Inst) : Bool :=
  let d := devOf (x.a64 9)
  s.rf 0x40 0 1 == 1 && s.rf (ctxOff x.ctx 0x300) 0 1 == 1 && x.moveKind == 0 && x.moveDiac == 0 && !x.srcRing && !x.dstRing &&
  decide (x.w 11 ≤ 256) && d / 64 == s.devId / 64 && d != s.devId

/-- A credit towards the destination is free: 16 for each member. -/
def State.creditFree (s : State) (d : Nat) : Bool := decide (sget 0 s.fab.creditsUsed (d % 64) < 16)

def State.creditTake (s : State) (d : Nat) : State :=
  { s with fab := { s.fab with creditsUsed := sset 0 (d % 64) (sget 0 s.fab.creditsUsed (d % 64) + 1) s.fab.creditsUsed } }

/-- Run a short transfer: it takes one credit when its packet is sent, and waits when there is none. -/
def State.shortWork (s : State) (x : Inst) (w : Work) : State :=
  let d := devOf (x.a64 9)
  if !s.creditFree d then s.modInst x.id fun y => { y with blocked := true }
  else
    let s' := s.runWork x { w with tc := 3 }
    if (s'.sendFlow d).next = (s.sendFlow d).next then s' else s'.creditTake d

/-! ## Ring mode (R491) -/

/-- Slots moved, and the slots of source and destination that the Mover now holds. -/
structure RingPos where
  done : Nat
  src : Option Nat
  dst : Option Nat
deriving DecidableEq, Repr

def Inst.ringPos (x : Inst) : RingPos :=
  let g := fun k => x.slot.getD k 0
  ⟨g 0, if g 1 = 0 then none else some (g 1 - 1), if g 2 = 0 then none else some (g 2 - 1)⟩

def RingPos.list (p : RingPos) : List Nat :=
  [p.done, match p.src with | some k => k + 1 | none => 0, match p.dst with | some k => k + 1 | none => 0]

def State.moveRing (s : State) (x : Inst) (k : Nat) : Ring := s.ring (x.f k 0 5) (x.f k 5 6)

/-- A ring that the move may not use: not enabled, or the port of its side is not the Mover's lane. -/
def Ring.refuses (g : Ring) (x : Inst) (source : Bool) : Bool :=
  !g.enabled || (if source then g.cons else g.prod) != x.port

/-- Bytes of a slot of the move; where two rings differ, the smaller (log entry 42). -/
def State.moveSlot (s : State) (x : Inst) : Nat :=
  let a := (s.moveRing x 7).slotBytes
  let b := (s.moveRing x 9).slotBytes
  if x.srcRing && x.dstRing then min a b else if x.srcRing then a else b

/-- Take the next slot of a ring, or sleep on its semaphore. -/
def State.takeSlot (s : State) (x : Inst) (g : Ring) (source : Bool) : Except State (State × Nat) :=
  let ix := if source then g.full else g.empty
  let w : Wait := ⟨g.c, ix, 1, true⟩
  if !s.semOwned g.c ix x.job then .error (s.endInst x 0xF 0 {})
  else match s.tryWait w with
  | some s' => .ok (s', if source then g.head else g.tail)
  | none => .error (s.modInst x.id fun y =>
      { y with blocked := true, wait := some w, sleepAt := if y.wait = some w then y.sleepAt else s.clock.now })

/-- Take the slots that a slot's transfer needs. -/
def State.takeSlots (s : State) (x : Inst) : Except State (State × RingPos) :=
  let save := fun (s : State) (p : RingPos) => s.modInst x.id fun y => { y with slot := p.list, wait := none, lends := false, blocked := false }
  let p := x.ringPos
  let r1 : Except State (State × RingPos) :=
    if x.srcRing && p.src.isNone then
      match s.takeSlot x (s.moveRing x 7) true with
      | .error e => .error e
      | .ok (s, k) => let p := { p with src := some k }; .ok (save s p, p)
    else .ok (s, p)
  match r1 with
  | .error e => .error e
  | .ok (s, p) =>
    if x.dstRing && p.dst.isNone then
      match s.takeSlot ((s.inst? x.id).getD x) (s.moveRing x 9) false with
      | .error e => .error e
      | .ok (s, k) => let p := { p with dst := some k }; .ok (save s p, p)
    else .ok (s, p)

/-- 64-bit address of a side of the move in slot number `done`. -/
def State.moveAddr (s : State) (x : Inst) (k : Nat) (ring : Bool) (slot : Option Nat) (at_ : Nat) : Nat :=
  if ring then s.devId * 2 ^ 48 + (s.moveRing x k).slotAddr (slot.getD 0) else x.a64 k + at_

/-- Commit the written slot and release the read one. -/
def State.giveSlots (s : State) (x : Inst) : State :=
  let s := if x.dstRing then let g := s.moveRing x 9; s.semAdd g.c g.full 1 else s
  if x.srcRing then let g := s.moveRing x 7; s.semAdd g.c g.empty 1 else s

/-- Move slots until LEN of them have gone or one has to wait. -/
def State.moveSlots (s : State) (i : Nat) : Nat → State
  | 0 => s
  | f + 1 =>
    match s.inst? i with
    | none => s
    | some x =>
      if x.phase ≠ .started then s
      else if (x.srcRing && (s.moveRing x 7).refuses x true) || (x.dstRing && (s.moveRing x 9).refuses x false) then s.endInst x 1 0 x.cnt
      else match s.takeSlots x with
      | .error s' => s'
      | .ok (s, p) =>
        let x := (s.inst? i).getD x
        let b := s.moveSlot x
        let src := s.moveAddr x 7 x.srcRing p.src (p.done * b)
        let dst := s.moveAddr x 9 x.dstRing p.dst (p.done * b)
        let m := x.moveCfg
        let m := { m with g0s := m.g0s + p.done * (b / 1024), g0d := m.g0d + p.done * (b / 1024) }
        match s.want x [(src, b)] with
        | some s' => s'
        | none =>
          let w : Work := ⟨[(src, b)], s.copyChunks x m src dst b, Chunk.empty, 255, 0, 0⟩
          match s.partWork x w with
          | .error s' => s'
          | .ok r =>
            match r.halt with
            | some _ => State.endWork x 255 0 r
            | none =>
              let s := r.s.giveSlots x
              let last := decide (x.w 11 ≤ p.done + 1)
              let s := s.modInst i fun y => { y with slot := [p.done + 1, 0, 0], progress := 0, blocked := false, staged := [], asked := [] }
              if last then
                let s := if bit (x.w 6) 20 && x.dstRing then s.sealRing (x.f 9 0 5) (x.f 9 5 6) else s
                s.endEngine ((s.inst? i).getD x) 0 0 {} 255
              else s.moveSlots i f

/-! ## MOVE -/

/-- Work of a move outside ring mode: none where its recipe entry cannot be used. -/
def State.moveOnce (s : State) (x : Inst) : State :=
  let src := x.a64 7
  let dst := x.a64 9
  let m := x.moveCfg
  let go := fun (len : Nat) (chunks : State → List Chunk) =>
    if !s.mayAcc x 0 src len then s.endDeny x src
    else match s.want x [(src, len)] with
    | some s' => s'
    | none =>
      let w : Work := ⟨[(src, len)], chunks s, Chunk.empty, 255, 0, 0⟩
      if s.interjects x then s.shortWork x w else s.runWork x w
  if x.moveKind = 0 then go (x.w 11) fun s => s.copyChunks x m src dst (x.w 11)
  else if x.moveKind = 1 then
    let es := if bit (x.w 6) 21 then 2 else 1
    let r := x.f 11 0 16
    let c := x.f 11 16 16
    go (r * c * es) fun s => s.transChunks x m src dst r c es
  else match s.entry x (x.f 13 0 8) (x.f 13 8 2) with
  | .error e => s.endEntry x e [(x.f 13 0 8, x.f 13 8 2)]
  | .ok e =>
    if !e.sliceOk then s.endFormat x 13
    else
      let o := x.moveSet e src
      go o.moveLen fun s => s.setChunks x o (x.moveSet e dst)

def State.move (s : State) (i : Nat) : State :=
  match s.started i 1 with
  | none => s
  | some x =>
    if x.srcRing || x.dstRing then
      (if x.wait.isSome then s.modInst i fun y => { y with blocked := false } else s).moveSlots i (x.w 11 - x.ringPos.done)
    else s.moveOnce x

/-- MOVE. -/
def execMove (i : Nat) (s : State) : Host.Outcome State Fault Refusal := act (.move i) (s.move i)

end Sys2Proof.Machine
end

