-- ==== Sys2Proof/Machine/Streams.lean ====
section
/-! DEFINITION. SEM descriptors and wakes, FENCE, PLAN, DUMP, the Run-On detector (09 R462 to R484, R501 to R509, R849; 02 R89, R116 to R121). -/
namespace Sys2Proof.Machine

/-! ## SEM (R462 to R467, R482, R483, R849) -/

/-- A started SEM with an operation that has not performed it yet. -/
def State.semOf (s : State) (i sop : Nat) : Option Inst := (s.started i 0x0B).filter fun x => x.sop == sop && x.stage == 0

def Inst.semLocal (s : State) (x : Inst) : Bool := x.semDev == s.devId

/-- A local operation of a SEM: refused on a bank that is not the job's, else performed. -/
def State.semHere (s : State) (x : Inst) (go : State → State) : State :=
  if !s.semOwned x.semUnit x.semIndex x.job then s.endInst x 0xF 0 {} else go s

/-- A remote operation travels as a SEM_OP packet: ARG names the semaphore and the operation. -/
def State.semAway (s : State) (x : Inst) (payload : List Byte) : State :=
  if s.sendRoom x.semDev 1 then
    (s.sendFor x (mkPkt .semOp x.semDev x.job 0 0 (x.semIndex + 2 ^ 13 * x.semUnit + 2 ^ 19 * x.sop) payload)).endInst x 0 0 {}
  else s.modInst x.id fun y => { y with blocked := true }

/-- An earlier descriptor of the lane still sends packets of the pending group for device `d` (R606). -/
def State.groupBusy (s : State) (x : Inst) (d : Nat) : Bool :=
  (s.earlierInLane x).any fun y => y.sigCounted && !y.sigOn && y.sigDev == d && y.phase != .done

/-- A counted remote ADD closes the lane's pending group with its SIGNAL. -/
def State.semCounted (s : State) (x : Inst) : State :=
  let d := x.semDev
  if s.groupBusy x d then s
  else match s.laneGroup (x.queue, x.ctx) d with
  | some g =>
    if s.sendRoom d 1 then (s.sendSignal x d x.semUnit x.semIndex (x.w 9) (some g.num)).endInst x 0 0 {}
    else s.modInst x.id fun y => { y with blocked := true }
  | none =>
    if s.sendRoom d 1 && decide (s.fab.sendGroups.length < 4096) then
      let (s, n) := s.openGroup d none
      (s.sendSignal x d x.semUnit x.semIndex (x.w 9) (some n)).endInst x 0 0 {}
    else s.modInst x.id fun y => { y with blocked := true }

def State.doSemAdd (s : State) (i : Nat) : State :=
  match s.semOf i 0 with
  | none => s
  | some x =>
    if x.semLocal s then s.semHere x fun s => (s.semAdd x.semUnit x.semIndex (x.w 9)).endInst x 0 0 {}
    else if bit (x.w 6) 3 then s.semCounted x
    else s.semAway x (leBytes 4 (x.w 9))

def State.doSemSub (s : State) (i : Nat) : State :=
  match s.semOf i 1 with
  | none => s
  | some x =>
    if x.semLocal s then
      s.semHere x fun s =>
        if s.ringForbids x.semUnit x.semIndex x.port false then s.endInst x 1 0 {}
        else
          let (s, under) := s.semSub x.semUnit x.semIndex (x.w 9)
          s.endInst x (if under then 0xB else 0) 0 {}
    else s.semAway x (leBytes 4 (x.w 9))

/-- A waiting SEM evaluates its condition when it reaches it, and sleeps when it fails. -/
def State.doSemWait (s : State) (x : Inst) (acquire : Bool) : State :=
  s.semHere x fun s =>
    let w : Wait := ⟨x.semUnit, x.semIndex, x.w 9, acquire⟩
    if acquire && s.ringForbids w.unit w.index x.port true then s.endInst x 1 0 {}
    else match s.tryWait w with
    | some s' => s'.endInst x 0 0 {}
    | none => s.setInst { x with phase := .waiting, wait := some w, sleepAt := s.clock.now, lends := false }

def State.doSemWaitGe (s : State) (i : Nat) : State := match s.semOf i 2 with | some x => s.doSemWait x false | none => s
def State.doSemAcquire (s : State) (i : Nat) : State := match s.semOf i 3 with | some x => s.doSemWait x true | none => s

def State.doSemSet (s : State) (i : Nat) : State :=
  match s.semOf i 4 with
  | none => s
  | some x =>
    if x.semLocal s then s.semHere x fun s => (s.semPut x.semUnit x.semIndex (x.w 9)).endInst x 0 0 {}
    else s.semAway x (leBytes 4 (x.w 9))

def State.doSemRead (s : State) (i : Nat) : State :=
  match s.semOf i 5 with
  | none => s
  | some x =>
    let r := x.a64 10
    if r ≠ 0 ∧ !s.mayAcc x 1 r 4 then s.endDeny x r
    else if r ≠ 0 ∧ isHost (locOf r) ∧ !s.hostUp then s.endInst x 7 0 {}
    else if x.semLocal s then
      s.semHere x fun s =>
        let s := if r = 0 then s else s.putOut x ⟨r, leBytes 4 (s.semVal x.semUnit x.semIndex), 0⟩
        s.endInst x 0 0 {}
    else
      let seq := (s.sendFlow x.semDev).next
      if !s.sendRoom x.semDev 1 then s.modInst i fun y => { y with blocked := true }
      else (s.semAway x (leBytes 8 (locOf r))).modInst i fun y => { y with stage := seq + 1, awaiting := if r = 0 then 0 else 4 }

/-- RSEAL names a cluster and a ring. -/
def State.doRseal (s : State) (i : Nat) : State :=
  match s.semOf i 6 with
  | none => s
  | some x =>
    let g := s.ring x.semUnit x.semIndex
    if !g.enabled then s.endInst x 1 0 {}
    else if g.ctx ≠ x.ctx then s.endInst x 0xF 0 {}
    else (if g.isSealed then s else s.sealRing x.semUnit x.semIndex).endInst x 0 0 {}

def execSemAdd (i : Nat) (s : State) : Host.Outcome State Fault Refusal := act (.semAdd i) (s.doSemAdd i)
def execSemSub (i : Nat) (s : State) : Host.Outcome State Fault Refusal := act (.semSub i) (s.doSemSub i)
def execSemWaitGe (i : Nat) (s : State) : Host.Outcome State Fault Refusal := act (.semWaitGe i) (s.doSemWaitGe i)
def execSemAcquire (i : Nat) (s : State) : Host.Outcome State Fault Refusal := act (.semAcquire i) (s.doSemAcquire i)
def execSemSet (i : Nat) (s : State) : Host.Outcome State Fault Refusal := act (.semSet i) (s.doSemSet i)
def execSemRead (i : Nat) (s : State) : Host.Outcome State Fault Refusal := act (.semRead i) (s.doSemRead i)
def execRseal (i : Nat) (s : State) : Host.Outcome State Fault Refusal := act (.rseal i) (s.doRseal i)

/-! ## SEM_WAKE (R471 to R475) -/

/-- A sleeping waiter: its port, and the descriptor or core. -/
inductive Waiter where
  | desc (i : Nat)
  | core (c : Nat)
deriving DecidableEq, Repr

def Wait.on (w : Wait) (u b : Nat) : Bool := w.unit == u && w.index / 64 == b

/-- Waiters that sleep on a bank, with their ports; a MOVE that waits for a slot is one (R491). -/
def State.waitersOn (s : State) (u b : Nat) : List (Nat × Waiter) :=
  ((s.insts.filter fun x => x.waits && (x.wait.any fun w => w.on u b)).map fun x => (x.port, Waiter.desc x.id)) ++
  ((List.range 32).filter fun c => (s.core c).waiting.any fun k => k.2.1.on u b).map fun c => (16 * c, Waiter.core c)

def insPort (p : Nat × Waiter) : List (Nat × Waiter) → List (Nat × Waiter)
  | [] => [p]
  | q :: t => if p.1 < q.1 then p :: q :: t else q :: insPort p t

/-- A descriptor re-evaluates: a SEM ends, another starts its access side. One that a STEP holds goes back to wait at the
head of its lane. -/
def State.wakeDesc (s : State) (i : Nat) : State :=
  match s.inst? i with
  | none => s
  | some x =>
    match x.wait with
    | none => s
    | some w =>
      if x.phase = .started then s.move i else
      let own := x.opcode == 0xB && x.waited
      if !own ∧ s.stepOpen x.ctx ∧ !x.unheld then s.setInst { x with phase := .queued, wait := none }
      else match s.tryWait w with
      | none => s.setInst { x with sleepAt := s.clock.now, lends := false }
      | some s' => if own then s'.endInst x 0 0 {} else s'.startAccess i

/-- A core's waiting instruction re-evaluates; released, x[rd] takes the value observed. -/
def State.wakeCore (s : State) (c : Nat) : State :=
  match (s.core c).waiting with
  | none => s
  | some (rd, w, _, _) =>
    match s.tryWait w with
    | none => s.modCore c fun k => { k with waiting := some (rd, w, s.clock.now, false) }
    | some s' =>
      let v := BitVec.ofNat 32 (s.semVal w.unit w.index)
      s'.modCore c fun k => { k with waiting := none, x := if rd = 0 then k.x else sset 0#32 rd v k.x }

/-- The wake wire of a bank has fired: its waiters evaluate in ascending port. -/
def State.semWake (s : State) (u b : Nat) : State :=
  if !s.wakes.contains (u, b) then s
  else
    let ws := (s.waitersOn u b).foldl (fun l p => insPort p l) []
    ws.foldl (fun s p => match p.2 with | .desc i => s.wakeDesc i | .core c => s.wakeCore c)
      { s with wakes := s.wakes.filter fun w => w != (u, b) }

/-- SEM_WAKE. -/
def execSemWake (unit bank : Nat) (s : State) : Host.Outcome State Fault Refusal := act (.semWake unit bank) (s.semWake unit bank)

/-! ## FENCE (R89) -/

def State.doFence (s : State) (i : Nat) : State := match s.started i 0xC with | some x => s.endInst x 0 0 {} | none => s

def execFence (i : Nat) (s : State) : Host.Outcome State Fault Refusal := act (.fence i) (s.doFence i)

/-! ## PLAN (R116 to R121, R418) -/

/-- Descriptor words of the records of a plan object. -/
def Inst.records (x : Inst) : List (List Word) := (pieces 64 x.block).map toWords

/-- The expansion cache holds the plan's key, most recently used first (R120). -/
def State.cachePlan (s : State) (x : Inst) : State :=
  let k := (x.job, x.a64 6, x.w 9, x.f 8 0 9, x.epoch)
  { s with host := { s.host with planCache := (k :: s.host.planCache.filter fun e => e != k).take 1024 } }

/-- Expand a plan: its records are taken in, in record order. -/
def State.doPlan (s : State) (i : Nat) : State :=
  match s.started i 0x0E with
  | none => s
  | some x =>
    if x.stage ≠ 0 then s
    else match s.withBlock x (x.a64 6) (64 * x.f 8 0 9) with
    | .error s' => s'
    | .ok (s, x) =>
      let rs := x.records
      match rs.findIdx? fun ws => wd ws 0 % 256 == 0x0E with
      | some k => s.endFormat x k
      | none =>
        let s := (s.cachePlan x).modInst i fun y => { y with stage := rs.length }
        (rs.zipIdx).foldl (fun s r =>
          s.takeIn { Inst.fresh 0 x.sq x.ctx x.cq x.fromPf r.1 with parent := some i, recIx := r.2 }) s

def execPlan (i : Nat) (s : State) : Host.Outcome State Fault Refusal := act (.plan i) (s.doPlan i)

/-! ## Dumps (R507 to R509) -/

def w32 (v : Nat) : List Byte := leBytes 4 v

/-- Jobs whose objects a dump holds: one, or every one. -/
def dumped (job : Option Nat) (j : Nat) : Bool := match job with | some k => k == j | none => true

/-- The semaphore records: all 64 semaphores of every bank that a dumped job owns. -/
def State.dumpSems (s : State) (job : Option Nat) : List (List Byte) :=
  (upto 0 36).flatMap fun u =>
    if !s.unitFitted u then []
    else ((List.range (semCount u / 64)).filter fun b =>
        s.rf (ownerOff u b) 12 1 == 1 && dumped job (s.rf (ownerOff u b) 0 12)).flatMap fun b =>
      (upto (64 * b) 64).map fun i =>
        let waits := (s.waitersOn u b).any fun p => match p.2 with
          | .desc d => (s.inst? d).any fun x => x.wait.any fun w => w.index == i
          | .core c => (s.core c).waiting.any fun k => k.2.1.index == i
        w32 (i + 2 ^ 13 * u + (if waits then 2 ^ 19 else 0) + 2 ^ 20 * s.rf (ownerOff u b) 0 12) ++ w32 (s.semVal u i)

/-- State of a lane's head: 1 running, 2 WAIT_GE, 3 ACQUIRE, 4 sealed ring, 5 credit, 6 FENCE_BEFORE, 7 awaiting Full
Stop, 8 re-arm queued. -/
def State.waitCode (s : State) (w : Wait) : Nat :=
  if !w.acquire then 2
  else match s.ringOf w.unit w.index with
    | some (g, false) => if g.isSealed then 4 else 3
    | _ => 3

def State.laneCode (s : State) (x : Inst) : Nat :=
  match x.phase with
  | .rearm => 8
  | .waiting => match x.wait with | some w => s.waitCode w | none => 1
  | .queued => if s.stepOpen x.ctx && !x.unheld then 7 else if s.fenced x then 6 else 1
  | .started => if x.opcode = 0xD then 7
    else if x.blocked then (match x.wait with | some w => s.waitCode w | none => 5) else 1
  | .done => 1

/-- Fabric time of a stamp of the model's clock. -/
def State.fabOf (s : State) (t : Nat) : Nat := (s.clock.fab + 2 ^ 64 - (s.clock.now - t) % 2 ^ 64) % 2 ^ 64

/-- The record of a lane, given its descriptors in order. -/
def State.laneRec (s : State) (port : Nat) (xs : List Inst) : List Byte :=
  match xs.find? (fun x => x.phase != .rearm) with
  | some x => go x
  | none => match xs with | x :: _ => go x | [] => []
where
  go (x : Inst) : List Byte :=
    let sem := match x.wait with | some w => w.index + 2 ^ 13 * w.unit | none => 0
    let n := match x.wait with | some w => w.n | none => 0
    let at_ := if x.phase.begun then x.startTs else s.fabOf x.sleepAt
    w32 (port + 2 ^ 16 * s.laneCode x + 2 ^ 20 * x.job) ++ w32 (x.w 1) ++ w32 (x.sq % 1024 + 2 ^ 16 * x.opcode) ++ w32 sem ++ w32 n ++
    w32 (satw 16 xs.length + 2 ^ 16 * satw 7 (s.laneOut x)) ++ w32 at_ ++ w32 0

/-- The record of a core whose instruction waits. -/
def State.coreRec (s : State) (c job : Nat) (w : Wait) (t : Nat) : List Byte :=
  w32 (16 * c + 2 ^ 16 * s.waitCode w + 2 ^ 20 * job) ++ w32 0 ++ w32 0 ++ w32 (w.index + 2 ^ 13 * w.unit) ++ w32 w.n ++ w32 1 ++
  w32 (s.fabOf t) ++ w32 0

/-- The lane records in ascending port. -/
def State.dumpLanes (s : State) (job : Option Nat) : List (List Byte) :=
  let mine := s.insts.filter fun x => dumped job x.job && x.queue != noQueue
  let ports := mine.foldl (fun l x => insNat x.port l) []
  let lanes := ports.map fun p => (p, s.laneRec p (mine.filter fun x => x.port == p))
  let cores := (List.range 32).filterMap fun c => match (s.core c).waiting, s.coreCtx c with
    | some (_, w, t, _), some n => if dumped job (s.jobId n) then some (16 * c, s.coreRec c (s.jobId n) w t) else none
    | _, _ => none
  let low := cores.filter fun e => !lanes.any fun l => l.1 == e.1
  ((lanes ++ low).foldl (fun l e => sput e.1 e.2 l) []).map Prod.snd

/-- The ring records: every enabled ring of a dumped job. -/
def State.dumpRings (s : State) (job : Option Nat) : List (List Byte) :=
  ((List.range 32).flatMap fun c => (List.range 64).map fun r => s.ring c r).filterMap fun g =>
    let j := s.jobId g.ctx
    if g.enabled && dumped job j then
      some (w32 (g.c + 2 ^ 5 * g.r + (if g.isSealed then 2 ^ 11 else 0) + 2 ^ 12 * s.rf (ringOff g.c g.r 28) 1 1 + 2 ^ 20 * j) ++
        w32 g.head ++ w32 g.tail ++ w32 (s.semVal g.c g.full) ++ w32 (s.semVal g.c g.empty) ++ w32 g.slots ++
        w32 (g.prod + 2 ^ 12 * g.cons) ++ w32 0)
    else none

/-- A section that starts on a 64-byte boundary at `at_`: the records that fit whole, and where it ends. -/
def dumpPart (at_ size each : Nat) (l : List (List Byte)) : List (List Byte) × Nat :=
  let n := min l.length ((size - at_) / each)
  (l.take n, at_ + each * n)

def up64 (n : Nat) : Nat := cdiv n 64 * 64

/-- The bytes of a dump in a buffer of `size` bytes, and whether it was cut at the last whole record. -/
def State.dumpBytes (s : State) (job : Option Nat) (runon : Bool) (size : Nat) : List Byte × Bool :=
  if size < 64 then ([], true)
  else
    let sems := s.dumpSems job
    let lanes := s.dumpLanes job
    let rings := s.dumpRings job
    let (a, e1) := dumpPart 64 size 8 sems
    let cut1 := decide (a.length < sems.length)
    let (b, e2) := if cut1 then ([], e1) else dumpPart (up64 e1) size 32 lanes
    let cut2 := cut1 || decide (b.length < lanes.length)
    let (c, e3) := if cut2 then ([], e2) else dumpPart (up64 e2) size 32 rings
    let cut := cut2 || decide (c.length < rings.length)
    let fin := if c.isEmpty then (if b.isEmpty then e1 else e2) else e3
    let head := w32 (1 + (if cut then 2 ^ 16 else 0) + (if runon then 2 ^ 17 else 0) + (if job.isNone then 2 ^ 18 else 0)) ++
      w32 (s.devId + 2 ^ 16 * (job.getD 0)) ++ w32 s.clock.fab ++ w32 (s.clock.fab / 2 ^ 32) ++
      w32 a.length ++ w32 b.length ++ w32 c.length ++ w32 fin
    let body := padTo 64 head ++ a.flatten
    let body := if b.isEmpty then body else padTo (up64 e1) body ++ b.flatten
    let body := if c.isEmpty then body else padTo (up64 e2) body ++ c.flatten
    (body, cut)

/-- DUMP: the objects of its job, or of every job. -/
def State.doDump (s : State) (i : Nat) : State :=
  match s.started i 0x0F with
  | none => s
  | some x =>
    let d := x.a64 7
    let (bs, cut) := s.dumpBytes (if bit (x.w 6) 0 then none else some x.job) false (x.w 9)
    if !s.mayAcc x 1 d (x.w 9) then s.endDeny x d
    else if s.isOwn d ∧ isHost (locOf d) ∧ !s.hostUp then s.endInst x 7 0 {}
    else
      s.runWork x ⟨[], [{ Chunk.empty with outs := outAt d bs }], Chunk.empty, 0, if cut then 1 else 0, 0⟩

def execDump (i : Nat) (s : State) : Host.Outcome State Fault Refusal := act (.dump i) (s.doDump i)

/-! ## RUN_ON_FIRE (R502 to R505) -/

def State.tRunOn (s : State) (n : Nat) : Nat := let v := s.rf (ctxOff n 0x304) 0 14; if v = 0 then 50 else min v 10000

/-- The dump that the detector writes to DUMP_BASE. -/
def State.runOnDump (s : State) (n : Nat) : State :=
  let a := s.jr64 n 0x310
  let size := 1024 * s.rf (ctxOff n 0x318) 0 16
  if a = 0 ∨ !s.isOwn a ∨ !s.mapped (locOf a) (max 1 size) ∨ (isHost (locOf a) ∧ !s.hostUp) then s
  else s.wr (some n) (locOf a) (s.dumpBytes (some (s.jobId n)) true size).1

/-- The count has reached T_RUNON: 25,000 periods of the reference to a millisecond. -/
def State.runOnFire (s : State) (n : Nat) : State :=
  if !s.running n ∨ (s.ctx n).runOnFired ∨ (s.ctx n).runOn < 25000 * s.tRunOn n then s
  else
    let s := (s.setF (ctxOff n 0x308) 0 1 1).logEv 0x0304 (s.jobId n) [n]
    let s := (s.modCtx n fun c => { c with runOnFired := true }).runOnDump n
    let s := if s.rf (ctxOff n 0x30C) 16 1 = 1 then s.raise (n + 1) (s.rf (ctxOff n 0x30C) 0 11) else s
    if s.rf (ctxOff n 0x304) 16 1 = 0 then s
    else ((s.insts.filter fun x => x.ctx == n && x.waits).foldl (fun s x => s.abortInst 0xA x) s).faultCtx n 0xA

/-- RUN_ON_FIRE. -/
def execRunOnFire (ctx : Nat) (s : State) : Host.Outcome State Fault Refusal := act (.runOnFire ctx) (s.runOnFire ctx)

end Sys2Proof.Machine
end

