-- ==== Sys2Proof/Machine/Steps.lean ====
section
/-! DEFINITION. Steps on a device: STEP and its close, FULL_STOP, PARITY_STOP, ROLLBACK, RESUME, RANK_TABLE (08 R412 to R419, R442 to R448; 13 R670 to R679, R691 to R694, R700; 16 R804, R805). -/
namespace Sys2Proof.Machine

/-! ## STEP (R671, R672) -/

/-- A started STEP at a stage: 0 begun, 1 holding, 2 STEP_DONE sent, 3 Full Stop applied. -/
def State.stepAt (s : State) (i stage : Nat) : Option Inst := (s.started i 0x0D).filter fun x => x.stage == stage

/-- The STEP of a context, at a stage. -/
def State.stepOf (s : State) (n stage : Nat) : Option Inst :=
  s.insts.find? fun x => x.ctx == n && x.opcode == 0x0D && x.phase == .started && x.stage == stage

/-- STEP: it holds the job's other work and waits for what started before it. -/
def State.doStep (s : State) (i : Nat) : State :=
  match s.stepAt i 0 with | some _ => s.modInst i fun y => { y with stage := 1 } | none => s

def execStepDesc (i : Nat) (s : State) : Host.Outcome State Fault Refusal := act (.stepDesc i) (s.doStep i)

/-- A descriptor whose access side started before the STEP's and which has not completed; its own PLAN and the device's
own delta sender are left out. -/
def stepWaits (x y : Inst) : Bool :=
  y.id != x.id && y.ctx == x.ctx && some y.id != x.parent && !(y.sq == 1024 && y.opcode == 0x10) &&
  (y.phase.begun || (y.phase == .waiting && y.waited)) &&
  (!y.unheld || decide (y.startTs < x.startTs) || (y.startTs == x.startTs && decide (y.id < x.id)))

/-- Order 4 of R672: DELTAS_DONE of the step before has been sent. -/
def State.parityReady (s : State) (n t : Nat) : Bool := !s.parityEn n || decide (t ≤ (s.ctx n).deltasStep)

/-! ### What a step leaves behind (R442 to R448) -/

/-- SD and SW of a layer group, combined in ascending (PSET_TID, ROW0, ENGINE) by additions of rn20 (R443). -/
def ratioLt (a b : Ratio) : Bool :=
  decide (a.psetTid < b.psetTid) || (a.psetTid == b.psetTid && (decide (a.row0 < b.row0) || (a.row0 == b.row0 && decide (a.engine < b.engine))))

def insRatio (r : Ratio) : List Ratio → List Ratio
  | [] => [r]
  | q :: t => if ratioLt r q then r :: q :: t else q :: insRatio r t

def sumRatio (l : List Ratio) (f : Ratio → Rat) : Rat :=
  match l with
  | [] => 0
  | r :: t => t.foldl (fun a q => Sys2Proof.Machine.rn20 (a + f q)) (f r)

/-- SD and SW of a layer group in the step. -/
def Ctx.ratioOf (c : Ctx) (lg : Nat) : Rat × Rat :=
  let l := (c.ratios.filter fun r => r.lg == lg).foldl (fun l r => insRatio r l) []
  (sumRatio l Ratio.sd, sumRatio l Ratio.sw)

/-- A stand-in for a descriptor of the closing step, for reading its recipe version. -/
def State.stepInst (s : State) (n id : Nat) : Inst :=
  { Inst.fresh id 1024 n 0 true [BitVec.ofNat 32 (0xD + s.jobId n * 2 ^ 16)] with step := s.fsStep n + 1, epoch := s.epoch n }

/-- The bound of a ratio band. -/
def bandOf (c : Nat) : Rat := (decodeFloat (floatFmt BF16) c).rat

/-- SAT_HIGH, RATIO_HIGH and RATIO_LOW of a layer group, from its weight entry (R444). -/
def State.lgFlags (s : State) (n lg : Nat) : State :=
  match s.entry (s.stepInst n 0) lg 0 with
  | .error _ => s
  | .ok e =>
    let c := s.ctx n
    let (sd, sw) := c.ratioOf lg
    let lo := bandOf (e.f 4 0 16)
    let hi := bandOf (e.f 4 16 16)
    let any := c.ratios.any fun r => r.lg == lg
    let s := if e.f 5 0 32 < sget 0 c.satLg lg then s.raiseFlag n 1 lg else s
    let s := if any ∧ hi ≠ 0 ∧ hi * hi * sw < sd then s.raiseFlag n 2 lg else s
    if any ∧ lo ≠ 0 ∧ sd < lo * lo * sw then s.raiseFlag n 3 lg else s

/-- Flags raised in the step, over every layer group. -/
def Ctx.flagsNow (c : Ctx) : Nat := c.flagsLg.foldl (fun a e => a ||| e.2) 0

/-- VERSION_TAG of the version in force; 0 without a recipe table (R448). -/
def State.versionTag (s : State) (n : Nat) : Nat :=
  match s.recipeBase n (s.epoch n) with | some b => leNat (s.rd (some n) (b + 8) 4) | none => 0

/-- The entry of a layer group in a health record. -/
def Ctx.healthEntry (c : Ctx) (lg : Nat) : List Byte :=
  let (sd, sw) := c.ratioOf lg
  let r := if sw ≤ 0 then 0 else ((vSqrt (Val.ofRat (sd / sw))).to16 BF16 none).1
  leBytes 4 (sget 0 c.flagsLg lg + r * 2 ^ 16)

def State.healthHead (s : State) (n t : Nat) : List Byte :=
  padTo 64 (leBytes 4 t ++ leBytes 4 ((s.ctx n).flagsNow + s.epoch n * 2 ^ 8) ++ leBytes 4 (s.versionTag n))

/-- Write the health record where HLT_BASE names memory of this device that can be reached (R448). -/
def State.writeHealth (s : State) (n t : Nat) : State :=
  let a := s.jr64 n 0x210
  let at_ := locOf a + 0x800 * (t % 2)
  if a = 0 ∨ !s.isOwn a ∨ !s.mapped at_ 1088 ∨ (isHost at_ ∧ !s.hostUp) then s
  else s.wr (some n) at_ (s.healthHead n t ++ (List.range 256).flatMap (s.ctx n).healthEntry)

/-- The telemetry event of the step: sent to the registered event receiver; kept until the next one's where there is none (R804, R805). -/
def State.telemetry (s : State) (n t : Nat) : State :=
  if s.jr64 n 0x210 = 0 then s
  else
    let c := s.ctx n
    let s := if c.tlmUnsent.isSome then s.count32 0x30204 1 else s
    match s.sec.evReceiver with
    | none => s.modCtx n fun c => { c with tlmUnsent := some t }
    | some _ =>
      (s.modCtx n fun c => { c with tlmUnsent := none }).reply 0xF0 (leBytes 4 (s.jobId n) ++ leBytes 4 t ++ s.healthHead n t ++
        c.stepCnt.list.flatMap (fun v => leBytes 4 (satw 32 v)) ++
        (List.range 256).flatMap fun lg => c.healthEntry lg ++ leBytes 4 (sget 0 c.histMax lg))

/-- What a context keeps about a step, empty again. -/
def Ctx.newStep (c : Ctx) : Ctx :=
  { c with satLg := [], nanLg := [], ratios := [], flagsLg := [], errMask := 0, implFrom := none, badGranule := 0, stepCnt := {},
           histMax := [], oflNext := 0, layers := [], ofl := [], backs := [] }

/-! ### STEP_CLOSE (R672 orders 2 to 5, R674 to R676) -/

/-- Words of STEP_DONE after word 0. -/
def State.stepDoneWords (s : State) (n t digest : Nat) : List Nat :=
  let c := s.ctx n
  let impl := min t (c.implFrom.getD t)
  let clean := c.errMask == 0 && impl == t && c.badGranule == 0
  [t, (if clean then 1 else 0) + s.rf (ctxOff n 0x20C) 1 1 * 2 + c.flagsNow % 32 * 4 + c.errMask % 2 ^ 16 * 2 ^ 16, impl, c.armTag.toNat,
    digest % 2 ^ 32, digest / 2 ^ 32, c.badGranule % 2 ^ 32, c.badGranule / 2 ^ 32]

/-- The STEP closes its step: fill, digest, flags, health record, telemetry, STEP_DONE. -/
def State.closeStep (s : State) (x : Inst) : State :=
  let n := x.ctx
  let t := x.w 6
  let s := ((s.regions n).filter fun g => g.kind == 0).foldl (fun s g => s.fillRegion n t g) s
  let d := s.stateDigest n t
  let s := (List.range 256).foldl (fun s lg =>
    if (s.ctx n).ratios.any (fun r => r.lg == lg) ∨ 0 < sget 0 (s.ctx n).satLg lg then s.lgFlags n lg else s) s
  let s := (s.writeHealth n t).telemetry n t
  let s := s.sendCtrl s.managerId 0x20 (s.jobId n :: s.stepDoneWords n t d)
  (s.modCtx n fun c => { c.newStep with lastBad := c.badGranule }).modInst x.id fun y => { y with stage := 2, slot := [d] }

def State.stepClose (s : State) (i : Nat) : State :=
  match s.stepAt i 1 with
  | none => s
  | some x =>
    if s.insts.any (stepWaits x) || !s.parityReady x.ctx (x.w 6) || !s.running x.ctx then s else s.closeStep x

/-- STEP_CLOSE. -/
def execStepClose (i : Nat) (s : State) : Host.Outcome State Fault Refusal := act (.stepClose i) (s.stepClose i)

/-! ## FULL_STOP (R414, R419, R679, R691, R698) -/

/-- The WQ_ONLY update of a recorded weight tensor at a switch, as work of the step that follows. -/
def State.requantise (s : State) (n i old : Nat) (w : List Word × List Byte) : State :=
  let opt := (w.1.getD 6 0#32).toNat % 8
  let ws := modNth (fun v => setFld (setFld v 0 3 7) 31 1 (if opt = 1 ∨ opt = 2 then 1 else 0)) 6 w.1
  let x : Inst := { s.stepInst n (2 ^ 41) with words := ws, block := w.2 }
  let x := { x with queue := 0x80 + x.f 6 4 4 }
  let lg := x.uLg
  match s.entry { x with epoch := old } lg 0, s.entry x lg 0 with
  | .ok eo, .ok e =>
    if eo = e then s
    else match s.updBlockBad x e with
      | some _ => s.addErr n 8
      | none =>
        let k := s.updWork x e (s.updRows x) (bits e.qctl 0 2 == 0 && bits eo.qctl 0 2 != 0)
        match s.workDenied x k.1 with
        | some (a, win) => if win then (s.addErr n 0xF).logViolation n a else s.addErr n 0xF
        | none =>
          let (s, halt, cnt) := s.applyWork x k.1
          let s := (s.noteCounts n lg cnt).modInst i fun y => { y with cnt := y.cnt.add cnt }
          match halt with
          | some h => (s.logHalt x h (k.1.chunks.flatMap Chunk.ranges)).addErr n h.status
          | none => (s.addRatio x k.2.1 k.2.2).noteHist x lg k.1.fin
              (s.wqCfg x e).o
  | _, _ => s

/-- The switch of recipe versions (R414 step 5, R419). -/
def State.switchEpoch (s : State) (n i t : Nat) : State :=
  let old := s.epoch n
  let s := ((s.setF (ctxOff n 0x20C) 0 1 (1 - old)).setF (ctxOff n 0x20C) 1 1 0).modCtx n fun c =>
    { c with epochs := (t + 1, 1 - old) :: c.epochs }
  (s.ctx n).weights.foldl (fun s w => s.requantise n i old w) s

/-- A device applies Full Stop `t` to the STEP `x` that awaits it. -/
def State.applyFullStop (s : State) (x : Inst) (t : Nat) (sw : Bool) : State :=
  let n := x.ctx
  let d := x.slot.headD 0
  let s := s.setReg (ctxOff n 0x804) (BitVec.ofNat 32 t)
  let s := s.setReg (ctxOff n 0x80C) (BitVec.ofNat 32 (max (s.jr n 0x80C) (t + 1 - s.detectN n)))
  let s := (s.setReg (ctxOff n 0x814) (BitVec.ofNat 32 d)).setReg (ctxOff n 0x818) (BitVec.ofNat 32 (d / 2 ^ 32))
  let s := if s.parityEn n then s.startDeltas n t else s
  let s := s.trimJournal n (t + 2 - s.banks n)
  let s := (s.logTimed 0x0601 (s.jobId n) t 0).noteService n
  let s := if sw then s.switchEpoch n x.id t else s
  if s.parityEn n ∧ s.banks n = 2 then s.modInst x.id fun y => { y with stage := 3 }
  else let y := (s.inst? x.id).getD x; s.endInst y 0 0 y.cnt

/-- FULL_STOP reaches a context whose STEP awaits it. -/
def State.onFullStop (s : State) (p : Packet) : State :=
  s.arriveCtrl p 0x21 false fun s =>
    (s.ctxsOf (pktWord p 0 % 4096)).foldl (fun s n =>
      match s.stepOf n 2 with
      | some x => if s.running n ∧ x.w 6 = pktWord p 1 then s.applyFullStop x (pktWord p 1) (bit (pktWord p 2) 0) else s
      | none => s) s

/-- FULL_STOP. -/
def execFullStop (p : Packet) (s : State) : Host.Outcome State Fault Refusal := act (.fullStop p) (s.onFullStop p)

/-! ## ROLLBACK (R101, R417, R539, R692, R693) -/

/-- The context enters RECOVERY: its in-flight work ends with E_RECOVERY, its windows and count groups go. -/
def State.enterRecovery (s : State) (n : Nat) : State :=
  if !s.running n then s
  else
    let s := s.setJobState n 4
    let s := (s.insts.filter fun x => x.ctx == n && !(x.sq == 1024 && x.opcode == 0x10)).foldl (fun s x => s.abortInst 0xE x) s
    (s.dropWindows n).dropGroups n

/-- EPOCH in force for a step. -/
def Ctx.epochAt (c : Ctx) (now t : Nat) : Nat :=
  match c.epochs.find? fun e => decide (e.1 ≤ t) with
  | some e => e.2
  | none => match c.epochs.getLast? with | some e => 1 - e.2 | none => now

/-- A ROLLBACK for a granule repair empties the bad granule's base-bank copy, into which the members of its group and the holder of
P send their XOR PARITY terms (R702, R708; log entry 64), and notes the other retained banks that hold the bad copy. -/
def State.beginRepair (s : State) (n f : Nat) : State :=
  let a := (s.ctx n).lastBad
  match (s.stateRegions n).find? fun g => decide (g.base ≤ a) && decide (a < g.base + g.size) with
  | none => s
  | some g =>
    let k := (a - g.base) / 1024
    let base := s.granAt n g f k
    let copy := fun b => (memRead s.mem b 1024, s.diacPhys b, s.poisonPhys b 1024)
    let others := ((upto 1 (s.banks n - 2)).filter fun j => decide (j ≤ f)).map fun j => s.granAt n g (f - j) k
    let s' := (s.wrPhys base (List.replicate 1024 0#8)).setDiacPhys base 0#32
    s'.modCtx n fun c => { c with repair := some (base, others.filter fun b => b != base && copy b == copy base) }

/-- Before RESUME the rebuilt granule goes into every bank that held the bad copy. Its Diacritic, which has no address that a
PARITY packet could name, is a free value (R708, log entry 64). -/
def State.endRepair (s : State) (n : Nat) : State :=
  match (s.ctx n).repair with
  | none => s
  | some (base, others) =>
    let (v, s) := s.free 32
    let s := others.foldl (fun s b => s.copyGranule base b) (s.setDiacPhys base (BitVec.ofNat 32 v))
    s.modCtx n fun c => { c with repair := none }

/-- Steps 3 to 6 of a ROLLBACK to `f`. -/
def State.rollbackTo (s : State) (n f cause : Nat) : State :=
  let s := (s.undoJournal n f).clearTags n f
  let s := s.setReg (ctxOff n 0x804) (BitVec.ofNat 32 f)
  let s := s.setReg (ctxOff n 0x808) (BitVec.ofNat 32 (min (s.psStep n) f))
  let s := s.setF (ctxOff n 0x20C) 0 1 ((s.ctx n).epochAt (s.epoch n) (f + 1))
  let d := s.stateDigest n f
  let s := (s.setReg (ctxOff n 0x814) (BitVec.ofNat 32 d)).setReg (ctxOff n 0x818) (BitVec.ofNat 32 (d / 2 ^ 32))
  let s := if cause = 3 ∧ (s.ctx n).lastBad ≠ 0 then s.beginRepair n f else s
  let s := s.modCtx n fun c => { c.newStep with
    epochs := c.epochs.filter (fun e => decide (e.1 ≤ f + 1)), deltasStep := min c.deltasStep (f + 1), waitParity := none }
  s.logTimed 0x0602 (s.jobId n) f cause

/-- The state of `f` is retained (R687). -/
def State.retained (s : State) (n f : Nat) : Bool := decide (f ≤ s.fsStep n) && decide (s.fsStep n + 2 ≤ f + s.banks n)

/-- A live context receives ROLLBACK. One whose target memory does not hold only enters RECOVERY (R693). -/
def State.rollback (s : State) (n f cause lost : Nat) : State :=
  if !(s.running n || s.jobState n == 4) then s
  else
    let s := (s.enterRecovery n).modCtx n fun c => { c with lostDev := if cause = 1 then some lost else none, waitParity := none }
    if !s.retained n f then s.modCtx n Ctx.newStep
    else if s.parityEn n && decide (s.psStep n < f) then
      let busy := s.insts.any fun x => x.ctx == n && x.sq == 1024 && x.opcode == 0x10
      let s := if busy || decide (f < (s.ctx n).deltasStep) then s else s.startDeltas n f
      s.modCtx n fun c => { c with waitParity := some (f, cause) }
    else s.rollbackTo n f cause

def State.onRollback (s : State) (p : Packet) : State :=
  s.arriveCtrl p 0x22 false fun s =>
    (s.ctxsOf (pktWord p 0 % 4096)).foldl (fun s n => s.rollback n (pktWord p 1) (pktWord p 2 % 4) (pktWord p 3 % 65536)) s

/-- ROLLBACK. -/
def execRollback (p : Packet) (s : State) : Host.Outcome State Fault Refusal := act (.rollback p) (s.onRollback p)

/-! ## PARITY_STOP (R672, R692, R699, R700) -/

/-- The PARITY regions take the open bank of a Parity Stop; one for PS_STEP itself ends a PARITY_INIT, whose lines
stand in the open bank of a running context (log entry 48). -/
def State.parityBanks (s : State) (n t : Nat) : State :=
  ((s.regions n).filter fun g => g.kind == 2).foldl (fun s g =>
    if t = s.psStep n then
      (List.range g.grans).foldl (fun s k =>
        if s.tagLast g k = t + 1 then (s.copyGranule (g.bankAddr ((t + 1) % s.banks n) k) (g.bankAddr (t % s.banks n) k)).setTags g k 0 0 else s) s
    else s.fillRegion n t g) s

def State.parityStop (s : State) (n t : Nat) : State :=
  if !s.parityEn n || !(t == s.psStep n || t == s.psStep n + 1) then s
  else
    let s := (s.parityBanks n t).setReg (ctxOff n 0x808) (BitVec.ofNat 32 t)
    let s := match s.stepOf n 3 with
      | some x => if x.w 6 = t then s.endInst x 0 0 x.cnt else s
      | none => s
    match (s.ctx n).waitParity with
    | some (f, cause) => if f = t then s.rollbackTo n f cause else s
    | none => s

def State.onParityStop (s : State) (p : Packet) : State :=
  s.arriveCtrl p 0x24 false fun s => (s.ctxsOf (pktWord p 0 % 4096)).foldl (fun s n => s.parityStop n (pktWord p 1)) s

/-- PARITY_STOP. -/
def execParityStop (p : Packet) (s : State) : Host.Outcome State Fault Refusal := act (.parityStop p) (s.onParityStop p)

/-! ## RESUME and RANK_TABLE (R101, R674, R694, R695, R722) -/

/-- RESUME ends the recovery of a context: ACTIVE, its reported errors cleared, a RECOVERY_DONE record. -/
def State.resume (s : State) (n : Nat) : State :=
  if s.jobState n ≠ 4 then s
  else
    let s := ((s.endRepair n).setJobState n 2).modCtx n fun c => { c with errMask := 0, waitParity := none, lostDev := none }
    s.logTimed 0x0603 (s.jobId n) (s.fsStep n) (s.ctx n).rankVersion

def State.onResume (s : State) (p : Packet) : State :=
  s.arriveCtrl p 0x25 false fun s => (s.ctxsOf (pktWord p 0 % 4096)).foldl (fun s n => s.resume n) s

/-- RESUME. -/
def execResume (p : Packet) (s : State) : Host.Outcome State Fault Refusal := act (.resume p) (s.onResume p)

/-- The 64 device IDs of a RANK_TABLE, by rank. -/
def tableRanks (p : Packet) : List Nat := (List.range 64).map fun k => leAt p.payload (8 + 2 * k) 2

/-- A new rank table. In RECOVERY after a loss, the replacement named in the lost device's place starts a REBUILD, the
lost rank kept with it (log entry 47). -/
def State.rankTable (s : State) (n version : Nat) (ranks : List Nat) : State :=
  let c := s.ctx n
  let s := s.modCtx n fun c => { c with ranks := ranks, rankVersion := version }
  match c.lostDev with
  | none => s
  | some d =>
    match c.ranks.findIdx? fun e => e == d with
    | none => s
    | some r =>
      let target := ranks.getD r 0xFFFF
      if s.jobState n ≠ 4 ∨ target = d ∨ target = 0xFFFF ∨ !s.parityEn n then s
      else
        let ws := [0x10 + s.jobId n * 2 ^ 16, 0, 0, 0, 0, 0, 3, s.psStep n, 0, 0, 0, d + target * 2 ^ 16]
        let x := Inst.fresh 0 1024 n 0 true (ws.map (BitVec.ofNat 32))
        (s.modCtx n fun c => { c with lostDev := none }).addInst
          { x with phase := .started, queue := noQueue, waited := true, startTs := s.clock.fab, step := s.fsStep n + 1, slot := [r] }

def State.onRankTable (s : State) (p : Packet) : State :=
  s.arriveCtrl p 0x26 false fun s =>
    (s.ctxsOf (pktWord p 0 % 4096)).foldl (fun s n => s.rankTable n (pktWord p 1) (tableRanks p)) s

/-- RANK_TABLE. -/
def execRankTable (p : Packet) (s : State) : Host.Outcome State Fault Refusal := act (.rankTable p) (s.onRankTable p)

end Sys2Proof.Machine
end

