-- ==== Sys2Proof/Machine/Domain.lean ====
section
/-! DEFINITION. The domain: JOIN and ADMIT, heartbeats, the manager's Full Stop and recovery decisions, fabric time, PPS (11 R614 to R621; 13 R674, R677, R678, R693, R700 to R707, R714, R715; 15 R769, R770; 17 R831, R832). -/
namespace Sys2Proof.Machine

def ms : Nat := 1000000

/-! ## Members as a manager keeps them -/

def State.member? (s : State) (d : Nat) : Option Member := s.mgr.members.find? fun m => m.dev == d

def insMember (m : Member) : List Member → List Member
  | [] => [m]
  | q :: t => if m.dev < q.dev then m :: q :: t else if m.dev = q.dev then m :: t else q :: insMember m t

def State.putMember (s : State) (m : Member) : State := { s with mgr := { s.mgr with members := insMember m s.mgr.members } }

def State.modMember (s : State) (d : Nat) (f : Member → Member) : State :=
  { s with mgr := { s.mgr with members := s.mgr.members.map fun m => if m.dev == d then f m else m } }

/-- Admitted members that are not lost. -/
def State.serving (s : State) : List Member := s.mgr.members.filter fun m => m.admitted && !m.lost

/-- The member number is in use: an admitted device that is heard (R614). -/
def State.inUse (s : State) (d : Nat) : Bool :=
  match s.member? d with
  | some m => m.admitted && !m.lost && m.suspectAt.isNone && decide (s.clock.now < m.heardAt + 3 * ms)
  | none => false

/-! ## Discarding flows (R715) -/

/-- Discard the send and receive flows with a device: what it had not acknowledged is given up, with E_RECOVERY where
the context is in RECOVERY and E_TIMEOUT elsewhere. -/
def State.discardFlows (s : State) (d : Nat) : State :=
  let s := (s.sendFlow d).stored.foldl (fun s e =>
    let st := match e.inst.bind s.inst? with | some x => if s.jobState x.ctx = 4 then 0xE else 7 | none => 7
    s.giveUp e st 0) s
  { s with fab := { s.fab with
      send := s.fab.send.filter (fun f => f.dst != d || !f.stored.isEmpty), recv := s.fab.recv.filter (fun f => f.src != d),
      sendGroups := s.fab.sendGroups.filter fun g => g.dst != d } }

/-! ## JOIN, ADMIT (R614, R715) -/

/-- A worker that is not admitted asks every millisecond. -/
def State.sendJoin (s : State) : State :=
  if !s.ready ∨ s.isManager ∨ s.fab.admitted ∨ (s.fab.joinAt ≠ 0 ∧ s.clock.now < s.fab.joinAt + ms) then s
  else
    let s := s.sendCtrl s.managerId (ctrlType 0) [0, s.devId]
    { s with fab := { s.fab with joinAt := max 1 s.clock.now }, clock := { s.clock with fabSet := false } }

def execJoin (s : State) : Host.Outcome State Fault Refusal := act .join s.sendJoin

/-- JOIN at the manager: refused when the number is in use, else the device is admitted and every member told. The flows
with the device start afresh, the JOIN being the first packet received (R715). -/
def State.onJoin (s : State) (p : Packet) : State :=
  s.arriveCtrl p (ctrlType 0) false fun s =>
    if !s.isManager then s
    else if s.inUse p.src then (s.logEv 0x0407 0 [p.src]).sendCtrl p.src (ctrlType 6) [0, p.src]
    else
      let s := (s.discardFlows p.src).putRecv ⟨p.src, p.seqFloor, [], 0, none, s.clock.now⟩
      let s := s.putMember ⟨p.src, true, s.clock.now, none, false, 0, clampLimit (s.rf 0x20004 0 12)⟩
      s.serving.foldl (fun s m => s.sendCtrl m.dev (ctrlType 1) [0, p.src]) s

def execJoinReceived (p : Packet) (s : State) : Host.Outcome State Fault Refusal := act (.joinReceived p) (s.onJoin p)

/-- The base banks, the PARITY banks and the journal of a context. -/
def State.bankReads (s : State) (n : Nat) : List (Nat × Nat) :=
  (s.regions n).map (fun g => (s.granAt n g (if g.kind = 2 then s.psStep n else s.fsStep n) 0, g.size)) ++
  [(s.jr64 n 0x820, 1040 * s.jnlEntries n)]

/-- The device checks its banks and reports each context in RECOVERY (R705, R715). -/
def State.sendRejoin (s : State) (n : Nat) : State :=
  if s.jobState n ≠ 4 then s
  else
    let (poisoned, s) := s.notePoison (s.jobId n) (s.bankReads n)
    let (ok, s) := s.recoveryCheck poisoned
    s.sendCtrl s.managerId 0x28 [s.jobId n, s.fsStep n, if ok then 1 else 0]

/-- ADMIT of this device, or of another with which flows are discarded; a refused device logs the conflict. A device that
is not yet admitted takes its own ADMIT as the first packet of a new flow, whatever it had received before (R715; log
entry 52). -/
def State.onAdmit (s : State) (p : Packet) : State :=
  let d := pktWord p 1 % 65536
  let s := if p.arg = ctrlType 1 ∧ d = s.devId ∧ !s.fab.admitted ∧ s.replyOk .ctrlMsg p ∧ s.ctrlOk p false then
      { s with fab := { s.fab with recv := s.fab.recv.filter fun f => f.src != p.src } } else s
  if p.arg = ctrlType 6 then s.arriveCtrl p (ctrlType 6) false fun s => s.logEv 0x0407 0 [d]
  else
    s.arriveCtrl p (ctrlType 1) false fun s =>
      if d = s.devId then
        (List.range 16).foldl State.sendRejoin { s with fab := { s.fab with admitted := true, mgrHeard := s.clock.now, mgrLost := false } }
      else if s.isManager then s else s.discardFlows d

def execAdmitMsg (p : Packet) (s : State) : Host.Outcome State Fault Refusal := act (.admitMsg p) (s.onAdmit p)

/-! ## The manager's decisions (R677, R678, R693, R700, R702, R707) -/

def State.mgrJob (s : State) (j : Nat) : MgrJob :=
  match s.mgr.jobs.find? fun g => g.job == j with | some g => g | none => ⟨j, [], [], 0, 0, false, 0, []⟩

def State.putJob (s : State) (g : MgrJob) : State :=
  { s with mgr := { s.mgr with jobs := (s.mgr.jobs.filter fun h => h.job != g.job) ++ [g] } }

/-- Devices of a job in the order of their ranks. -/
def State.jobDevs (s : State) (j : Nat) : List Nat := (s.mgr.ranks.filter fun r => r.2.1 == j).map fun r => r.1

/-- A register of a rank record. -/
def recordReg (ws : List Word) (rel : Nat) : Nat := match rankOffsets.findIdx? (· == rel) with | some k => wd ws k | none => 0

/-- Registers of the job as its first rank record gives them. -/
def State.jobReg (s : State) (j rel : Nat) : Nat :=
  match s.mgr.ranks.find? fun r => r.2.1 == j with | some r => recordReg r.2.2 rel | none => 0

def State.jobParity (s : State) (j : Nat) : Bool := bit (s.jobReg j 0x800) 8
def State.jobBanks (s : State) (j : Nat) : Nat := let v := bits (s.jobReg j 0x800) 4 3; if 2 ≤ v ∧ v ≤ 4 then v else 2
def State.jobG (s : State) (j : Nat) : Nat := let v := bits (s.jobReg j 0x800) 10 5; if 4 ≤ v ∧ v ≤ 16 then v else 4
def State.jobShares (s : State) (j : Nat) : Nat := bits (s.jobReg j 0x800) 9 1 + 1

/-- Last Full Stop of a job: declared, or as its records gave it at START. -/
def State.jobFs (s : State) (j : Nat) : Nat := max (s.mgrJob j).fsStep (s.jobReg j 0x804)

def State.tellJob (s : State) (j type : Nat) (ws : List Nat) (except : Option Nat) : State :=
  ((s.jobDevs j).filter fun d => some d != except).foldl (fun s d => s.sendCtrl d type (j :: ws)) s

/-- Begin a recovery: ROLLBACK to the devices of the job. A target that is not retained is written off (R693). -/
def State.recoverJob (s : State) (j f cause : Nat) (lost except : Option Nat) (wait : List Nat) : State :=
  let g := s.mgrJob j
  let fs := s.jobFs j
  let kept := decide (f ≤ fs) && decide (fs + 2 ≤ f + s.jobBanks j)
  let s := if kept then s else s.logEv 0x0604 j [f]
  let s := s.putJob { g with
    stepDone := [], fsStep := min fs f, psNext := min g.psNext (f + 1), recovering := true, target := f,
    waitRejoin := (g.waitRejoin ++ wait ++ (if kept then [] else [0xFFFF])).eraseDups }
  s.tellJob j 0x22 [f, cause, lost.getD 0xFFFF] except

/-- FULL_STOP, with SWITCH when every report is pending with one tag (R414, R416, R677). -/
def State.declare (s : State) (j t : Nat) (reports : List (Nat × List Nat)) : State :=
  let pend := reports.filter fun r => bit (r.2.getD 1 0) 1
  let tags := (pend.map fun r => r.2.getD 3 0).eraseDups
  let all := pend.length == reports.length && tags.length == 1
  let s := if 1 < tags.length then s.logEv 0x0204 j [t] else s
  (s.putJob { s.mgrJob j with fsStep := t }).tellJob j 0x21 [t, if all then 1 else 0] none

/-- Judge the reports on step `t` (R677, R678, R698). -/
def State.judge (s : State) (j t : Nat) : State :=
  let g := s.mgrJob j
  let reports := g.stepDone.filter fun r => r.2.getD 0 0 == t
  let bad := reports.filter fun r => !bit (r.2.getD 1 0) 0
  if g.recovering ∨ t ≠ s.jobFs j + 1 then s
  else if !bad.isEmpty then
    if bad.any fun r => r.2.getD 6 0 + r.2.getD 7 0 != 0 then s.recoverJob j (g.psNext - 1) 3 none none []
    else s.recoverJob j (bad.foldl (fun a r => min a (r.2.getD 2 0 - 1)) (t - 1)) 0 none none []
  else if (s.jobDevs j).all (fun d => reports.any fun r => r.1 == d) ∧ (!s.jobParity j ∨ t ≤ g.psNext) then s.declare j t reports
  else s

/-- STEP_DONE at the manager. -/
def State.onStepDone (s : State) (p : Packet) : State :=
  s.arriveCtrl p 0x20 false fun s =>
    let j := pktWord p 0 % 4096
    if !s.isManager ∨ !(s.jobDevs j).contains p.src then s
    else
      let g := s.mgrJob j
      (s.putJob { g with stepDone := sput p.src (upto 1 8 |>.map (pktWord p)) g.stepDone }).judge j (pktWord p 1)

def execStepDone (p : Packet) (s : State) : Host.Outcome State Fault Refusal := act (.stepDone p) (s.onStepDone p)

/-- DELTAS_DONE at the manager: PARITY_STOP once every rank has sent it; a Full Stop may have waited for it (R677, R700). -/
def State.onDeltasDone (s : State) (p : Packet) : State :=
  s.arriveCtrl p 0x23 false fun s =>
    let j := pktWord p 0 % 4096
    let t := pktWord p 1
    if !s.isManager ∨ !(s.jobDevs j).contains p.src then s
    else
      let g := s.mgrJob j
      let g := { g with deltasDone := sput p.src t g.deltasDone }
      let s := s.putJob g
      if (s.jobDevs j).all fun d => g.deltasDone.any fun e => e.1 == d && e.2 == t then
        ((s.putJob { g with psNext := max g.psNext (t + 1) }).tellJob j 0x24 [t] none).judge j (t + 1)
      else s

def execDeltasDone (p : Packet) (s : State) : Host.Outcome State Fault Refusal := act (.deltasDone p) (s.onDeltasDone p)

/-- WARM_NOTICE: ROLLBACK with cause 2 to every other member, for each job of the sender (R714). -/
def State.warmed (s : State) (d : Nat) : State :=
  (s.mgr.ranks.filter fun r => r.1 == d).foldl (fun s r =>
    if (s.mgrJob r.2.1).waitRejoin.contains d then s else s.recoverJob r.2.1 (s.jobFs r.2.1) 2 none (some d) [d]) s

def State.onWarmNotice (s : State) (p : Packet) : State :=
  s.arriveCtrl p 0x27 false fun s => if s.isManager then s.warmed p.src else s

def execWarmNotice (p : Packet) (s : State) : Host.Outcome State Fault Refusal := act (.warmNotice p) (s.onWarmNotice p)

/-- The lost set is recoverable: in every group and segment, lost members and shares with a lost holder are at most R (R702). -/
def State.lossOk (s : State) (j : Nat) (lost : List Nat) : Bool :=
  let ds := s.jobDevs j
  let g := s.jobG j
  let ng := ds.length / g
  let gone := fun rank => lost.contains (ds.getD rank 0xFFFF)
  s.jobParity j && ds.length % g == 0 && decide (s.jobShares j < ng) &&
  (List.range ng).all fun k => (List.range g).all fun f =>
    decide (((List.range g).filter fun m => gone (k * g + m)).length +
      ((List.range (s.jobShares j)).filter fun r => gone ((k + 1 + r) % ng * g + f)).length ≤ s.jobShares j)

/-- A device is lost: its jobs roll back to the last Parity Stop, or cannot be recovered (R703, R705). -/
def State.loseDevice (s : State) (d : Nat) : State :=
  let s := s.modMember d fun m => { m with lost := true }
  (s.mgr.ranks.filter fun r => r.1 == d).foldl (fun s r =>
    let j := r.2.1
    let g := s.mgrJob j
    let lost := s.mgr.members.filterMap fun m => if m.lost then some m.dev else none
    if s.lossOk j lost ∧ 0 < g.psNext then s.recoverJob j (g.psNext - 1) 1 (some d) (some d) [d]
    else (s.logEv 0x0604 j [d]).recoverJob j (s.jobFs j) 1 (some d) (some d) [d, 0xFFFF]) s

/-- REJOIN: VERIFIED, the device goes on as after a warm reset; otherwise it is lost (R705, R715). -/
def State.onRejoin (s : State) (p : Packet) : State :=
  s.arriveCtrl p 0x28 false fun s =>
    let j := pktWord p 0 % 4096
    if !s.isManager then s
    else if !bit (pktWord p 2) 0 then s.loseDevice p.src
    else
      let s := (s.modMember p.src fun m => { m with suspectAt := none }).warmed p.src
      let g := s.mgrJob j
      let s := s.putJob { g with waitRejoin := g.waitRejoin.filter fun d => d != p.src }
      if pktWord p 1 ≠ g.target ∨ g.recovering then s.sendCtrl p.src 0x22 [j, g.target, 2, 0xFFFF] else s

def execRejoin (p : Packet) (s : State) : Host.Outcome State Fault Refusal := act (.rejoin p) (s.onRejoin p)

/-- A rank record: stored in rank order; one of a new device takes the place of a device that its job has lost. When a
record is whole, the job's rank table is sent (R674, R707; log entry 49). -/
def insRank (r : Nat × Nat × List Word) : List (Nat × Nat × List Word) → List (Nat × Nat × List Word)
  | [] => [r]
  | q :: t => if r.1 < q.1 ∨ (r.1 = q.1 ∧ r.2.1 < q.2.1) then r :: q :: t else q :: insRank r t

def State.putRecord (s : State) (d j first : Nat) (ws : List Word) : State :=
  let l := s.mgr.ranks
  let l := if l.any fun r => r.1 == d && r.2.1 == j then
      l.map fun r => if r.1 == d && r.2.1 == j then (d, j, r.2.2.take first ++ ws) else r
    else match (s.mgrJob j).waitRejoin.find? fun e => (s.member? e).any Member.lost && l.any fun r => r.1 == e && r.2.1 == j with
      | some e => l.map fun r => if r.1 == e && r.2.1 == j then (d, j, ws) else r
      | none => insRank (d, j, ws) l
  { s with mgr := { s.mgr with ranks := l } }

/-- RANK_TABLE to the devices of a job: 64 device IDs by rank. -/
def State.sendRanks (s : State) (j version : Nat) : State :=
  let ds := s.jobDevs j
  let ids := (List.range 32).map fun k => ds.getD (2 * k) 0xFFFF + 2 ^ 16 * ds.getD (2 * k + 1) 0xFFFF
  s.tellJob j 0x26 (version :: ids) none

def State.onRankRecord (s : State) (p : Packet) : State :=
  s.arriveCtrl p (ctrlType 5) false fun s =>
    if !s.isManager then s
    else
      let j := pktWord p 0 % 4096
      let first := pktWord p 1
      let ws := toWords (p.payload.drop 8)
      let before := s.jobDevs j
      let s := s.putRecord p.src j first ws
      let gone := before.filter fun d => !(s.jobDevs j).contains d
      let g := s.mgrJob j
      let s := if gone.isEmpty then s else s.putJob { g with
        waitRejoin := (g.waitRejoin.filter fun d => !gone.contains d) ++ [p.src] }
      if first + ws.length < rankOffsets.length then s
      else s.sendRanks j (s.jobDevs j).length

def execRankRecord (p : Packet) (s : State) : Host.Outcome State Fault Refusal := act (.rankRecord p) (s.onRankRecord p)

/-! ## Heartbeats (R615, R705, R712, R769, R770) -/

/-- A recovery has run its course: every ROLLBACK is acknowledged and no device is awaited; RESUME goes out (R674). -/
def State.resumeJobs (s : State) : State :=
  s.mgr.jobs.foldl (fun s g =>
    let out := s.fab.send.any fun f => f.stored.any fun e => e.pkt.kind == .ctrlMsg && e.pkt.arg == 0x22 && leAt e.pkt.payload 0 4 % 4096 == g.job
    if !g.recovering || !g.waitRejoin.isEmpty || out || (s.jobParity g.job && decide (g.psNext ≤ g.target)) then s
    else (s.putJob { g with recovering := false }).tellJob g.job 0x25 [g.target, (s.jobDevs g.job).length] none) s

/-- Every millisecond: a member reports its demand, the manager sends each member its grant. -/
def State.sendBeat (s : State) : State :=
  if !s.ready ∨ (!s.fab.admitted ∧ !s.isManager) ∨ (s.fab.beatAt ≠ 0 ∧ s.clock.now < s.fab.beatAt + ms) then s
  else
    let s := { s with fab := { s.fab with beatAt := max 1 s.clock.now } }
    if s.isManager then
      (s.serving.foldl (fun s m => s.sendCtrl m.dev (ctrlType 2) [0, m.grant]) s).resumeJobs
    else s.sendCtrl s.managerId (ctrlType 2) [0, s.rf 0x20010 0 12]

def execHeartbeatSend (s : State) : Host.Outcome State Fault Refusal := act .heartbeatSend s.sendBeat

def State.onHeartbeat (s : State) (p : Packet) : State :=
  s.arriveCtrl p (ctrlType 2) false fun s =>
    if s.isManager then s.modMember p.src fun m => { m with heardAt := s.clock.now, demand := pktWord p 1 }
    else
      { s with
        fab := { s.fab with mgrHeard := s.clock.now, mgrLost := false },
        pow := { s.pow with grantNext := some (pktWord p 1 % 4096) } }

def execHeartbeat (p : Packet) (s : State) : Host.Outcome State Fault Refusal := act (.heartbeat p) (s.onHeartbeat p)

/-- Three periods without a heartbeat of a member. -/
def State.suspect (s : State) (m : Nat) : State :=
  let d := s.devId / 64 * 64 + m
  match s.member? d with
  | some k =>
    if s.isManager ∧ k.admitted ∧ !k.lost ∧ k.suspectAt.isNone ∧ k.heardAt + 3 * ms ≤ s.clock.now then
      s.modMember d fun k => { k with suspectAt := some s.clock.now }
    else s
  | none => s

def execMemberSuspect (m : Nat) (s : State) : Host.Outcome State Fault Refusal := act (.memberSuspect m) (s.suspect m)

/-- Three periods without a heartbeat of the manager: a record, the base grant, the contexts in RECOVERY. -/
def State.loseManager (s : State) : State :=
  if s.isManager ∨ !s.fab.admitted ∨ s.fab.mgrLost ∨ s.clock.now < s.fab.mgrHeard + 3 * ms then s
  else
    let s := State.logEv { s with fab := { s.fab with mgrLost := true }, pow := { s.pow with grantNext := none } } 0x0408 0 [s.managerId]
    let s := (s.setF 0x20008 0 12 (clampLimit (s.rf 0x20004 0 12))).effective
    (List.range 16).foldl State.enterRecovery s

def execManagerLost (s : State) : Host.Outcome State Fault Refusal := act .managerLost s.loseManager

/-- T_GRACE of a suspect member, without a REJOIN (R705, R706). -/
def State.graceEnd (s : State) (m : Nat) : State :=
  let d := s.devId / 64 * 64 + m
  match (s.member? d).bind Member.suspectAt with
  | some t =>
    if s.isManager ∧ !(s.member? d).any Member.lost ∧ t + ms * min 1000 (s.rf (dieOff 0 0x38024) 0 10) ≤ s.clock.now then s.loseDevice d
    else s
  | none => s

def execTGrace (m : Nat) (s : State) : Host.Outcome State Fault Refusal := act (.tGrace m) (s.graceEnd m)

/-! ## Fabric time (R616 to R621, R831, R832) -/

def word2 (v : Nat) : List Nat := [v % 2 ^ 32, v / 2 ^ 32 % 2 ^ 32]
def pktPair (p : Packet) (k : Nat) : Nat := leAt p.payload (4 * k) 8

def State.timeMaster (s : State) : Bool := s.rf (dieOff 0 0x38020) 1 1 == 1

/-- Every millisecond a worker asks its manager, a manager asks the time master, device 0 (log entry 50). -/
def State.sendTimeReq (s : State) : State :=
  if !s.ready ∨ s.timeMaster ∨ (s.fab.timeAt ≠ 0 ∧ s.clock.now < s.fab.timeAt + ms) then s
  else
    let t1 := s.clock.fab
    let s := s.sendCtrl (if s.isManager then 0 else s.managerId) (ctrlType 3) (0 :: word2 t1)
    { s with fab := { s.fab with timeAt := max 1 s.clock.now }, clock := { s.clock with reqT1 := some t1 } }

def execTimeExchange (s : State) : Host.Outcome State Fault Refusal := act .timeExchange s.sendTimeReq

def State.onTimeReq (s : State) (p : Packet) : State :=
  s.arriveCtrl p (ctrlType 3) true fun s =>
    if s.isManager then s.sendCtrl p.src (ctrlType 4) (0 :: word2 (pktPair p 1) ++ word2 s.clock.fab ++ word2 s.clock.fab) else s

def execTimeReq (p : Packet) (s : State) : Host.Outcome State Fault Refusal := act (.timeReq p) (s.onTimeReq p)

/-- A signed number of nanoseconds, saturating to 16 bits. -/
def sat16 (v : Int) : Nat := unsigned 16 (max (-32768) (min 32767 v))

/-- An exchange has measured an offset: the offset is corrected by rate, or stepped forwards at JOIN when above 10 µs. -/
def State.setOffset (s : State) (off : Int) : State :=
  let step := !s.clock.fabSet && decide (10000 < off)
  let c := if step then { s.clock with fab := (s.clock.fab + off.toNat) % 2 ^ 64, slew := 0 } else { s.clock with slew := off }
  let left := if step then 0 else off
  let bound : Int := if s.isManager then 250 else 50
  let locked := decide (-bound ≤ left) && decide (left ≤ bound)
  let far := s.clock.fabSet && (decide (1000 < off) || decide (off < -1000))
  let t := { s with clock := { c with fabSet := true, reqT1 := none, lostLogged := !locked && (c.lostLogged || far) } }
  let t := (t.setF (dieOff 0 0x38020) 0 1 (if locked then 1 else 0)).setF (dieOff 0 0x38020) 16 16 (sat16 off)
  if far && !s.clock.lostLogged then t.logEv 0x0409 0 [sat16 off] else t

/-- TIME_RSP: four timestamps, equal delay both ways. -/
def State.onTimeRsp (s : State) (p : Packet) : State :=
  s.arriveCtrl p (ctrlType 4) true fun s =>
    if s.clock.reqT1 ≠ some (pktPair p 1) then s
    else
      let t1 : Int := pktPair p 1
      let t2 : Int := pktPair p 3
      let t3 : Int := pktPair p 5
      let t4 : Int := s.clock.fab
      s.setOffset (((t2 - t1) + (t3 - t4)) / 2)

def execTimeRsp (p : Packet) (s : State) : Host.Outcome State Fault Refusal := act (.timeRsp p) (s.onTimeRsp p)

/-- A rising edge on PPS_IN: a manager aligns it with the nearest whole second, unless it lies more than 1 ms away. -/
def State.ppsEdge (s : State) : State :=
  if !s.ready ∨ !s.isManager then s
  else
    let r := s.clock.fab % 1000000000
    let off : Int := if r < 500000000 then -(r : Int) else 1000000000 - (r : Int)
    if off < -1000000 ∨ 1000000 < off then s.setF (dieOff 0 0x38020) 2 1 0
    else State.setF { s with clock := { s.clock with slew := off } } (dieOff 0 0x38020) 2 1 1

def execPpsIn (s : State) : Host.Outcome State Fault Refusal := act .ppsIn s.ppsEdge

/-- PPS_OUT: high for 100 ms from each whole second of fabric time while LOCKED. -/
def State.ppsPulse (s : State) : State :=
  let on := s.rf (dieOff 0 0x38020) 0 1 == 1 && decide (s.clock.fab % 1000000000 < 100000000)
  { s with rst := { s.rst with ppsOut := on }, clock := { s.clock with ppsAt := if on then some s.clock.fab else s.clock.ppsAt } }

def execPpsOut (s : State) : Host.Outcome State Fault Refusal := act .ppsOut s.ppsPulse

end Sys2Proof.Machine
end

