-- ==== Sys2Proof/Machine/MemCtl.lean ====
section
/-! DEFINITION. Stack controllers: write-combining flushes, patrol scrub, retraining, temperature (12 R635 to R651). -/
namespace Sys2Proof.Machine

/-- A write-combining entry 1 µs old is flushed (R636). -/
def State.wcFlush (s : State) (line : Nat) : State :=
  { s with wc := s.wc.filter fun e => !(e.line == line && decide (e.since + 1000 ≤ s.clock.now)) }

def execWcFlush (line : Nat) (s : State) : Host.Outcome State Fault Refusal := act (.wcFlush line) (s.wcFlush line)

/-- Physical stack number of an index among the stacks in service. -/
def State.stackNo (s : State) (k : Nat) : Nat := s.rst.stacksIn.getD k 0

/-- Remap a row to its pseudo-channel's pool of 4,096 rows, or report the pool empty (R622, R643). -/
def State.remapRow (s : State) (d : DramLoc) : State :=
  let k := s.stackNo d.stack
  let row := (k, d.channel, d.sid, d.bank, d.row)
  if s.stores.remaps.contains row then s
  else if 4096 ≤ (s.stores.remaps.filter fun r => r.1 == k && r.2.1 == d.channel).length then s.logEv 0x0503 0 [k, d.channel]
  else
    let n := sget 0 s.stores.rowsRemapped k + 1
    let s := { s with stores := { s.stores with
      remaps := s.stores.remaps ++ [row], rowsRemapped := sput k n s.stores.rowsRemapped,
      rowErrs := s.stores.rowErrs.filter fun e => e.1 != row } }
    (s.setF (stackOff k 0x10) 0 16 (satw 16 n)).logEv 0x0502 0 [k, d.channel, d.bank + 16 * d.sid, d.row]

/-- The row of a data line, or of a Diacritic line: Diacritic rows are counted on from the last data row (R653). -/
def scrubLoc (diac : Bool) (off n : Nat) : DramLoc :=
  let d := hbmMap off n
  if diac then { d with row := 11904 + d.row } else d

/-- A row's scrub passes with a correctable error, this one among them. -/
def State.rowPasses (s : State) (row : Nat × Nat × Nat × Nat × Nat) (pass : Nat) : List Nat :=
  insNat pass (((s.stores.rowErrs.find? fun e => e.1 == row).map Prod.snd).getD [])

/-- PATROL_SCRUB of a codeword of a data line or of a Diacritic line (R638, R639, R642, R643). -/
def State.scrub (s : State) (pass : Nat) (diac : Bool) (off : Nat) (found : ScrubFind) : State :=
  let d := scrubLoc diac off (max 1 s.stacksOk)
  let k := s.stackNo d.stack
  if (if diac then s.dataBytes / 256 else s.dataBytes) ≤ off ∨ s.rf (stackOff k 4) 0 3 ≠ 3 ∨ s.rf (stackOff k 0) 16 8 = 0 then s
  else match found with
  | .clean => s
  | .corrected =>
    let s := s.count32 (stackOff k 8) 1
    let row := (k, d.channel, d.sid, d.bank, d.row)
    let ps := s.rowPasses row pass
    let s := { s with stores := { s.stores with rowErrs := s.stores.rowErrs.filter (fun e => e.1 != row) ++ [(row, ps)] } }
    if 4 ≤ ps.length then s.remapRow d else s
  | .uncorrectable =>
    let s := s.count32 (stackOff k 0xC) 1
    let cw := if diac then diacCw (hbmBase + 256 * off) else (hbmBase + off) / 64
    State.remapRow { s with poison := insNat cw s.poison } d

def execPatrolScrub (pass : Nat) (diac : Bool) (off : Nat) (found : ScrubFind) (s : State) : Host.Outcome State Fault Refusal :=
  act (.patrolScrub pass diac off found) (s.scrub pass diac off found)

/-- CHANNEL_RETRAIN (R646): failing lanes are repaired while spares last; one too many makes the stack FAILED (R624). -/
def State.channelRetrain (s : State) (k ch fails spares : Nat) : State :=
  if s.rf (stackOff k 4) 0 3 ≠ 3 then s
  else
    let n := min fails spares
    let m := sget 0 s.stores.lanesRepaired k + n
    let s := if n = 0 then s
      else State.setF { s with stores := { s.stores with lanesRepaired := sput k m s.stores.lanesRepaired } } (stackOff k 0x14) 0 16 (satw 16 m)
    let s := (List.range n).foldl (fun s _ => s.logEv 0x0504 0 [k, ch]) s
    if spares < fails then s.setF (stackOff k 4) 0 3 6 else s

def execChannelRetrain (stack ch fails spares : Nat) (s : State) : Host.Outcome State Fault Refusal :=
  act (.channelRetrain stack ch fails spares) (s.channelRetrain stack ch fails spares)

/-- The throttle level after a temperature report (R650). -/
def throttle (th old temp : Nat) : Nat :=
  if old = 3 ∨ 105 ≤ temp then 3
  else if th + 3 < temp ∨ (old = 2 ∧ th + 1 < temp) then 2
  else if th < temp ∨ (1 ≤ old ∧ th < temp + 2) then 1
  else 0

/-- TEMP_REPORT (R650, R651, R662). -/
def State.tempReport (s : State) (k temp : Nat) : State :=
  if s.stacks ≤ k then s
  else
    let th := min 100 (max 70 (s.rf (stackOff k 0) 8 8))
    let old := s.rf (stackOff k 4) 3 2
    let new := throttle th old temp
    let s := (s.setF (stackOff k 4) 8 8 temp).setF (stackOff k 4) 3 2 new
    let was := s.pow.refreshDouble
    let rd := if 85 < temp then insNat k s.pow.refreshDouble
      else if temp ≤ 83 then s.pow.refreshDouble.filter (· != k) else s.pow.refreshDouble
    let s := { s with pow := { s.pow with refreshDouble := rd } }
    let s := if new = old ∧ rd.contains k = was.contains k then s else s.sensorEvent (16 + k) temp
    if new = old then s
    else if new = 3 then ((s.setF (stackOff k 4) 0 3 4).logEv 0x0505 0 [k, new]).logEv 0x0506 0 [k, temp]
    else s.logEv 0x0505 0 [k, new]

def execTempReport (stack temp : Nat) (s : State) : Host.Outcome State Fault Refusal :=
  act (.tempReport stack temp) (s.tempReport stack temp)

end Sys2Proof.Machine
end

