-- ==== Sys2Proof/Machine/Xhsx.lean ====
section
/-! DEFINITION. Control cores: the Xhsx instructions and the words that spell them, accesses to memory through the data cache, and accesses to other devices (01 R42, R43; 06 R307 to R311; 09 R469, R470; log entry 44). -/
namespace Sys2Proof.Machine

/-! ## The core as Xhsx sees it -/

/-- The core executes instructions: its cluster is in service, no semaphore instruction stalls it. -/
def State.coreRuns (s : State) (c : Nat) : Bool :=
  s.ready && !s.rst.clusterInReset.contains c && !s.pow.asleep.contains c && !s.pow.deepDies.contains (c / 16) &&
  (s.core c).waiting.isNone

/-- x[rd] takes a value; x0 stays 0. -/
def State.setX (s : State) (c rd v : Nat) : State :=
  s.modCore c fun k => { k with x := if rd = 0 then k.x else sset 0#32 rd (BitVec.ofNat 32 v) k.x }

/-! ## SEM_INSTRUCTION (R461, R469, R470, R482) -/

/-- An operation on a semaphore that the core's job owns; `old` is the value before it. -/
def State.coreSem (s : State) (c n rd sop u i v : Nat) : State :=
  let old := s.semVal u i
  let port := 16 * c
  match sop with
  | 0 => (s.semAdd u i v).setX c rd old
  | 1 =>
    if s.ringForbids u i port false then s.trapCore c .accessFault
    else
      let (t, under) := s.semSub u i v
      (if under then t.semUnder n u i else t).setX c rd old
  | 4 => (s.semPut u i v).setX c rd old
  | 5 => s.setX c rd old
  | _ =>
    let w : Wait := ⟨u, i, v, sop == 3⟩
    if w.acquire && s.ringForbids u i port true then s.trapCore c .accessFault
    else match s.tryWait w with
    | some t => t.setX c rd old
    | none => s.modCore c fun k => { k with waiting := some (rd, w, s.clock.now, false) }

/-- The semaphore instruction: bits [18:0] of x[rs1] name a local semaphore, x[rs2] is the operand. -/
def State.semInstr (s : State) (c rd sop : Nat) (v1 v2 : Word) : State :=
  if !s.coreRuns c then s
  else if 6 ≤ sop ∨ (sop = 4 ∧ s.granted = 0) then s.trapCore c .illegalInstruction
  else
    let u := fld v1 13 6
    let i := fld v1 0 13
    match s.coreCtx c with
    | none => s.trapCore c .accessFault
    | some n =>
      if badSem u i || s.noDie u || !s.semOwned u i (s.jobId n) then s.trapCore c .accessFault
      else s.coreSem c n rd sop u i v2.toNat

/-- SEM_INSTRUCTION. -/
def execSemInstruction (c rd sop : Nat) (v1 v2 : Word) (s : State) : Host.Outcome State Fault Refusal :=
  act (.semInstruction c rd sop v1 v2) (s.semInstr c rd sop v1 v2)

/-! ## The VSE queue of the core (R307 to R311, R673) -/

/-- VSTAB: the stream table's SSM address and number of entries. -/
def State.vstab (s : State) (c : Nat) (v1 v2 : Word) : State :=
  if !s.coreRuns c then s else s.modCore c fun k => { k with tabBase := v1.toNat, tabCount := v2.toNat }

def execVstab (c : Nat) (v1 v2 : Word) (s : State) : Host.Outcome State Fault Refusal := act (.vstab c v1 v2) (s.vstab c v1 v2)

/-- What stands for a descriptor while an issued instruction runs: the core's context, no check of Diacritics. A core
that works for no context has no recipe table. -/
def State.coreInst (s : State) (c : Nat) : Inst :=
  let n := (s.coreCtx c).getD 16
  let job := if n < 16 then s.jobId n else 0
  { Inst.fresh (2 ^ 40 + c) 1024 n 0 true [BitVec.ofNat 32 (3 + 2 ^ 11 + job * 2 ^ 16)] with
    queue := 0x40 + c, phase := .started, step := if n < 16 then s.fsStep n + 1 else 0, epoch := if n < 16 then s.epoch n else 0 }

/-- The scalars that an issued instruction captures: sc0 and sc27 to sc31 read 0. -/
def State.coreScalars (s : State) (c : Nat) : List Nat :=
  (List.range 32).map fun k => if k = 0 ∨ 27 ≤ k then 0 else (sget 0#32 (s.core c).sc k).toNat

/-- Run one issued instruction; its status. Its events are no descriptor's and are not counted (R161). -/
def State.coreIssue (s : State) (c a : Nat) : State × Nat :=
  let k := s.core c
  if k.tabCount = 0 ∨ 8 < k.tabCount ∨ ssmSize < k.tabBase + 48 * k.tabCount then (s, 8)
  else
    let rd := fun o n => memRead s.mem (ssmBase c + o) n
    let p := mkProg (rd k.tabBase (48 * k.tabCount) ++ rd a 16) k.tabCount 1
    let x := s.coreInst c
    match s.progBad x p false false true, p.chains with
    | none, chain :: _ =>
      let v : VEnv := ⟨x, c, s.coreScalars c, List.range (p.chainRows chain), [], 0, false, 1, 1, s.coreScalars c⟩
      let ls := (s.chainLinks v p false chain [] []).1
      match ls.findSome? fun l => l.2.bad with
      | some b => (s, b.1)
      | none =>
        let rows := (List.range v.rows.length).map fun j => mergeChunks (ls.map fun l => l.2.rows.getD j Chunk.empty)
        let (good, rest, halt) := s.runChunks x [] rows
        let (outs, ren) := keptOuts good rest (if halt.isNone then ls.map fun l => l.2.fin else []) halt.isSome
        let s := (s.putAll x outs ren).touch c
        (s, match halt with | some h => h.status | none => 0)
    | _, _ => (s, 8)

/-- VISSUE: held while a STEP of the core's job is open. -/
def State.vissue (s : State) (c : Nat) (v1 : Word) : State :=
  if !s.coreRuns c || (match s.coreCtx c with | some n => s.stepOpen n | none => false) then s
  else if ssmSize < v1.toNat + 16 then s.trapCore c .accessFault
  else
    let (t, st) := s.coreIssue c v1.toNat
    t.modCore c fun k => { k with vfail := if k.vfail = 0 then st else k.vfail }

def execVissue (c : Nat) (v1 : Word) (s : State) : Host.Outcome State Fault Refusal := act (.vissue c v1) (s.vissue c v1)

/-- VWAIT: every issued instruction is complete when its VISSUE has run; x[rd] takes the first failure. -/
def State.vwait (s : State) (c rd : Nat) : State :=
  if !s.coreRuns c then s else (s.setX c rd (s.core c).vfail).modCore c fun k => { k with vfail := 0 }

def execVwait (c rd : Nat) (s : State) : Host.Outcome State Fault Refusal := act (.vwait c rd) (s.vwait c rd)

/-- SCW. -/
def State.scw (s : State) (c rd : Nat) (v1 : Word) : State :=
  if !s.coreRuns c then s
  else if rd = 0 ∨ 27 ≤ rd then s.trapCore c .illegalInstruction
  else s.modCore c fun k => { k with sc := sset 0#32 rd v1 k.sc }

def execScw (c rd : Nat) (v1 : Word) (s : State) : Host.Outcome State Fault Refusal := act (.scw c rd v1) (s.scw c rd v1)

/-- SCR. -/
def State.scr (s : State) (c rd rs1 : Nat) : State :=
  if !s.coreRuns c then s else s.setX c rd ((s.coreScalars c).getD rs1 0)

def execScr (c rd rs1 : Nat) (s : State) : Host.Outcome State Fault Refusal := act (.scr c rd rs1) (s.scr c rd rs1)

/-! ## The data cache and other devices (R41 to R43, R847) -/

/-- CACHE_INVALIDATE: the 64-byte lines that the range touches leave the data cache. -/
def State.cacheInvalidate (s : State) (c a len : Nat) : State :=
  if !s.coreRuns c then s
  else s.modCore c fun k => { k with dcache := k.dcache.filter fun l => !(len != 0 && decide (l.1 < a + len) && decide (a < l.1 + 64)) }

def execCacheInvalidate (c addr len : Nat) (s : State) : Host.Outcome State Fault Refusal :=
  act (.cacheInvalidate c addr len) (s.cacheInvalidate c addr len)

/-- Lines that the 32 KiB data cache of a core holds (R39, log entry 67). -/
def dcacheLines : Nat := 512

/-- A line comes into a core's data cache; a full cache gives up one of its lines, a free value says which. -/
def State.fillLine (s : State) (c line : Nat) : State :=
  if (s.core c).dcache.any fun l => l.1 == line then s
  else
    let bs := s.rd (s.coreCtx c) line 64
    let (k, s) := if (s.core c).dcache.length < dcacheLines then (dcacheLines, s) else s.free 9
    s.modCore c fun q => { q with dcache := q.dcache.eraseIdx k ++ [(line, bs)] }

/-- Lines that `len` bytes at an address touch, and the bytes that a core's cache holds there. -/
def cacheLines (a len : Nat) : List Nat := (touchedCw a len).map (64 * ·)
def Core.cached (k : Core) (a len : Nat) : List Byte :=
  (upto a len).map fun b => match k.dcache.find? fun l => l.1 == b / 64 * 64 with | some l => l.2.getD (b % 64) 0#8 | none => 0#8

/-- The line with bytes replaced from an offset on. -/
def patchLine (l : Nat × List Byte) (a : Nat) (d : List Byte) : Nat × List Byte :=
  (l.1, (l.2.zipIdx).map fun p => if a ≤ l.1 + p.2 ∧ l.1 + p.2 < a + d.length then d.getD (l.1 + p.2 - a) 0#8 else p.1)

/-- The range lies in the private HBM window of a cluster's core (R41). -/
def inCoreWindow (c a len : Nat) : Bool :=
  decide (c < 32) && decide (hbmBase + (Config.coreWindow c).1 ≤ a) && decide (a + len ≤ hbmBase + (Config.coreWindow c).1 + (Config.coreWindow c).2)

/-- A load brings its bytes. -/
def State.coreLoaded (s : State) (c : Nat) (bs : List Byte) : State :=
  if c < 32 then s.modCore c fun k => { k with loaded := bs } else s.answer .mgmt bs false

/-- An access to memory of this device: through the data cache in the core's private window, past it elsewhere (R41). A
store goes to memory and to a line that the cache holds (log entry 67). -/
def State.coreMemory (s : State) (c a : Nat) (op : CoreOp) : State :=
  let n := if c < 32 then s.coreCtx c else none
  match op with
  | .store d =>
    let s := s.wr n a d
    if inCoreWindow c a d.length then s.modCore c fun k => { k with dcache := k.dcache.map fun l => patchLine l a d } else s
  | .load len =>
    if inCoreWindow c a len then
      let s := (cacheLines a len).foldl (fun s l => s.fillLine c l) s
      s.coreLoaded c ((s.core c).cached a len)
    else s.coreLoaded c (s.rd n a len)

/-- An access to the registers of this device, by aligned word (R41). -/
def State.coreRegister (s : State) (c a : Nat) (op : CoreOp) : State :=
  let f : Fn := if c < 32 then .core c else .mgmt
  if a % 4 ≠ 0 ∨ op.len ≠ 4 then s.trapAt c .accessFault op.isStore a
  else match op with
  | .store d => s.regWrite f a (BitVec.ofNat 32 (leNat d))
  | .load _ => if isAlias a then s.bcastReadCmd f a else let (v, s) := s.regRead f a; s.coreLoaded c (leBytes 4 v.toNat)

/-- A load or store whose address names this device. Host memory is reached by descriptors only (R44); the SRAM of the
management cores is theirs alone. -/
def State.coreLocal (s : State) (c a : Nat) (op : CoreOp) : State :=
  if 32 ≤ c ∧ Config.tcmBase ≤ a ∧ a + op.len ≤ Config.tcmBase + 2 * mib then
    match op with
    | .store d => { s with tcm := memWrite s.tcm (a - Config.tcmBase) d }
    | .load len => s.coreLoaded c (memRead s.tcm (a - Config.tcmBase) len)
  else if !s.mapped a op.len || isHost a then s.trapAt c .accessFault op.isStore a
  else if a < 0x4000000 then s.coreRegister c a op
  else s.coreMemory c a op

/-- CORE_REMOTE_ACCESS: a load or store by a control core or a management core. One that names another device raises the
access fault and its record (R43, R847); one that names this device is an ordinary access (R39, R41, R42). -/
def State.coreRemote (s : State) (c a : Nat) (op : CoreOp) : State :=
  if (if c < 32 then !s.coreRuns c else !s.rst.aodUp) then s
  else if !s.isOwn a then (s.logViolation ((s.coreCtx c).getD 0) a).trapAt c .accessFault op.isStore a
  else s.coreLocal c (locOf a) op

def execCoreRemoteAccess (c addr : Nat) (store : CoreOp) (s : State) : Host.Outcome State Fault Refusal :=
  act (.coreRemoteAccess c addr store) (s.coreRemote c addr store)

/-! ## The words of Xhsx (R40, R310, R469) -/

/-- Fields of an R-type word: opcode, rd, funct3, rs1, rs2, funct7. -/
def rType (w : Word) : Nat × Nat × Nat × Nat × Nat × Nat :=
  (fld w 0 7, fld w 7 5, fld w 12 3, fld w 15 5, fld w 20 5, fld w 25 7)

/-- A register of the core's program; x0 is 0. -/
def Core.xr (k : Core) (r : Nat) : Word := if r = 0 then 0#32 else sget 0#32 k.x r

/-- The command that an instruction word of a core's program gives: custom-0 with funct7 = 0 the VSE's instructions, custom-1
with funct7 = 0 the semaphore instruction; none for a word that Xhsx does not define. -/
def Core.xhsx (k : Core) (c : Nat) (w : Word) : Option Instr :=
  let (op, rd, f3, rs1, rs2, f7) := rType w
  if f7 ≠ 0 then none
  else if op = 0x0B then
    match f3 with
    | 0 => some (.vstab c (k.xr rs1) (k.xr rs2))
    | 1 => some (.vissue c (k.xr rs1))
    | 2 => some (.vwait c rd)
    | 3 => some (.scw c rd (k.xr rs1))
    | 4 => some (.scr c rd rs1)
    | _ => none
  else if op = 0x2B then some (.semInstruction c rd f3 (k.xr rs1) (k.xr rs2))
  else none

end Sys2Proof.Machine
end

