-- ==== Sys2Proof/Machine/Dispatch.lean ====
section
/-! DEFINITION. One arm per command: the meaning of each row of the table. -/
namespace Sys2Proof.Machine

/-- The effect of a command on everything but the queue of waiting commands. -/
def exec (i : Instr) (s : State) : Host.Outcome State Fault Refusal :=
  match i with
  | .sqTailDb f page off width value => Sys2Proof.Machine.execSqTailDb f page off width value s
  | .cqHeadDb f page off width value => Sys2Proof.Machine.execCqHeadDb f page off width value s
  | .ctrHeadDb f ctx value => Sys2Proof.Machine.execCtrHeadDb f ctx value s
  | .descriptorFetch sq readOk => Sys2Proof.Machine.execDescriptorFetch sq readOk s
  | .descriptorAccessStart d => Sys2Proof.Machine.execDescriptorAccessStart d s
  | .completionRecord d => Sys2Proof.Machine.execCompletionRecord d s
  | .cqCoalTimer cq => Sys2Proof.Machine.execCqCoalTimer cq s
  | .move d => Sys2Proof.Machine.execMove d s
  | .gemm d flips => Sys2Proof.Machine.execGemm d flips s
  | .vstream d => Sys2Proof.Machine.execVstream d s
  | .quant d => Sys2Proof.Machine.execQuant d s
  | .gather d => Sys2Proof.Machine.execGather d s
  | .scatter d => Sys2Proof.Machine.execScatter d s
  | .scatterAdd d => Sys2Proof.Machine.execScatterAdd d s
  | .hotLoad d => Sys2Proof.Machine.execHotLoad d s
  | .hotInvalidate d => Sys2Proof.Machine.execHotInvalidate d s
  | .route d => Sys2Proof.Machine.execRoute d s
  | .permute d => Sys2Proof.Machine.execPermute d s
  | .combine d => Sys2Proof.Machine.execCombine d s
  | .scan d => Sys2Proof.Machine.execScan d s
  | .update d => Sys2Proof.Machine.execUpdate d s
  | .openWin d => Sys2Proof.Machine.execOpenWin d s
  | .send d => Sys2Proof.Machine.execSend d s
  | .verify d => Sys2Proof.Machine.execVerify d s
  | .parity d => Sys2Proof.Machine.execParity d s
  | .topk d => Sys2Proof.Machine.execTopk d s
  | .semAdd d => Sys2Proof.Machine.execSemAdd d s
  | .semSub d => Sys2Proof.Machine.execSemSub d s
  | .semWaitGe d => Sys2Proof.Machine.execSemWaitGe d s
  | .semAcquire d => Sys2Proof.Machine.execSemAcquire d s
  | .semSet d => Sys2Proof.Machine.execSemSet d s
  | .semRead d => Sys2Proof.Machine.execSemRead d s
  | .rseal d => Sys2Proof.Machine.execRseal d s
  | .fence d => Sys2Proof.Machine.execFence d s
  | .stepDesc d => Sys2Proof.Machine.execStepDesc d s
  | .stepClose d => Sys2Proof.Machine.execStepClose d s
  | .plan d => Sys2Proof.Machine.execPlan d s
  | .dump d => Sys2Proof.Machine.execDump d s
  | .parityInit d => Sys2Proof.Machine.execParityInit d s
  | .drain d => Sys2Proof.Machine.execDrain d s
  | .restore d => Sys2Proof.Machine.execRestore d s
  | .rebuild d => Sys2Proof.Machine.execRebuild d s
  | .rearmStart ctx handle => Sys2Proof.Machine.execRearmStart ctx handle s
  | .windowComplete job wid shadow => Sys2Proof.Machine.execWindowComplete job wid shadow s
  | .packetForward die link p => Sys2Proof.Machine.execPacketForward die link p s
  | .packetAgeExpiry ix => Sys2Proof.Machine.execPacketAgeExpiry ix s
  | .write p => Sys2Proof.Machine.execWrite p s
  | .readReq p => Sys2Proof.Machine.execReadReq p s
  | .readRsp p => Sys2Proof.Machine.execReadRsp p s
  | .signal p => Sys2Proof.Machine.execSignal p s
  | .semOp p => Sys2Proof.Machine.execSemOp p s
  | .diac p => Sys2Proof.Machine.execDiac p s
  | .dense p => Sys2Proof.Machine.execDense p s
  | .sparse p => Sys2Proof.Machine.execSparse p s
  | .digest p => Sys2Proof.Machine.execDigest p s
  | .expq p => Sys2Proof.Machine.execExpq p s
  | .expr p => Sys2Proof.Machine.execExpr p s
  | .expqRetry d => Sys2Proof.Machine.execExpqRetry d s
  | .sumcmp p => Sys2Proof.Machine.execSumcmp p s
  | .parityPacket p => Sys2Proof.Machine.execParityPacket p s
  | .ack p => Sys2Proof.Machine.execAck p s
  | .nack p => Sys2Proof.Machine.execNack p s
  | .ackSend src => Sys2Proof.Machine.execAckSend src s
  | .cgCancel p => Sys2Proof.Machine.execCgCancel p s
  | .resendTimeout dst seq => Sys2Proof.Machine.execResendTimeout dst seq s
  | .busyResend dst seq => Sys2Proof.Machine.execBusyResend dst seq s
  | .peerUnreachable p => Sys2Proof.Machine.execPeerUnreachable p s
  | .creditReturnTimer member => Sys2Proof.Machine.execCreditReturnTimer member s
  | .flowEviction src => Sys2Proof.Machine.execFlowEviction src s
  | .linkTrainingStart link => Sys2Proof.Machine.execLinkTrainingStart link s
  | .linkTrainingEnd link up peerPort peerDev => Sys2Proof.Machine.execLinkTrainingEnd link up peerPort peerDev s
  | .linkFailed link n => Sys2Proof.Machine.execLinkFailed link n s
  | .linkSignalLoss link => Sys2Proof.Machine.execLinkSignalLoss link s
  | .linkState p => Sys2Proof.Machine.execLinkState p s
  | .retrain f link => Sys2Proof.Machine.execRetrain f link s
  | .linkEnable f link on => Sys2Proof.Machine.execLinkEnable f link on s
  | .join => Sys2Proof.Machine.execJoin s
  | .admitMsg p => Sys2Proof.Machine.execAdmitMsg p s
  | .heartbeatSend => Sys2Proof.Machine.execHeartbeatSend s
  | .heartbeat p => Sys2Proof.Machine.execHeartbeat p s
  | .memberSuspect m => Sys2Proof.Machine.execMemberSuspect m s
  | .managerLost => Sys2Proof.Machine.execManagerLost s
  | .tGrace m => Sys2Proof.Machine.execTGrace m s
  | .timeExchange => Sys2Proof.Machine.execTimeExchange s
  | .timeReq p => Sys2Proof.Machine.execTimeReq p s
  | .timeRsp p => Sys2Proof.Machine.execTimeRsp p s
  | .ppsIn => Sys2Proof.Machine.execPpsIn s
  | .ppsOut => Sys2Proof.Machine.execPpsOut s
  | .stepDone p => Sys2Proof.Machine.execStepDone p s
  | .fullStop p => Sys2Proof.Machine.execFullStop p s
  | .rollback p => Sys2Proof.Machine.execRollback p s
  | .deltasDone p => Sys2Proof.Machine.execDeltasDone p s
  | .parityStop p => Sys2Proof.Machine.execParityStop p s
  | .resume p => Sys2Proof.Machine.execResume p s
  | .rankTable p => Sys2Proof.Machine.execRankTable p s
  | .warmNotice p => Sys2Proof.Machine.execWarmNotice p s
  | .rejoin p => Sys2Proof.Machine.execRejoin p s
  | .semWake unit bank => Sys2Proof.Machine.execSemWake unit bank s
  | .waiterLend port => Sys2Proof.Machine.execWaiterLend port s
  | .poolOffer c => Sys2Proof.Machine.execPoolOffer c s
  | .runOnFire ctx => Sys2Proof.Machine.execRunOnFire ctx s
  | .semInstruction c rd sop v1 v2 => Sys2Proof.Machine.execSemInstruction c rd sop v1 v2 s
  | .vstab c v1 v2 => Sys2Proof.Machine.execVstab c v1 v2 s
  | .vissue c v1 => Sys2Proof.Machine.execVissue c v1 s
  | .vwait c rd => Sys2Proof.Machine.execVwait c rd s
  | .scw c rd v1 => Sys2Proof.Machine.execScw c rd v1 s
  | .scr c rd rs1 => Sys2Proof.Machine.execScr c rd rs1 s
  | .cacheInvalidate c addr len => Sys2Proof.Machine.execCacheInvalidate c addr len s
  | .coreRemoteAccess c addr store => Sys2Proof.Machine.execCoreRemoteAccess c addr store s
  | .bind f ctx => Sys2Proof.Machine.execBind f ctx s
  | .start f ctx => Sys2Proof.Machine.execStart f ctx s
  | .quiesce f ctx => Sys2Proof.Machine.execQuiesce f ctx s
  | .abort f ctx => Sys2Proof.Machine.execAbort f ctx s
  | .release f ctx => Sys2Proof.Machine.execRelease f ctx s
  | .flr vf => Sys2Proof.Machine.execFlr vf s
  | .sqEnable f sq v => Sys2Proof.Machine.execSqEnable f sq v s
  | .sqDisable f sq v => Sys2Proof.Machine.execSqDisable f sq v s
  | .cqEnable f cq v => Sys2Proof.Machine.execCqEnable f cq v s
  | .cqDisable f cq v => Sys2Proof.Machine.execCqDisable f cq v s
  | .fetchErrClear f sq => Sys2Proof.Machine.execFetchErrClear f sq s
  | .ringEnable f c r ctx => Sys2Proof.Machine.execRingEnable f c r ctx s
  | .lexHotEn f n v => Sys2Proof.Machine.execLexHotEn f n v s
  | .semBankOwnerWrite f unit bank v => Sys2Proof.Machine.execSemBankOwnerWrite f unit bank v s
  | .debugSemWrite f unit index v => Sys2Proof.Machine.execDebugSemWrite f unit index v s
  | .step0Write f ctx v => Sys2Proof.Machine.execStep0Write f ctx v s
  | .arm f ctx => Sys2Proof.Machine.execArm f ctx s
  | .disarm f ctx => Sys2Proof.Machine.execDisarm f ctx s
  | .dbgChallenge f => Sys2Proof.Machine.execDbgChallenge f s
  | .submit f level slot => Sys2Proof.Machine.execSubmit f level slot s
  | .drop f => Sys2Proof.Machine.execDrop f s
  | .go f level cluster => Sys2Proof.Machine.execGo f level cluster s
  | .marginRun f stack v => Sys2Proof.Machine.execMarginRun f stack v s
  | .marginRunEnd stack lo hi => Sys2Proof.Machine.execMarginRunEnd stack lo hi s
  | .evlogSel f seq => Sys2Proof.Machine.execEvlogSel f seq s
  | .fabricTimeLoRead f => Sys2Proof.Machine.execFabricTimeLoRead f s
  | .calLoRead f => Sys2Proof.Machine.execCalLoRead f s
  | .bar4Access f off len data => Sys2Proof.Machine.execBar4Access f off len data s
  | .broadcastWrite f off v => Sys2Proof.Machine.execBroadcastWrite f off v s
  | .broadcastRead f off => Sys2Proof.Machine.execBroadcastRead f off s
  | .registerWrite f off v => Sys2Proof.Machine.execRegisterWrite f off v s
  | .powerOn kept => Sys2Proof.Machine.execPowerOn kept s
  | .brownOut3v3 => Sys2Proof.Machine.execBrownOut3v3 s
  | .brownOut54v => Sys2Proof.Machine.execBrownOut54v s
  | .rstL ns => Sys2Proof.Machine.execRstL ns s
  | .wrstL ns => Sys2Proof.Machine.execWrstL ns s
  | .resetRelease => Sys2Proof.Machine.execResetRelease s
  | .perst port low => Sys2Proof.Machine.execPerst port low s
  | .watchdogExpiry => Sys2Proof.Machine.execWatchdogExpiry s
  | .debugReset f level cluster => Sys2Proof.Machine.execDebugReset f level cluster s
  | .clockFailure => Sys2Proof.Machine.execClockFailure s
  | .clockReturn => Sys2Proof.Machine.execClockReturn s
  | .controlCoreLockup c => Sys2Proof.Machine.execControlCoreLockup c s
  | .managementCoreLockup => Sys2Proof.Machine.execManagementCoreLockup s
  | .clusterReset c => Sys2Proof.Machine.execClusterReset c s
  | .warmReset => Sys2Proof.Machine.execWarmReset s
  | .coldRelease o => Sys2Proof.Machine.execColdRelease o s
  | .powerOnRelease => Sys2Proof.Machine.execPowerOnRelease s
  | .leakL ns => Sys2Proof.Machine.execLeakL ns s
  | .emergencyPowerDown cause => Sys2Proof.Machine.execEmergencyPowerDown cause s
  | .flowCount pulses => Sys2Proof.Machine.execFlowCount pulses s
  | .thermistorRead tin tout => Sys2Proof.Machine.execThermistorRead tin tout s
  | .slowLoop avg10 avg1 peak die => Sys2Proof.Machine.execSlowLoop avg10 avg1 peak die s
  | .fastClamp peak => Sys2Proof.Machine.execFastClamp peak s
  | .clampRelease peak => Sys2Proof.Machine.execClampRelease peak s
  | .clusterSleep c => Sys2Proof.Machine.execClusterSleep c s
  | .dieDeep d => Sys2Proof.Machine.execDieDeep d s
  | .ioDieLight d => Sys2Proof.Machine.execIoDieLight d s
  | .ioDieDeep d => Sys2Proof.Machine.execIoDieDeep d s
  | .wakeEvent e => Sys2Proof.Machine.execWakeEvent e s
  | .dieWake d => Sys2Proof.Machine.execDieWake d s
  | .wcFlush line => Sys2Proof.Machine.execWcFlush line s
  | .patrolScrub pass diac off found => Sys2Proof.Machine.execPatrolScrub pass diac off found s
  | .channelRetrain stack ch fails spares => Sys2Proof.Machine.execChannelRetrain stack ch fails spares s
  | .tempReport stack temp => Sys2Proof.Machine.execTempReport stack temp s
  | .calendarCorrection => Sys2Proof.Machine.execCalendarCorrection s
  | .getVersion => Sys2Proof.Machine.execGetVersion s
  | .getCapabilities => Sys2Proof.Machine.execGetCapabilities s
  | .negotiateAlgorithms p384sha384 => Sys2Proof.Machine.execNegotiateAlgorithms p384sha384 s
  | .getDigests => Sys2Proof.Machine.execGetDigests s
  | .getCertificate slot off len => Sys2Proof.Machine.execGetCertificate slot off len s
  | .challenge slot nonce => Sys2Proof.Machine.execChallenge slot nonce s
  | .getMeasurements index nonce => Sys2Proof.Machine.execGetMeasurements index nonce s
  | .getSensorReading id => Sys2Proof.Machine.execGetSensorReading id s
  | .getPdr handle => Sys2Proof.Machine.execGetPdr handle s
  | .setEventReceiver eid => Sys2Proof.Machine.execSetEventReceiver eid s
  | .setDateTime seconds => Sys2Proof.Machine.execSetDateTime seconds s
  | .getFruRecordTable => Sys2Proof.Machine.execGetFruRecordTable s
  | .firmwareUpdate first off data => Sys2Proof.Machine.execFirmwareUpdate first off data s
  | .verifyComplete => Sys2Proof.Machine.execVerifyComplete s
  | .activateFirmware => Sys2Proof.Machine.execActivateFirmware s
  | .joinReceived p => Sys2Proof.Machine.execJoinReceived p s
  | .rankRecord p => Sys2Proof.Machine.execRankRecord p s
  | .p54vRestored => Sys2Proof.Machine.execP54vRestored s
  | .leakLDeassert => Sys2Proof.Machine.execLeakLDeassert s
  | .pcieLinkTraining port up => Sys2Proof.Machine.execPcieLinkTraining port up s
  | .endpointId eid => Sys2Proof.Machine.execEndpointId eid s

end Sys2Proof.Machine
end

