-- ==== Sys2Proof/Safety.lean ====
section
/-! DEFINITION. What the claims call a safe state, and the words the claims are said in: what is kept, how a descriptor ends, work that runs to its end. -/
namespace Sys2Proof.Machine

/-! ## Invariants -/

/-- Memory and Diacritics in canonical form: keys rising, no zero byte listed. -/
def State.memOk (s : State) : Bool := Memory.wf s.mem && Memory.wf s.diacs

/-- The event log holds at most 2,048 records (R806), numbered below the next sequence number. -/
def State.logOk (s : State) : Bool := decide (s.log.recs.length ≤ 2048) && s.log.recs.all fun r => decide (r.1 < s.log.next)

/-- Sixteen job contexts and thirty-two control cores stand in the state. -/
def State.sized (s : State) : Bool := s.ctxs.length == 16 && s.cores.length == 32

/-! ## What a command keeps -/

/-- Registers agree outside the listed offsets. -/
def State.RegsKept (s t : State) (offs : List Nat) : Prop := ∀ o, o ∉ offs → t.reg o = s.reg o

/-- Bytes of memory agree outside the listed ranges (address, length). -/
def State.BytesKept (s t : State) (rs : List (Nat × Nat)) : Prop :=
  ∀ a, (∀ r ∈ rs, a < r.1 ∨ r.1 + r.2 ≤ a) → memByte t.mem a = memByte s.mem a

/-- Memory, Diacritics and poison agree everywhere. -/
def State.StoresKept (s t : State) : Prop :=
  (∀ a, memByte t.mem a = memByte s.mem a) ∧ (∀ a, t.diacPhys a = s.diacPhys a) ∧ t.poison = s.poison

/-- Offsets of the registers that a change of a semaphore may reach: its value, and HEAD, TAIL and status of the slot rings of
its unit, one of which may wait for it. -/
def semTouch (u i : Nat) : List Nat := semOff u i :: (List.range 64).flatMap fun r => [ringOff u r 20, ringOff u r 24, ringOff u r 28]

/-- Exactly one event-log record is written: its type and its four type-specific words. -/
def State.Logged (s t : State) (type : Nat) (ws : List Nat) : Prop :=
  t.log.next = s.log.next + 1 ∧ ∃ r, t.log.recs.getLast? = some (s.log.next, r) ∧ fld (r.getD 0 0#32) 0 16 = type ∧
    ∀ k < 4, (r.getD (4 + k) 0#32).toNat = ws.getD k 0 % 2 ^ 32

/-! ## How a descriptor ends -/

/-- The descriptor's execution has ended with a status and DETAIL. -/
def State.Ended (t : State) (i status detail : Nat) : Prop :=
  ∃ y, t.inst? i = some y ∧ y.phase = .done ∧ y.status = status ∧ y.detail = detail

/-- The outputs of work that meets no failure, in the order written. -/
def Work.allOuts (w : Work) : List Out := (w.chunks ++ [w.fin]).flatMap Chunk.outs

/-- Work that runs to its end on this device: every range granted, host memory up where it is named, every piece
passing its checks, journal space for what is written, no output on another device or in the register range. -/
structure State.WorkClear (s : State) (x : Inst) (w : Work) : Prop where
  granted : s.workDenied x w = none
  reachable : s.workHostDown w = false
  passes : (s.runChunks x [] w.chunks).2.2 = none
  journal : s.jnlRoom x.ctx ((w.allOuts).map fun o => (locOf o.a, o.bs.length)) = true
  here : ∀ o ∈ w.allOuts, s.isOwn o.a = true ∧ 0x4000000 ≤ locOf o.a
  diacsHere : ∀ c ∈ w.chunks ++ [w.fin], (∀ g ∈ c.ren, s.isOwn g.a = true) ∧ ∀ k ∈ c.car, s.isOwn k.1 = true

/-- Work whose outputs go where their addresses say: no checkpoint region of the context stands in between, and no
output granule has its Diacritic in host memory. -/
structure State.WorkPlain (s : State) (x : Inst) (w : Work) : Prop where
  clear : s.WorkClear x w
  mapped : ∀ o ∈ w.allOuts, ∀ p ∈ granPieces (locOf o.a) o.bs.length, s.regionAt x.ctx p.1 = none ∧ s.place p.1 ≠ .none
  hbm : ∀ c ∈ w.chunks ++ [w.fin], (∀ g ∈ c.ren, isHost (locOf g.a) = false) ∧ ∀ k ∈ c.car, isHost (locOf k.1) = false

/-- Work that ran to its end: its descriptor has ended OK, and memory is what writing its outputs in order gives, each at the
local address that its address names. -/
structure State.Wrote (s t : State) (x : Inst) (w : Work) : Prop where
  ended : t.Ended x.id 0 w.detail
  mem : t.mem = w.allOuts.foldl (fun m o => memWrite m (locOf o.a) o.bs) s.mem

/-- A started descriptor whose turn it is, that waits for nothing and whose operand block of `n` bytes is at hand. -/
structure State.Begun (s : State) (x : Inst) (n : Nat) : Prop where
  here : s.inst? x.id = some x
  started : x.phase = .started
  turn : s.inTurn x = true
  block : x.block.length = n

/-! ## Packets -/

/-- What a packet carries beside the fields that its flow gives it. -/
def bodyOf (p : Packet) : PKind × Nat × Nat × List Byte := (p.kind, p.addr, p.arg, p.payload)

/-- Bodies of the packets stored for a device. -/
def State.outTo (s : State) (d : Nat) : List (PKind × Nat × Nat × List Byte) := (s.sendFlow d).stored.map fun e => bodyOf e.pkt

/-- Exactly these packets have been added to the flows of their destinations, in this order. -/
def State.Sent (s t : State) (pk : List Packet) : Prop :=
  ∀ d, t.outTo d = s.outTo d ++ (pk.filter fun p => p.dst == d).map bodyOf

/-- A manager message. -/
def ctrlPkt (dst type : Nat) (ws : List Nat) : Packet := mkPkt .ctrlMsg dst 0 2 0 type (ofWords (ws.map (BitVec.ofNat 32)))

/-- A sequenced packet that this device takes: intact, for it, new in its flow, not held. -/
structure State.Accepts (s : State) (p : Packet) : Prop where
  fields : p.wf = true
  ready : s.ready = true
  here : p.dst = s.devId
  header : intact p = true
  crc : crcGood p = true
  room : (s.flow? p.src).isSome = true ∨ s.fab.recv.length < 16384
  new : let f := ((s.flow? p.src).getD ⟨p.src, p.seqFloor, [], 0, none, s.clock.now⟩).slide p.seqFloor
    seqDist p.seq f.rbase < 4096 ∧ f.got.contains p.seq = false
  unheld : (s.fab.groups.any fun g => g.src == p.src && g.held.any fun h => h.seq == p.seq) = false

/-- A manager message of a type, in no count group, that its receiver accepts (R798). -/
structure State.Told (s : State) (p : Packet) (type : Nat) (time : Bool) : Prop where
  taken : s.Accepts p
  kind : p.kind = .ctrlMsg
  type : p.arg = type
  plain : p.group = 0
  sender : s.ctrlOk p time = true

/-- The packet's sequence number is marked delivered in its flow. -/
def State.Took (t : State) (p : Packet) : Prop := ∃ f, t.flow? p.src = some f ∧ p.seq ∈ f.got

/-! ## Reset -/

/-- The device is held in a reset of a level and source, with what every device reset clears cleared (R713, R726):
descriptors, rings of the host, semaphores, windows, count groups, flows, finished-tile queues, management harts, the bytes
of every SSM. -/
structure State.InReset (t : State) (level source : Nat) : Prop where
  phase : t.rst.phase = .asserted
  level : t.rst.level = level
  source : t.rst.source = source
  notReady : t.ready = false
  insts : t.insts = []
  wires : t.wakes = []
  combining : t.wc = []
  directory : t.hot = []
  windows : t.fab.windows = []
  flows : t.fab.send = [] ∧ t.fab.recv = []
  groups : t.fab.groups = []
  rings : ∀ g < 1024, t.sqEnabled g = false ∧ t.cqEnabled g = false
  semaphores : ∀ u < 36, ∀ i < semCount u, t.semVal u i = 0
  tiles : t.tileq = []
  harts : t.mcores = List.replicate 4 Hart.reset
  ssm : ∀ c < 32, ∀ o < ssmSize, memByte t.mem (ssmBase c + o) = 0#8

end Sys2Proof.Machine
end

