-- ==== Sys2Proof/Certificates/Slice0/Obligations.lean ====
section
/-! DEFINITION. The claims of this model, one proposition each, for the provers. -/
open Sys2Proof Sys2Proof.Machine

/-! ## The block -/

/-- Log entry 1: with the command `c` at the front of the queue, a step runs `c` on the state with the queue's rest. -/
def Obligations.StepRunsTheFrontCommand : Prop :=
  ∀ (c : Instr) (rest : List Instr) (s : State),
    step { s with pending := c :: rest } = exec c { s with pending := rest }

/-- The model's choice (log entry 2): with nothing waiting, 40 ns of the 25 MHz reference pass. Registers, memory and
descriptors stay as they are, and while the reference is present fabric time moves by 39 to 41 ns (R618, R779). -/
def Obligations.EmptyQueuePassesOneReferencePeriod : Prop :=
  ∀ s : State, s.pending = [] → ∃ t, step s = .next t ∧ t.clock.now = s.clock.now + 40 ∧ s.StoresKept t ∧
    t.regs = s.regs ∧ t.insts = s.insts ∧ t.pending = [] ∧
    (s.rst.clockHeld = true → t.clock.fab = s.clock.fab ∧ t.fab = s.fab) ∧
    (s.rst.clockHeld = false → ∃ d : Nat, 39 ≤ d ∧ d ≤ 41 ∧ t.clock.fab = (s.clock.fab + d) % 2 ^ 64)

/-- Log entry 1 (the model's choice): a command whose operands name things that do not exist stops with the fault
noSuchUnit, and every other command, of whatever kind and in whatever state, answers a next state. -/
def Obligations.EveryWellFormedCommandAnswers : Prop :=
  ∀ (c : Instr) (s : State), (c.wf = true → ∃ t, exec c s = .next t) ∧ (c.wf = false → exec c s = .fault .noSuchUnit)

/-- What the spec states of the machine right after reset: not READY, every context FREE, every semaphore 0 and its bank
without owner, every ring disabled, rings of the host disabled, power limits and calendar as stated. The state after
reset has its memory in canonical form, an event log within its ring, and all its contexts and cores. -/
def Obligations.ResetStateAsStated : Prop :=
  (let s := State.reset
   s.pending = [] ∧ s.ready = false ∧ (∀ n < 16, s.jobState n = 0 ∧ s.fsStep n = 0 ∧ s.parityEn n = false) ∧
   (∀ g < 1024, s.sqEnabled g = false ∧ s.cqEnabled g = false) ∧
   (∀ u < 36, ∀ i < semCount u, s.semVal u i = 0 ∧ s.rf (ownerOff u (i / 64)) 12 1 = 0) ∧
   (∀ c < 32, ∀ r < 64, (s.ring c r).enabled = false) ∧
   (s.reg 0x20000).toNat = 2250 ∧ s.rf 0x10010 0 14 = 1000 ∧ s.rf 0x10010 16 1 = 0 ∧
   s.clock.cal = 0 ∧ s.insts = [] ∧ s.log.recs = []) ∧
  (State.reset.memOk = true ∧ State.reset.logOk = true ∧ State.reset.sized = true)

/-- The lists that hold memory, Diacritics and the management cores' SRAM keep their one canonical form in every step,
whatever command runs: keys strictly rising, no zero byte listed. So equal memories are equal data. -/
def Obligations.EveryStepKeepsMemoryCanonical : Prop :=
  ∀ s t : State, s.memOk = true → Memory.wf s.tcm = true → step s = .next t → t.memOk = true ∧ Memory.wf t.tcm = true

/-- Whatever command runs, the event log holds at most 2,048 records, each numbered below the next sequence number (R806). -/
def Obligations.EveryStepKeepsTheEventLogInItsRing : Prop :=
  ∀ s t : State, s.logOk = true → step s = .next t → t.logOk = true

/-- No command touches the queue of waiting commands, the number of contexts and cores, or the fuses that say which device
this is: variant, stepping, serial number, pin map, key digests. -/
def Obligations.NoCommandChangesQueueSizesOrFuses : Prop :=
  ∀ (c : Instr) (s t : State), s.sized = true → exec c s = .next t →
    t.pending = s.pending ∧ t.sized = true ∧ t.stores.variant = s.stores.variant ∧ t.stores.stepping = s.stores.stepping ∧
    t.stores.serial = s.stores.serial ∧ t.stores.pinMap = s.stores.pinMap ∧ t.stores.keyDigests = s.stores.keyDigests

/-! ## Doorbells, fetch and completion (02) -/

/-- R72, R73: a 32-bit write of SQ_TAIL_DB or CQ_HEAD_DB at its own offset, below the size of its enabled ring, moves the
tail or head and nothing else of the registers; any other write to the page sets DB_ERR of the page's local ring and
writes a DOORBELL_REJECT record that names page and offset. Doorbells of a device that is not READY do nothing. R98:
CTR_HEAD_DB frees counter records of its own context and touches nothing else. -/
def Obligations.DoorbellsMoveTheirRingOrAreRejected : Prop :=
  (∀ (f : Fn) (page off width value : Nat) (s : State), Instr.wf (.sqTailDb f page off width value) = true → s.ready = true →
     let g := pageRing f page
     let v := value % 65536
     let sqGood := width = 4 ∧ off = 0 ∧ v < s.sqSize g ∧ s.sqEnabled g = true
     let cqGood := width = 4 ∧ off = 8 ∧ v < s.cqSize g ∧ s.cqEnabled g = true
     let turned := fun t : State => t.rf (sqOff g 0x14) 0 1 = 1 ∧ s.RegsKept t [sqOff g 0x14] ∧ s.Logged t 0x0102 [page, off] ∧
       t = { s with regs := t.regs, log := t.log, host := t.host }
     (sqGood → ∃ t, exec (.sqTailDb f page off width value) s = .next t ∧ t.sqTail g = v ∧ s.RegsKept t [sqOff g 0x10] ∧
       t = { s with regs := t.regs, host := { s.host with sqPf := t.host.sqPf } }) ∧
     (¬sqGood → ∃ t, exec (.sqTailDb f page off width value) s = .next t ∧ turned t) ∧
     (cqGood → ∃ t, exec (.cqHeadDb f page off width value) s = .next t ∧ t.cqHead g = v ∧ s.RegsKept t [cqOff g 0xC] ∧
       t = { s with regs := t.regs }) ∧
     (¬cqGood → ∃ t, exec (.cqHeadDb f page off width value) s = .next t ∧ turned t)) ∧
  (∀ (f : Fn) (n value : Nat) (s : State), Instr.wf (.ctrHeadDb f n value) = true → s.ready = true → s.sized = true →
     ∃ t, exec (.ctrHeadDb f n value) s = .next t ∧ (t.ctx n).ctrHead = value % 65536 ∧
       t.ctx n = { s.ctx n with ctrHead := (t.ctx n).ctrHead } ∧ (∀ m, m ≠ n → t.ctx m = s.ctx m) ∧ t = { s with ctxs := t.ctxs }) ∧
  (∀ (f : Fn) (page off width value n v : Nat) (s : State), s.ready = false →
     (Instr.wf (.sqTailDb f page off width value) = true →
       exec (.sqTailDb f page off width value) s = .next s ∧ exec (.cqHeadDb f page off width value) s = .next s) ∧
     (Instr.wf (.ctrHeadDb f n v) = true → f.isHost = true → exec (.ctrHeadDb f n v) s = .next s))

/-- R74, R844: a ring that may be fetched loses exactly its front entry, which becomes exactly one descriptor with a
completion entry reserved; it is accepted, or turned away at once with a status and both stamps of the moment (R91); a read
that fails sets FETCH_ERR, leaves SQ_HEAD there and reserves nothing. -/
def Obligations.FetchTakesTheFrontEntryOrStopsAtIt : Prop :=
  ∀ (g : Nat) (s : State), g < 1024 → s.fetchable g = true →
    (s.hostUp = true → ∃ t y, exec (.descriptorFetch g true) s = .next t ∧ t.sqHead g = (s.sqHead g + 1) % s.sqSize g ∧
      t.insts = s.insts ++ [y] ∧ y.id = s.nextInst ∧ y.sq = g ∧ y.ctx = g / 64 ∧ y.cq = s.cqOf g ∧ t.nextInst = s.nextInst + 1 ∧
      y.words = basicWords (toWords (memRead s.mem (s.sqEntry g (s.sqHead g)) 64)) ∧
      (y.phase = .queued ∨ y.phase = .rearm ∨ (y.phase = .done ∧ y.status ≠ 0 ∧ y.startTs = s.clock.fab ∧ y.endTs = s.clock.fab)) ∧
      (t.cqs (s.cqOf g)).reserved = (s.cqs (s.cqOf g)).reserved + 1 ∧ s.RegsKept t [sqOff g 0xC] ∧ s.StoresKept t) ∧
    ∃ t, exec (.descriptorFetch g false) s = .next t ∧ t.rf (sqOff g 0x14) 1 1 = 1 ∧ t.sqHead g = s.sqHead g ∧
      s.RegsKept t [sqOff g 0x14] ∧ t = { s with regs := t.regs }

/-- R82: at the head of its lane, with its fence satisfied and the state check passed, a descriptor without WAIT starts
its access side at once; one with WAIT_GE starts when the value suffices; one with ACQUIRE subtracts at that moment.
It takes fabric time as its start stamp and the step after FS_STEP as its step. R451 (as log entry 66 reads it): the first basic
descriptor of a layer group's backward issues the prefetches that are due, and no others, as MOVE OUTSETs of the context. -/
def Obligations.AccessSideStartsInOrder : Prop :=
  ∀ (i : Nat) (s : State) (x : Inst), s.inst? i = some x → x.phase = .queued → s.unitAwake x.queue = true →
    (x.opcode ≠ 0xF → (s.ahead x).all (fun y => y.phase.begun) = true) → s.fenced x = false →
    (s.stepOpen x.ctx = false ∨ x.unheld = true) → s.epiUnread x = false → s.stateCheck x = none → x.ctx < 16 →
    let w := x.headerWait
    let begins := fun t : State => ∃ y, t.inst? i = some y ∧ y.phase = .started ∧ y.startTs = s.clock.fab ∧
      y.step = s.fsStep x.ctx + 1 ∧ y.words = x.words ∧ s.StoresKept t
    (x.waitMode = 0 → ∃ t, exec (.descriptorAccessStart i) s = .next t ∧ begins t) ∧
    (x.waitMode ≠ 0 → s.semOwned w.unit w.index x.job = true → w.acquire = false → w.n ≤ s.semVal w.unit w.index →
      ∃ t, exec (.descriptorAccessStart i) s = .next t ∧ begins t ∧ t.semVal w.unit w.index = s.semVal w.unit w.index) ∧
    (x.waitMode ≠ 0 → s.semOwned w.unit w.index x.job = true → w.acquire = true → s.ringOf w.unit w.index = none →
      w.n ≤ s.semVal w.unit w.index →
      ∃ t, exec (.descriptorAccessStart i) s = .next t ∧ begins t ∧ t.semVal w.unit w.index = s.semVal w.unit w.index - w.n) ∧
    (x.waitMode ≠ 0 → s.semOwned w.unit w.index x.job = true → w.acquire = false → s.semVal w.unit w.index < w.n →
      ∃ t y, exec (.descriptorAccessStart i) s = .next t ∧ t.inst? i = some y ∧ y.phase = .waiting ∧ y.wait = some w) ∧
    (∀ lg, x.waitMode = 0 → s.sized = true → x.gradLg = some lg → (s.ctx x.ctx).ofl ≠ [] → (s.ctx x.ctx).backs.contains lg = false →
      let c := s.ctx x.ctx
      ∃ t, exec (.descriptorAccessStart i) s = .next t ∧ begins t ∧ lg ∈ (t.ctx x.ctx).backs ∧
        t.nextInst = s.nextInst + (c.due (c.layers.idxOf lg) c.backs.isEmpty).length ∧
        ∀ y ∈ t.insts.drop s.insts.length, y.opcode = 1 ∧ y.moveKind = 2 ∧ y.ctx = x.ctx ∧ y.sq = 1024 ∧ y.phase = .queued)

/-- R90: the 16 bytes that a completion writes at CQ_TAIL of its ring, field by field. -/
def Obligations.CompletionRecordLayout : Prop :=
  ∀ (i : Nat) (s : State) (x : Inst), s.memOk = true → s.sized = true → s.inst? i = some x → x.phase = .done →
    s.packetsOut x = false → x.sq < 1024 → x.cq < 1024 → x.ctx < 16 → x.status < 256 → x.opcode ≠ 0x10 → s.hostUp = true →
    x.parent = none → s.cqEnabled x.cq = true → (x.status = 0 ∧ x.sigOn = true ∧ x.sigSent = false → x.sigDev = s.devId) →
    let size := s.ctrSize x.ctx
    let due := !(x.cnt.zero || s.rf (ctxOff x.ctx 0x128) 16 1 == 0)
    let full := ((s.ctx x.ctx).ctrTail + size - (s.ctx x.ctx).ctrHead) % size == size - 1
    ∃ t, exec (.completionRecord i) s = .next t ∧ t.inst? i = none ∧ t.cqTail x.cq = (s.cqTail x.cq + 1) % s.cqSize x.cq ∧
      let r := toWords (memRead t.mem (hostLocal (s.pairReg (cqOff x.cq 0) (cqOff x.cq 4) + 16 * s.cqTail x.cq)) 16)
      r.length = 4 ∧ wd r 0 = x.w 1 ∧ bits (wd r 1) 0 8 = x.status ∧ bits (wd r 1) 8 8 = x.detail % 256 ∧
      bits (wd r 1) 16 10 = x.sq ∧ bit (wd r 1) 26 = due ∧ bit (wd r 1) 27 = (due && full) ∧
      bit (wd r 1) 28 = decide (2 ^ 32 ≤ x.endTs - x.startTs) ∧ bits (wd r 1) 29 2 = 0 ∧
      bit (wd r 1) 31 = (s.cqs x.cq).phase ∧ wd r 2 = x.startTs % 2 ^ 32 ∧ wd r 3 = x.endTs % 2 ^ 32

/-- R846: a completion ring whose timer has reached CQ_COAL.TIME raises its vector, and count and timer start afresh.
R109, R111: a queued re-arm whose predecessor ended OK takes its place at the end of its lane; one whose predecessor
did not ends with E_ABORT. -/
def Obligations.CoalescingTimersAndQueuedReArms : Prop :=
  (∀ (g : Nat) (s : State) (t0 : Nat), g < 1024 → (s.cqs g).timer = some t0 → s.cqEnabled g = true →
     0 < s.rf (cqOff g 0x14) 16 16 → t0 + 1000 * s.rf (cqOff g 0x14) 16 16 ≤ s.clock.now →
     let v := s.rf (cqOff g 8) 20 11
     let fn := if s.rf (cqOff g 8) 31 1 = 1 then 0 else g / 64 + 1
     (fn = 0 → v ≠ 0) → s.host.msixOff.contains fn = false → s.host.masked.contains ⟨fn, v⟩ = false →
     ∃ t, exec (.cqCoalTimer g) s = .next t ∧ t.host.raised = s.host.raised ++ [⟨fn, v⟩] ∧ (t.cqs g).count = 0 ∧
       (t.cqs g).timer = none ∧ t = { s with host := { s.host with cqs := t.host.cqs, raised := t.host.raised } }) ∧
  (∀ (n h : Nat) (s : State) (y : Inst), n < 16 → h < 256 →
     (s.insts.find? fun z => z.phase == .rearm && z.ctx == n && z.handle == some h) = some y →
     (y.stage = 1 → ∃ t, exec (.rearmStart n h) s = .next t ∧
       t.insts = (s.insts.filter fun x => x.id != y.id) ++ [{ y with phase := .queued, stage := 0 }] ∧ t = { s with insts := t.insts }) ∧
     (y.stage = 2 → ∃ t z, exec (.rearmStart n h) s = .next t ∧ t.inst? y.id = some z ∧ z.phase = .done ∧ z.status = 0xC ∧
       z.startTs = s.clock.fab ∧ z.endTs = s.clock.fab ∧ t = { s with insts := t.insts }))

/-! ## Semaphores (09) -/

/-- R462, R463: ADD saturates at 2^32 − 1, with a SEM_SAT record; SUB stops at 0 with E_UNDERFLOW; SET stores; each as a
local SEM descriptor on a bank of its job. -/
def Obligations.SemaphoreArithmeticOfDescriptors : Prop :=
  ∀ (i : Nat) (s : State) (x : Inst), x.semLocal s = true → s.semOwned x.semUnit x.semIndex x.job = true →
    let u := x.semUnit
    let k := x.semIndex
    let v := s.semVal u k
    let n := x.w 9
    (s.semOf i 0 = some x → ∃ t, exec (.semAdd i) s = .next t ∧ t.semVal u k = min (v + n) (2 ^ 32 - 1) ∧ t.Ended i 0 0 ∧
      s.RegsKept t (semTouch u k) ∧ s.StoresKept t) ∧
    (s.semOf i 1 = some x → s.ringForbids u k x.port false = false →
      ∃ t, exec (.semSub i) s = .next t ∧ t.semVal u k = v - n ∧ t.Ended i (if v < n then 0xB else 0) 0 ∧
        s.RegsKept t (semTouch u k) ∧ s.StoresKept t) ∧
    (s.semOf i 4 = some x → ∃ t, exec (.semSet i) s = .next t ∧ t.semVal u k = n ∧ t.Ended i 0 0 ∧
      s.RegsKept t (semTouch u k) ∧ s.StoresKept t)

/-- R462, R471, R481: a WAIT_GE whose value suffices completes and consumes nothing; an ACQUIRE subtracts, and on a slot
ring moves HEAD or TAIL by as many slots; one that fails sleeps with nothing changed. -/
def Obligations.SemaphoreWaitsOfDescriptors : Prop :=
  ∀ (i : Nat) (s : State) (x : Inst), s.semOwned x.semUnit x.semIndex x.job = true →
    let u := x.semUnit
    let k := x.semIndex
    let v := s.semVal u k
    let n := x.w 9
    (s.semOf i 2 = some x → n ≤ v → ∃ t, exec (.semWaitGe i) s = .next t ∧ t.Ended i 0 0 ∧ t.regs = s.regs ∧ s.StoresKept t) ∧
    (s.semOf i 2 = some x → v < n → ∃ t y, exec (.semWaitGe i) s = .next t ∧ t.inst? i = some y ∧ y.phase = .waiting ∧
      y.wait = some ⟨u, k, n, false⟩ ∧ t = { s with insts := t.insts }) ∧
    (s.semOf i 3 = some x → s.ringOf u k = none → n ≤ v →
      ∃ t, exec (.semAcquire i) s = .next t ∧ t.Ended i 0 0 ∧ t.semVal u k = v - n ∧ s.RegsKept t (semTouch u k) ∧
        s.StoresKept t) ∧
    (∀ g, s.semOf i 3 = some x → s.ringOf u k = some (g, true) → x.port = g.cons → n ≤ v →
      ∃ t, exec (.semAcquire i) s = .next t ∧ t.Ended i 0 0 ∧ t.semVal u k = v - n ∧
        (t.reg (ringOff g.c g.r 20)).toNat = (g.head + n) % 2 ^ 32 ∧ s.RegsKept t (semTouch u k) ∧ s.StoresKept t) ∧
    (s.semOf i 3 = some x → s.ringForbids u k x.port true = false → v < n →
      ∃ t y, exec (.semAcquire i) s = .next t ∧ t.inst? i = some y ∧ y.phase = .waiting ∧ t = { s with insts := t.insts })

/-- R466, R483: a local READ stores the value as four bytes at its result address; an RSEAL of an enabled ring of the
descriptor's context seals it, and the ring that is already whole lifts at once with HEAD and TAIL at 0. -/
def Obligations.SemaphoreReadAndRingSeal : Prop :=
  ∀ (i : Nat) (s : State) (x : Inst), s.memOk = true →
    (s.semOf i 5 = some x → x.semLocal s = true → s.semOwned x.semUnit x.semIndex x.job = true →
      let r := x.a64 10
      r ≠ 0 → locOf r % 4 = 0 → s.isOwn r = true → s.mayAcc x 1 r 4 = true → 0x4000000 ≤ locOf r →
      (isHost (locOf r) = true → s.hostUp = true) → s.regionAt x.ctx (locOf r) = none →
      ∃ t, exec (.semRead i) s = .next t ∧ t.Ended i 0 0 ∧
        memRead t.mem (locOf r) 4 = leBytes 4 (s.semVal x.semUnit x.semIndex) ∧ s.BytesKept t [(locOf r, 4)]) ∧
    (s.semOf i 6 = some x → x.semUnit < 32 → x.semIndex < 64 →
      let g := s.ring x.semUnit x.semIndex
      g.enabled = true → g.ctx = x.ctx → g.isSealed = false →
      ∃ t, exec (.rseal i) s = .next t ∧ t.Ended i 0 0 ∧ s.StoresKept t ∧
        let h := t.ring x.semUnit x.semIndex
        (s.semVal g.c g.empty ≠ g.slots → h.isSealed = true ∧ h.head = g.head ∧ h.tail = g.tail) ∧
        (s.semVal g.c g.empty = g.slots → s.semVal g.c g.full = 0 → g.head = g.tail →
          h.isSealed = false ∧ h.head = 0 ∧ h.tail = 0) ∧
        (s.semVal g.c g.empty = g.slots → ¬(s.semVal g.c g.full = 0 ∧ g.head = g.tail) →
          h.isSealed = true ∧ t.rf (ringOff g.c g.r 28) 1 1 = 1 ∧ s.Logged t 0x0303 [g.c + 32 * g.r]))

/-- R475, R503: every change of a semaphore's value fires the wake wire of its bank, and an operation that leaves the
value as it was changes nothing. R471, R472: at a wake, a sole waiter of WAIT_GE whose value suffices is released and
consumes nothing: a SEM ends, a header WAIT starts the access side; otherwise it sleeps again. A waiting core takes
the value observed. -/
def Obligations.SemaphoreChangesWakeTheirWaiters : Prop :=
  (∀ (s : State) (u i v : Nat), v < 2 ^ 32 → u < 36 → i < semCount u →
     (s.semVal u i ≠ v → (s.semPut u i v).semVal u i = v ∧ (s.semPut u i v).wakes.contains (u, i / 64) = true ∧
       ∀ u' i', u' < 36 → i' < semCount u' → (u', i') ≠ (u, i) → (s.semPut u i v).semVal u' i' = s.semVal u' i') ∧
     (s.semVal u i = v → s.semPut u i v = s)) ∧
  (∀ (u b : Nat) (s : State), u < 36 → b < 128 → s.wakes.contains (u, b) = true →
     (∀ (p i : Nat) (x : Inst) (w : Wait), s.waitersOn u b = [(p, .desc i)] → s.inst? i = some x → x.phase = .waiting →
       x.wait = some w → w.acquire = false → s.stepOpen x.ctx = false →
       let own := x.opcode == 0xB && x.waited
       (w.n ≤ s.semVal w.unit w.index → own = true → ∃ t, exec (.semWake u b) s = .next t ∧ t.Ended i 0 0) ∧
       (w.n ≤ s.semVal w.unit w.index → own = false → ∃ t y, exec (.semWake u b) s = .next t ∧ t.inst? i = some y ∧
         y.phase = .started ∧ y.startTs = s.clock.fab) ∧
       (s.semVal w.unit w.index < w.n → ∃ t y, exec (.semWake u b) s = .next t ∧ t.inst? i = some y ∧ y.phase = .waiting ∧
         y.sleepAt = s.clock.now ∧ t.wakes.contains (u, b) = false)) ∧
     (∀ (p c rd ts : Nat) (w : Wait) (l : Bool), s.sized = true → c < 32 → s.waitersOn u b = [(p, .core c)] →
       (s.core c).waiting = some (rd, w, ts, l) → swf 0#32 (s.core c).x = true → w.acquire = false → w.n ≤ s.semVal w.unit w.index → rd ≠ 0 →
       ∃ t, exec (.semWake u b) s = .next t ∧ (t.core c).waiting = none ∧
         (sget 0#32 (t.core c).x rd).toNat = s.semVal w.unit w.index))

/-! ## Job contexts and rings (02) -/

/-- R101, R102, R103: BIND, START, QUIESCE, ABORT and RELEASE move a context between its states; a command not listed for
the state leaves it and sets CMD_ERR; BIND and RELEASE from a VF are ignored. R101: RELEASE from BOUND or FAULTED, and
FLR from any state, leave the context FREE with its rings disabled and JOB_CFG cleared; after ABORT and FLR no descriptor of
the context is left unfinished but a PLAN, which ends with the completion of its last record (R119). FLR writes completion
records to host memory and no other byte. -/
def Obligations.JobCommandsMoveTheContext : Prop :=
  (∀ (f : Fn) (n : Nat) (s : State), Instr.wf (.bind f n) = true → s.reaches f = true →
     let err := fun t : State => t.rf (ctxOff n 4) 3 1 = 1 ∧ t.jobState n = s.jobState n ∧ s.RegsKept t [ctxOff n 4] ∧
       t = { s with regs := t.regs }
     let only := fun t : State => s.RegsKept t [ctxOff n 4] ∧ s.StoresKept t
     (isPf f = true → s.jobState n = 0 → ∃ t, exec (.bind f n) s = .next t ∧ t.jobState n = 1 ∧ only t) ∧
     (isPf f = true → s.jobState n ≠ 0 → ∃ t, exec (.bind f n) s = .next t ∧ err t) ∧
     (isPf f = false → exec (.bind f n) s = .next s ∧ exec (.release f n) s = .next s) ∧
     (jobFn f n = true → s.jobState n = 1 → s.startOk n = true → ∃ t, exec (.start f n) s = .next t ∧ t.jobState n = 2 ∧ only t) ∧
     (jobFn f n = true → ¬(s.jobState n = 1 ∧ s.startOk n = true) → ∃ t, exec (.start f n) s = .next t ∧ err t) ∧
     (jobFn f n = true → s.jobState n = 2 → (s.insts.any fun x => x.ctx == n && x.sq != 1024) = true →
       ∃ t, exec (.quiesce f n) s = .next t ∧ t.jobState n = 3 ∧ only t) ∧
     (jobFn f n = true → s.jobState n = 2 → (s.insts.any fun x => x.ctx == n && x.sq != 1024) = false →
       ∃ t, exec (.quiesce f n) s = .next t ∧ t.jobState n = 1 ∧ only t) ∧
     (jobFn f n = true → s.jobState n ≠ 2 → ∃ t, exec (.quiesce f n) s = .next t ∧ err t) ∧
     (jobFn f n = true → s.jobState n = 2 ∨ s.jobState n = 3 → ∃ t, exec (.abort f n) s = .next t ∧ t.jobState n = 1 ∧
       (∀ y ∈ t.insts, y.ctx = n → y.phase = .done ∨ s.planRuns y = true) ∧ only t) ∧
     (jobFn f n = true → ¬(s.jobState n = 2 ∨ s.jobState n = 3) → ∃ t, exec (.abort f n) s = .next t ∧ err t) ∧
     (isPf f = true → ¬(s.jobState n = 1 ∨ s.jobState n = 5) → ∃ t, exec (.release f n) s = .next t ∧ err t)) ∧
  (∀ (f : Fn) (n : Nat) (s : State), Instr.wf (.release f n) = true →
     let freed := fun t : State => t.jobState n = 0 ∧ t.jobId n = 0 ∧ t.expertEn n = false ∧
       (∀ g, g / 64 = n → t.sqEnabled g = false ∧ t.cqEnabled g = false) ∧ (∀ w < 4, t.win n w = (0, 0, 0)) ∧
       t.rf (ctxOff n 4) 4 1 = 0 ∧ t.rf (ctxOff n 4) 8 8 = 0 ∧ (∀ a < hostBit, memByte t.mem a = memByte s.mem a) ∧
       (∀ a, t.diacPhys a = s.diacPhys a) ∧ t.poison = s.poison
     (s.reaches f = true → isPf f = true → s.jobState n = 1 ∨ s.jobState n = 5 →
       ∃ t, exec (.release f n) s = .next t ∧ freed t ∧ t.insts = s.insts ∧ t.mem = s.mem) ∧
     ∃ t, exec (.flr n) s = .next t ∧ freed t ∧ ∀ y ∈ t.insts, y.ctx = n → y.phase = .done ∨ s.planRuns y = true)

/-- R70, R71, R844, R845: what writes of SQ_CFG, CQ_CFG and FETCH_ERR do to a ring. -/
def Obligations.RingEnablesStartRingsAfresh : Prop :=
  ∀ (f : Fn) (g : Nat) (v : Word) (s : State), Instr.wf (.sqEnable f g v) = true → s.reaches f = true → ringFn f g = true →
    (s.sqEnabled g = false → ∃ t, exec (.sqEnable f g v) s = .next t ∧ t.sqEnabled g = true ∧ t.sqHead g = 0 ∧ t.sqTail g = 0 ∧
      t.rf (sqOff g 0x18) 0 32 = 0 ∧ t.rf (sqOff g 0x14) 1 1 = 0 ∧ t.rf (sqOff g 8) 0 5 = fld v 0 5 ∧ t.rf (sqOff g 8) 8 6 = fld v 8 6 ∧
      s.RegsKept t [sqOff g 8, sqOff g 0xC, sqOff g 0x10, sqOff g 0x14, sqOff g 0x18] ∧ t = { s with regs := t.regs }) ∧
    (s.sqEnabled g = true → exec (.sqEnable f g v) s = .next s) ∧
    (s.sqEnabled g = true → ∃ t, exec (.sqDisable f g v) s = .next t ∧ t.sqEnabled g = false ∧ t.sqHead g = s.sqHead g ∧
      t.sqTail g = s.sqTail g ∧ t.sqSize g = s.sqSize g ∧ t.cqOf g = s.cqOf g ∧ s.RegsKept t [sqOff g 8] ∧ t = { s with regs := t.regs }) ∧
    (s.cqEnabled g = false → ∃ t, exec (.cqEnable f g v) s = .next t ∧ t.cqEnabled g = true ∧ t.cqHead g = 0 ∧ t.cqTail g = 0 ∧
      (t.cqs g).phase = true ∧ (t.cqs g).reserved = 0 ∧ t.rf (cqOff g 8) 0 5 = fld v 0 5 ∧
      s.RegsKept t [cqOff g 8, cqOff g 0xC, cqOff g 0x10] ∧ s.StoresKept t ∧ t.insts = s.insts) ∧
    (∃ t, exec (.cqDisable f g v) s = .next t ∧ t.cqEnabled g = false ∧ (t.cqs g).reserved = 0 ∧ s.RegsKept t [cqOff g 8] ∧
      s.StoresKept t ∧ t.insts = s.insts) ∧
    ∃ t, exec (.fetchErrClear f g) s = .next t ∧ t.rf (sqOff g 0x14) 1 1 = 0 ∧ t.sqHead g = s.sqHead g ∧
      s.RegsKept t [sqOff g 0x14] ∧ t = { s with regs := t.regs }

/-! ## Registers (01) -/

/-- R16, R841: in every register of the map, a field keeps its value where it is read-only, takes what is written where it
is read-write, loses the bits written as 1 where it is RW1C, and a counter is cleared by any write that is not 0. R16,
R123: a write to the POWER/THERMAL block takes effect by the access codes of its register, when the requester may
write it, on that register alone; a write to no register's block sets UNMAPPED. -/
def Obligations.RegisterWritesFollowTheirAccessCodes : Prop :=
  (∀ (off : Nat) (r : RegRow) (a : Field) (old v : Word) (locked : Bool), findRow off = some r → a ∈ r.fields →
     let x := fld v a.lo a.w
     let was := fld old a.lo a.w
     let now := fld (rowWrite r old v locked) a.lo a.w
     (a.acc = .ro → now = was) ∧ (a.acc = .rw → now = x) ∧ (a.acc = .rwl → now = if locked then was else x) ∧
     (a.acc = .ctr → now = if x = 0 then was else 0) ∧
     (a.acc = .rw1c → ∀ i < a.w, bit now i = (bit was i && !bit x i))) ∧
  (∀ (f : Fn) (off : Nat) (v : Word) (s : State), s.reaches f = true → Instr.wf (.registerWrite f off v) = true →
     (∀ n, f ≠ .vf n) →
     (∀ r, 0x20000 ≤ off → off < 0x30000 → findRow off = some r → s.mayWrite f r.writer off = true →
       ∃ t, exec (.registerWrite f off v) s = .next t ∧ t.reg off = rowWrite r (s.reg off) v (s.rf 0x2002C 0 1 == 1) ∧
         s.RegsKept t [off] ∧ t = { s with regs := t.regs }) ∧
     (∀ r, 0x20000 ≤ off → off < 0x30000 → findRow off = some r → s.mayWrite f r.writer off = false →
       exec (.registerWrite f off v) s = .next s) ∧
     ((off < 0x2000000 ∨ (0x3000000 ≤ off ∧ off < 0x4000000)) → s.unmapped off = true →
       ∃ t, exec (.registerWrite f off v) s = .next t ∧ t.rf globalStatus 4 1 = 1 ∧ s.RegsKept t [globalStatus] ∧ t = { s with regs := t.regs }))

/-- R129, R130: a broadcast read answers the value of the lowest-numbered selected instance, and sets BCAST_MISMATCH with
the number of the lowest-numbered instance that differs. R131: a broadcast access with no selected instance reads 0,
writes nothing, and sets BCAST_EMPTY. With instances selected, a write does to each in turn what a unicast write does. -/
def Obligations.BroadcastAccessesReachTheSelectedInstances : Prop :=
  (∀ (f : Fn) (off : Nat) (s : State) (p : Nat × Nat) (rest : List (Nat × Nat)), Instr.wf (.broadcastRead f off) = true →
     s.reaches f = true → bcastFn f = true → bcastMapped off = true → s.bcastSel off = p :: rest →
     let v := s.regVal f p.2
     ((∀ q ∈ rest, s.regVal f q.2 = v) → ∃ t, exec (.broadcastRead f off) s = .next t ∧
       t.host.lastRead = some (f, leBytes 4 v.toNat, false) ∧ t.regs = s.regs) ∧
     (∀ q, (rest.find? fun q => s.regVal f q.2 != v) = some q → q.1 < 512 → ∃ t, exec (.broadcastRead f off) s = .next t ∧
       t.host.lastRead = some (f, leBytes 4 v.toNat, false) ∧ t.rf globalStatus 2 1 = 1 ∧ t.rf globalStatus 16 9 = q.1 ∧
       s.RegsKept t [globalStatus])) ∧
  (∀ (f : Fn) (off : Nat) (v : Word) (s : State), Instr.wf (.broadcastRead f off) = true → s.reaches f = true → bcastFn f = true →
     bcastMapped off = true →
     (s.bcastSel off = [] →
       (∃ t, exec (.broadcastRead f off) s = .next t ∧ t.host.lastRead = some (f, leBytes 4 0, false) ∧ t.rf globalStatus 3 1 = 1 ∧
         s.RegsKept t [globalStatus]) ∧
       ∃ t, exec (.broadcastWrite f off v) s = .next t ∧ t.rf globalStatus 3 1 = 1 ∧ s.RegsKept t [globalStatus] ∧ t = { s with regs := t.regs }) ∧
     (s.bcastSel off ≠ [] → ∃ t, exec (.broadcastWrite f off v) s = .next t ∧ t = (s.bcastSel off).foldl (fun q p => q.writeAt f p.2 v) s) ∧
     (∀ p, s.bcastSel off = [p] → p.2 < 0x2000000 → canonOff p.2 = p.2 →
       ∃ t, exec (.broadcastWrite f off v) s = .next t ∧ exec (.registerWrite f p.2 v) s = .next t))

/-- R61 to R64: function 0's BAR4 reaches HBM from the rounded base and a VF's the first window of its job; a write stores
its bytes and no Diacritic; what falls outside a VF's window reads 0, writes nothing, and is logged. -/
def Obligations.Bar4ReachesItsWindowOnly : Prop :=
  ∀ (f : Fn) (off o : Nat) (d : List Byte) (s : State), Instr.wf (.bar4Access f off d.length (some d)) = true → s.memOk = true →
    s.ready = true → s.bar4Off f off d.length = some o → d ≠ [] →
    (s.bar4Ok f off d.length = true → o + d.length ≤ s.dataBytes →
      (∃ t, exec (.bar4Access f off d.length (some d)) s = .next t ∧ memRead t.mem (hbmBase + o) d.length = d ∧
        s.BytesKept t [(hbmBase + o, d.length)] ∧ t.diacs = s.diacs ∧ t.regs = s.regs) ∧
      (s.poisonPhys (hbmBase + o) d.length = false → ∃ t, exec (.bar4Access f off d.length none) s = .next t ∧
        t.host.lastRead = some (f, memRead s.mem (hbmBase + o) d.length, false) ∧ s.StoresKept t)) ∧
    (∀ n, f = .vf n → s.bar4Ok f off d.length = false →
      (∃ t ws, exec (.bar4Access f off d.length (some d)) s = .next t ∧ s.StoresKept t ∧ s.Logged t 0x0101 ws) ∧
      ∃ t ws, exec (.bar4Access f off d.length none) s = .next t ∧ s.StoresKept t ∧ s.Logged t 0x0101 ws ∧
        t.host.lastRead = some (f, List.replicate d.length 0#8, false))

/-- R92, R780: a read of the low half of fabric time or of the calendar answers it and latches the high half of the same
instant, for fabric time in the requester's own latch. R808: EVLOG_SEL copies the record of its sequence number into
EVLOG_DATA, eight words, all 0 where none is held. -/
def Obligations.TimeReadsAndEventLogSelect : Prop :=
  (∀ (f : Fn) (s : State), f.wf = true → (∀ n, f ≠ .vf n) → s.reaches f = true →
     (∃ t, exec (.fabricTimeLoRead f) s = .next t ∧ t.host.lastRead = some (f, leBytes 4 s.clock.fab, false) ∧ t.clock = s.clock ∧
       t.regs = s.regs ∧ (swf 0#32 s.host.latches = true → (t.regVal f 0x34).toNat = s.clock.fab / 2 ^ 32 % 2 ^ 32) ∧
       (∀ g : Fn, latchIx g ≠ latchIx f → swf 0#32 s.host.latches = true → t.regVal g 0x34 = s.regVal g 0x34)) ∧
     ∃ t, exec (.calLoRead f) s = .next t ∧ t.host.lastRead = some (f, leBytes 4 s.clock.cal, false) ∧ t.regs = s.regs ∧
       (t.regVal f 0x10044).toNat = s.clock.cal / 2 ^ 32 % 2 ^ 32) ∧
  (∀ (f : Fn) (seq k : Nat) (s : State), Instr.wf (.evlogSel f seq) = true → (∀ n, f ≠ .vf n) → s.reaches f = true → k < 8 →
     ∃ t, exec (.evlogSel f seq) s = .next t ∧ t = { s with regs := t.regs } ∧ (t.reg 0x10108).toNat = seq ∧
       s.RegsKept t (0x10108 :: (List.range 8).map fun j => 0x10120 + 4 * j) ∧
       t.reg (0x10120 + 4 * k) = ((s.log.recs.find? fun e => e.1 == seq).map fun e => e.2.getD k 0#32).getD 0#32)

/-- R460: only function 0 writes SEM_BANK_OWNER; a write that changes it sets the bank's 64 values to 0; a write while a
waiter sleeps on the bank has no effect but a SEM_OWNER_BUSY record. -/
def Obligations.BankOwnerWriteClearsTheBank : Prop :=
  ∀ (f : Fn) (u b : Nat) (v : Word) (s : State), Instr.wf (.semBankOwnerWrite f u b v) = true → s.reaches f = true →
    s.unitFitted u = true → b < semCount u / 64 →
    (isPf f = false → exec (.semBankOwnerWrite f u b v) s = .next s) ∧
    (isPf f = true → s.bankWaited u b = true → ∃ t ws, exec (.semBankOwnerWrite f u b v) s = .next t ∧ s.Logged t 0x0302 ws ∧
      t = { s with log := t.log, host := t.host }) ∧
    (isPf f = true → s.bankWaited u b = false → s.reg (ownerOff u b) ≠ BitVec.ofNat 32 (fld v 0 13) →
      ∃ t, exec (.semBankOwnerWrite f u b v) s = .next t ∧ (∀ i, i / 64 = b → t.semVal u i = 0) ∧
        t.rf (ownerOff u b) 0 13 = fld v 0 13 ∧ t.wakes.contains (u, b) = true ∧ s.StoresKept t ∧
        s.RegsKept t (ownerOff u b :: (List.range 64).flatMap fun j => semTouch u (64 * b + j)) ∧ t.insts = s.insts) ∧
    (isPf f = true → s.bankWaited u b = false → s.reg (ownerOff u b) = BitVec.ofNat 32 (fld v 0 13) →
      exec (.semBankOwnerWrite f u b v) s = .next s)

/-- R511 to R513: a debugger of a granted level sets a semaphore while the device is READY with no context in RECOVERY,
and in any other state changes nothing; each such write is recorded with old value, value and APPLIED. An unauthorised
one has no effect but an access-violation record. -/
def Obligations.DebugSemaphoreWrites : Prop :=
  ∀ (f : Fn) (u i : Nat) (v : Word) (s : State), Instr.wf (.debugSemWrite f u i v) = true → s.reaches f = true →
    s.unitFitted u = true → i < semCount u →
    let rec_ := (List.range 16).any fun n => s.jobState n == 4
    (s.granted ≠ 0 → isPf f = true → s.ready = true → rec_ = false →
      ∃ t r, exec (.debugSemWrite f u i v) s = .next t ∧ t.semVal u i = v.toNat ∧
        (s.semVal u i ≠ v.toNat → t.wakes.contains (u, i / 64) = true) ∧ s.RegsKept t (semTouch u i) ∧ s.StoresKept t ∧ t.insts = s.insts ∧
        t.log.recs.getLast? = some r ∧ fld (r.2.getD 0 0#32) 0 16 = 0x0305 ∧ (r.2.getD 4 0#32).toNat = i + 2 ^ 13 * u ∧
        (r.2.getD 5 0#32).toNat = s.semVal u i ∧ r.2.getD 6 0#32 = v ∧ r.2.getD 7 0#32 = 1#32) ∧
    (s.granted ≠ 0 → isPf f = true → (s.ready = false ∨ rec_ = true) →
      ∃ t, exec (.debugSemWrite f u i v) s = .next t ∧ s.Logged t 0x0305 [i + 2 ^ 13 * u, s.semVal u i, v.toNat, 0] ∧
        t = { s with log := t.log, host := t.host }) ∧
    ((s.granted = 0 ∨ isPf f = false) → ∃ t ws, exec (.debugSemWrite f u i v) s = .next t ∧ s.Logged t 0x0101 ws ∧
      t = { s with log := t.log, host := t.host })

/-- R480: setting ENABLE of a slot ring makes the configuration checks; one that passes starts with HEAD, TAIL, SEALED and
FULL at 0 and EMPTY at S; one that fails stays disabled with CFG_ERR. -/
def Obligations.RingEnableChecksAndStartsTheRing : Prop :=
  ∀ (f : Fn) (c r n : Nat) (s : State), Instr.wf (.ringEnable f c r n) = true → s.reaches f = true → isPf f = true →
    let g := s.ring c r
    g.enabled = false →
    (s.ringOk g n = true → ∃ t, exec (.ringEnable f c r n) s = .next t ∧ s.StoresKept t ∧ t.insts = s.insts ∧
      s.RegsKept t (ringOff c r 16 :: semTouch c g.full ++ semTouch c g.empty) ∧
      let h := t.ring c r
      h.enabled = true ∧ h.ctx = n ∧ h.head = 0 ∧ h.tail = 0 ∧ h.isSealed = false ∧ t.semVal c g.full = 0 ∧ t.semVal c g.empty = g.slots ∧
      h.slots = g.slots ∧ h.base = g.base) ∧
    (s.ringOk g n = false → ∃ t, exec (.ringEnable f c r n) s = .next t ∧ (t.ring c r).enabled = false ∧
      t.rf (ringOff c r 28) 2 1 = 1 ∧ s.RegsKept t [ringOff c r 16, ringOff c r 28] ∧ t = { s with regs := t.regs })

/-- R353, R413, R681: LEX_HOT_EN going to 1 empties the engine's directory; ARM captures the inactive version's tag and
sets PENDING, and while PENDING sets ARM_ERR instead; DISARM clears PENDING; STEP0 of an idle context sets all four
step registers, and of another context nothing. -/
def Obligations.ContextRegistersThatAct : Prop :=
  ∀ (f : Fn) (n : Nat) (v : Word) (s : State), s.reaches f = true → s.sized = true → f.wf = true →
    (isPf f = true → n < 8 → s.rf (lexOff n 4) 12 1 = 0 → fld v 12 1 = 1 → ∃ t, exec (.lexHotEn f n v) s = .next t ∧
      (∀ h ∈ t.hot, h.1 ≠ n) ∧ t.rf (lexOff n 4) 12 1 = 1 ∧ t.rf (lexOff n 4) 8 4 = fld v 8 4 ∧ t.rf (lexOff n 8) 0 18 = 0 ∧ s.StoresKept t) ∧
    (jobFn f n = true → n < 16 → f.ctxOk n = true → s.rcpPending n = true →
      ∃ t, exec (.arm f n) s = .next t ∧ t.rf (ctxOff n 0x20C) 2 1 = 1 ∧ t.rcpPending n = true ∧ s.RegsKept t [ctxOff n 0x20C]) ∧
    (∀ b, jobFn f n = true → n < 16 → f.ctxOk n = true → s.rcpPending n = false → s.recipeBase n (1 - s.epoch n) = some b →
      s.readable (some n) b 64 = true →
      ∃ t, exec (.arm f n) s = .next t ∧ t.rcpPending n = true ∧ (t.ctx n).armTag.toNat = leNat (s.rd (some n) (b + 8) 4) ∧
        t.epoch n = s.epoch n ∧ s.StoresKept t) ∧
    (jobFn f n = true → n < 16 → f.ctxOk n = true → ∃ t, exec (.disarm f n) s = .next t ∧ t.rcpPending n = false ∧
      s.RegsKept t [ctxOff n 0x20C] ∧ t = { s with regs := t.regs }) ∧
    (isPf f = true → n < 16 → s.jobState n < 2 → ∃ t, exec (.step0Write f n v) s = .next t ∧ t.fsStep n = v.toNat ∧ t.psStep n = v.toNat ∧
      t.reg (ctxOff n 0x80C) = v ∧ t.reg (ctxOff n 0x810) = v ∧ t = { s with regs := t.regs }) ∧
    (isPf f = true → n < 16 → 2 ≤ s.jobState n → exec (.step0Write f n v) s = .next s)

/-- R791, R792, R793: CHALLENGE publishes a fresh nonce; a SUBMIT consumes it whatever its outcome, grants its level when
the three checks pass and counts a failure when not; DROP takes the level back. -/
def Obligations.DebugAuthentication : Prop :=
  ∀ (f : Fn) (level slot : Nat) (s : State), Instr.wf (.submit f level slot) = true → s.reaches f = true → isPf f = true →
    (∃ t, exec (.dbgChallenge f) s = .next t ∧ t.rf 0x30004 2 1 = 1 ∧ t.sec.nonceCtr = s.sec.nonceCtr + 1 ∧ t.sec.nonceAt = s.clock.now ∧
      t.reg 0x30040 = BitVec.ofNat 32 (Config.nonce s.sec.nonceCtr).toNat ∧ t.granted = s.granted) ∧
    (s.submitOk level slot = true → ∃ t, exec (.submit f level slot) s = .next t ∧ t.granted = level ∧ t.rf 0x30004 2 1 = 0 ∧
      s.Logged t 0x0804 [level, slot]) ∧
    (s.submitOk level slot = false → ∃ t, exec (.submit f level slot) s = .next t ∧ t.granted = s.granted ∧ t.rf 0x30004 2 1 = 0 ∧
      t.rf 0x30004 4 4 = min 15 (s.rf 0x30004 4 4 + 1) ∧ s.Logged t 0x0805 [level, slot]) ∧
    (8 ≤ s.rf 0x30004 4 4 → s.submitOk level slot = false) ∧
    ∃ t, exec (.drop f) s = .next t ∧ t.granted = 0 ∧ s.RegsKept t [0x30004] ∧ t = { s with regs := t.regs }

/-! ## Memory controllers (12) -/

/-- R648, R649: an authorised margin run takes its stack out of READY, its end zeroes the Diacritics of the stack and
gives READY back with DONE and the result; any other RUN has no effect but an access-violation record. R636, R642,
R643, R646: flushing a write-combining entry leaves memory alone; scrub counts a corrected error, remaps the row at
its fourth sweep and poisons an uncorrectable codeword; retraining repairs failing lanes while spares last, else the
stack is FAILED. -/
def Obligations.StackMarginScrubAndRetrain : Prop :=
  (∀ (f : Fn) (k lo hi : Nat) (v : Word) (s : State), Instr.wf (.marginRun f k v) = true → s.reaches f = true → k < s.stacks →
     lo < 64 → hi < 64 →
     let idle := !(List.range 16).any fun n => decide (2 ≤ s.jobState n)
     (s.granted ≠ 0 → isPf f = true → idle = true → s.rf (stackOff k 4) 0 3 = 3 →
       ∃ t, exec (.marginRun f k v) s = .next t ∧ t.rf (stackOff k 4) 0 3 = 5 ∧ t.rf (stackOff k 0x100) 0 7 = fld v 0 7 ∧
         t.rf (stackOff k 0x100) 8 1 = 0 ∧ s.StoresKept t) ∧
     ((s.granted = 0 ∨ isPf f = false ∨ idle = false) → ∃ t ws, exec (.marginRun f k v) s = .next t ∧ s.Logged t 0x0101 ws ∧
       t = { s with log := t.log, host := t.host }) ∧
     (s.rf (stackOff k 4) 0 3 = 5 → ∃ t, exec (.marginRunEnd k lo hi) s = .next t ∧ t.rf (stackOff k 4) 0 3 = 3 ∧
       t.rf (stackOff k 0x100) 8 1 = 1 ∧ t.rf (stackOff k 0x100) 16 6 = min lo (s.rf (stackOff k 0x100) 0 6) ∧
       t.rf (stackOff k 0x100) 24 6 = min hi (s.rf (stackOff k 0x100) 0 6) ∧ t.mem = s.mem ∧
       ∀ c ∈ t.diacs, c ∈ s.diacs ∧ (4 * (hbmBase / 1024) ≤ c.1 →
         s.rst.stacksIn.getD (hbmMap (c.1 - 4 * (hbmBase / 1024)) (max 1 s.stacksOk)).stack 12 ≠ k))) ∧
  (∀ (pass off line k ch fails spares : Nat) (s : State), off < 2 ^ 47 → k < 12 → ch < 64 →
     (∃ t, exec (.wcFlush line) s = .next t ∧ t = { s with wc := t.wc } ∧
       ∀ e, e ∈ t.wc ↔ e ∈ s.wc ∧ ¬(e.line = line ∧ e.since + 1000 ≤ s.clock.now)) ∧
     (let d := hbmMap off (max 1 s.stacksOk)
      let q := s.stackNo d.stack
      let row := (q, d.channel, d.sid, d.bank, d.row)
      off < s.dataBytes → s.rf (stackOff q 4) 0 3 = 3 → s.rf (stackOff q 0) 16 8 ≠ 0 →
       exec (.patrolScrub pass false off .clean) s = .next s ∧
       (∃ t, exec (.patrolScrub pass false off .corrected) s = .next t ∧
         t.rf (stackOff q 8) 0 32 = min (2 ^ 32 - 1) (s.rf (stackOff q 8) 0 32 + 1) ∧ s.StoresKept t ∧
         (4 ≤ (s.rowPasses row pass).length →
           (s.stores.remaps.filter fun r => r.1 == q && r.2.1 == d.channel).length < 4096 → row ∈ t.stores.remaps)) ∧
       ∃ t, exec (.patrolScrub pass false off .uncorrectable) s = .next t ∧ (hbmBase + off) / 64 ∈ t.poison ∧
         (∀ c ∈ s.poison, c ∈ t.poison) ∧ (∀ a, memByte t.mem a = memByte s.mem a) ∧
         t.rf (stackOff q 0xC) 0 32 = min (2 ^ 32 - 1) (s.rf (stackOff q 0xC) 0 32 + 1)) ∧
     (s.rf (stackOff k 4) 0 3 = 3 → swf 0 s.stores.lanesRepaired = true → ∃ t, exec (.channelRetrain k ch fails spares) s = .next t ∧
       s.StoresKept t ∧ sget 0 t.stores.lanesRepaired k = sget 0 s.stores.lanesRepaired k + min fails spares ∧
       t.log.next = s.log.next + min fails spares ∧ t.rf (stackOff k 4) 0 3 = if spares < fails then 6 else 3))

/-- R650, R651: how the throttle level follows the temperature, and that each change of level is recorded and nothing else
than level, temperature, refresh and STATE of the stack moves. R803: a change of level is told to a registered event
receiver. -/
def Obligations.TemperatureSetsTheThrottleLevel : Prop :=
  ∀ (k temp : Nat) (s : State), k < s.stacks → k < 12 → temp < 256 →
    let th := min 100 (max 70 (s.rf (stackOff k 0) 8 8))
    let old := s.rf (stackOff k 4) 3 2
    ∃ t, exec (.tempReport k temp) s = .next t ∧ s.RegsKept t [stackOff k 4] ∧ s.StoresKept t ∧ t.rf (stackOff k 4) 8 8 = temp ∧
      (85 < temp → k ∈ t.pow.refreshDouble) ∧ (temp ≤ 83 → k ∉ t.pow.refreshDouble) ∧
      let new := t.rf (stackOff k 4) 3 2
      (105 ≤ temp ∨ old = 3 → new = 3) ∧ (temp < 105 → old ≠ 3 → th + 3 < temp → new = 2) ∧ (temp < 105 → old = 2 → th + 1 < temp → new = 2) ∧
      (temp < 105 → old = 2 → temp ≤ th + 1 → th < temp → new = 1) ∧ (temp < 105 → old < 2 → th < temp → temp ≤ th + 3 → new = 1) ∧
      (temp + 2 ≤ th → old ≠ 3 → new = 0) ∧ (temp ≤ th → old = 0 → new = 0) ∧
      (new = old → t.log = s.log) ∧ (new ≠ old → s.log.next < t.log.next) ∧ (new = 3 → old ≠ 3 → t.rf (stackOff k 4) 0 3 = 4) ∧
      (s.ready = true → s.sec.evReceiver.isSome = true → new ≠ old →
        t.sec.replies = s.sec.replies ++ [(26, leBytes 1 (16 + k) ++ leBytes 4 temp)])

/-! ## Reset (14) -/

/-- R728, R733: from a READY device, each source of a device reset asserts the reset of its level and leaves its source
code in RST_CAUSE: power-on and the brown-outs, RST_L and WRST_L low for 5 µs, the watchdog's first expiry and one
within 10 s, requests by software and by an authorised debugger, a management-core lock-up, a clock failure. -/
def Obligations.ResetSourcesReachTheirLevels : Prop :=
  ∀ (s : State) (f : Fn) (ns c : Nat) (kept : Bool), s.rst.phase = .ready → s.ready = true → f.wf = true → isPf f = true → c < 32 → 5000 ≤ ns →
    let resets := fun (cmd : Instr) (level source : Nat) => ∃ t, exec cmd s = .next t ∧ t.InReset level source ∧
      t.rf 0x10004 0 4 = source ∧ t.rf 0x10004 4 2 = level
    resets (.powerOn kept) 3 0 ∧ resets .brownOut3v3 3 1 ∧ resets .brownOut54v 2 2 ∧ resets (.rstL ns) 2 3 ∧
    (s.rst.rstLow = false → resets (.wrstL ns) 1 4) ∧
    (s.rf 0x10010 16 1 = 1 → s.rst.wdtStart + 1000000 * min 10000 (max 10 (s.rf 0x10010 0 14)) ≤ s.clock.now →
      (s.rst.wdtLast = none → resets .watchdogExpiry 1 5) ∧
      (∀ b, s.rst.wdtLast = some b → s.clock.now ≤ b + 10000000000 → resets .watchdogExpiry 2 6) ∧
      (∀ b, s.rst.wdtLast = some b → b + 10000000000 < s.clock.now → resets .watchdogExpiry 1 5)) ∧
    resets (.go f 2 c) 2 7 ∧ resets (.go f 1 c) 1 7 ∧ (s.granted ≠ 0 → resets (.debugReset f 1 c) 1 8) ∧
    (s.rst.clockHeld = false → resets .clockFailure 1 9) ∧ resets .managementCoreLockup 1 0xB

/-- R737: a pulse of RST_L or WRST_L shorter than 1 µs is always ignored, one of 5 µs or longer always recognised, and one
in between either ignored or recognised, which of the two a free value decides. R729: while a reset is in progress, a
source of a lower level is absorbed: it leaves a record and nothing else. -/
def Obligations.ResetPinsFilterAndLowerSourcesAreAbsorbed : Prop :=
  (∀ (s : State) (ns : Nat), s.rst.phase = .ready → s.rst.rstLow = false →
     (ns < 1000 → exec (.rstL ns) s = .next s ∧ exec (.wrstL ns) s = .next s) ∧
     (5000 ≤ ns → (∃ t, exec (.rstL ns) s = .next t ∧ t.InReset 2 3) ∧ ∃ t, exec (.wrstL ns) s = .next t ∧ t.InReset 1 4) ∧
     (1000 ≤ ns → ns < 5000 →
       (∃ t, exec (.rstL ns) s = .next t ∧ (t = { s with freeCtr := s.freeCtr + 1 } ∨ t.InReset 2 3)) ∧
       ∃ t, exec (.wrstL ns) s = .next t ∧ (t = { s with freeCtr := s.freeCtr + 1 } ∨ t.InReset 1 4))) ∧
  (∀ (s : State) (f : Fn) (c : Nat), s.rst.phase ≠ .ready → 2 ≤ s.rst.level → f.wf = true → isPf f = true → s.reaches f = true → c < 32 →
     let absorbed := fun (cmd : Instr) (ws : List Nat) => ∃ t, exec cmd s = .next t ∧ s.Logged t 0x0704 ws ∧ t = { s with log := t.log, host := t.host }
     absorbed .managementCoreLockup [0xB, 1] ∧ absorbed (.controlCoreLockup c) [0xA, 0, c] ∧
     (∀ ns, 5000 ≤ ns → s.rst.rstLow = false → absorbed (.wrstL ns) [4, 1]) ∧
     (s.granted ≠ 0 → absorbed (.debugReset f 1 c) [8, 1] ∧ absorbed (.debugReset f 0 c) [8, 0, c]))

/-- R101, R713: a warm reset keeps HBM with its Diacritics, the heads and tails of the submission rings and the event
log's records, and leaves every running context in RECOVERY and every other as it was. -/
def Obligations.WarmResetKeepsMemoryAndRingPositions : Prop :=
  ∀ (s : State) (ns : Nat), s.memOk = true → s.rst.phase = .ready → s.rst.rstLow = false → 5000 ≤ ns →
    ∃ t, exec (.wrstL ns) s = .next t ∧
      (∀ a, hbmBase ≤ a → memByte t.mem a = memByte s.mem a) ∧
      (∀ a, hbmBase ≤ a → t.diacPhys a = s.diacPhys a) ∧
      (∀ g < 1024, t.sqHead g = s.sqHead g ∧ t.sqTail g = s.sqTail g) ∧
      ∀ n < 16, t.jobState n = if s.jobState n = 2 ∨ s.jobState n = 3 ∨ s.jobState n = 4 then 4 else s.jobState n

/-- R727, R733: a level 0 reset ends the work of its cluster with E_ABORT and holds the cluster; CLUSTER_RESET then clears
the cluster's semaphores, ring enables, core and the bytes of its SSM, no other byte of memory, and takes the cluster
out of reset. -/
def Obligations.ClusterResetClearsItsClusterOnly : Prop :=
  ∀ (s : State) (f : Fn) (c : Nat), f.wf = true → isPf f = true → s.reaches f = true → c < 32 →
    let held := fun (cmd : Instr) => ∃ t, exec cmd s = .next t ∧ t.rst.clusterInReset.contains c = true ∧
      (∀ y ∈ t.insts, clusterWork c y = false ∨ s.planRuns y = true) ∧ s.StoresKept t
    (s.rst.phase = .ready → held (.controlCoreLockup c) ∧ held (.go f 0 c) ∧ (s.granted ≠ 0 → held (.debugReset f 0 c))) ∧
    (s.rst.clusterInReset.contains c = true → ∃ t, exec (.clusterReset c) s = .next t ∧
      t.rst.clusterInReset.contains c = false ∧ (∀ i < 4096, t.semVal c i = 0) ∧ (∀ r < 64, (t.ring c r).enabled = false) ∧
      t.core c = Core.reset ∧ (∀ o < ssmSize, memByte t.mem (ssmBase c + o) = 0#8) ∧ s.BytesKept t [(ssmBase c, ssmSize)] ∧
      t.insts = s.insts)

/-- R742, R745, R786, R749: what a release leads to. The pins high, the release begins; a power-on starts the AOD; a cold
release whose self-test and boot pass makes the device READY with the stacks that trained and its image running;
failing secrets or no bootable image leave it FAILED with FAULT_L; a warm release verifies its kept image, else it
becomes a level 2 reset. -/
def Obligations.ReleaseLeadsToReadyOrFailure : Prop :=
  ∀ (s : State) (o : ColdObs) (img : Image) (fell : Bool), o.wf = true →
    (s.rst.phase = .asserted → State.mayRelease { s with rst := { s.rst with rstLow := false, wrstLow := false } } = true →
      ∃ t, exec .resetRelease s = .next t ∧ t.rst.phase = .released ∧ t.rst.rstLow = false ∧ t.rst.wrstLow = false ∧ t = { s with rst := t.rst }) ∧
    (s.rst.level = 3 → s.rst.phase = .asserted → s.mayRelease = true → s.rst.aodUp = false →
      ∃ t, exec .powerOnRelease s = .next t ∧ t.rst.aodUp = true ∧ t.aodAnswers = s.rst.rail33 ∧ s.StoresKept t) ∧
    (2 ≤ s.rst.level → s.rst.phase ≠ .ready → s.rst.phase ≠ .failed → s.mayRelease = true → (s.rst.level = 3 → s.rst.aodUp = true) →
      (o.secretsClear = true → o.otherFail = none → o.tileFails = [] → s.bootPick = some (img, fell) →
        ∃ t, exec (.coldRelease o) s = .next t ∧ t.ready = true ∧ t.rst.phase = .ready ∧ t.sec.running = some img ∧
          t.rst.stacksIn = (List.range s.stacks).filter (fun k => !o.stackFails.contains k) ∧ t.mem = s.mem) ∧
      (o.secretsClear = false → ∃ t, exec (.coldRelease o) s = .next t ∧ t.rst.phase = .failed ∧ t.rst.faultL = true ∧ t.rf globalStatus 1 1 = 1) ∧
      (o.secretsClear = true → o.otherFail = none → o.tileFails = [] → s.bootPick = none →
        ∃ t, exec (.coldRelease o) s = .next t ∧ t.rst.phase = .failed ∧ t.rst.faultL = true ∧ t.rf globalStatus 1 1 = 1)) ∧
    (s.rst.level = 1 → s.rst.phase = .released → s.mayRelease = true →
      ((s.sec.running.filter s.imageOk).isSome = true → ∃ t, exec .warmReset s = .next t ∧ t.ready = true ∧ t.rst.phase = .ready ∧ s.StoresKept t) ∧
      ((s.sec.running.filter s.imageOk) = none → ∃ t, exec .warmReset s = .next t ∧ t.InReset 2 s.rst.source))

/-- R775, R776: an emergency whose condition holds cuts the device down to a held level 2 reset with FAULT_L and its cause
in PWR_EMERG; so does LEAK_L low for 100 µs, and the end of the leak alone does not release it. R728, R730, R735: the
54 V rail's return, the reference's return, PERST and training of a PCIe port each touch what is theirs and nothing
else. -/
def Obligations.EmergenciesRailsAndPciePorts : Prop :=
  (∀ (s : State) (e : Emergency) (ns : Nat), s.rst.phase = .ready →
     let down := fun (t : State) (b : Nat) => t.InReset 2 0xC ∧ t.rst.faultL = true ∧ t.rf 0x20028 b 1 = 1 ∧ t.mayRelease = false
     (s.emergencyNow e = true → ∃ t, exec (.emergencyPowerDown e) s = .next t ∧ down t (emergencyBit e)) ∧
     (s.emergencyNow e = false → exec (.emergencyPowerDown e) s = .next s) ∧
     (100000 ≤ ns → ∃ t, exec (.leakL ns) s = .next t ∧ down t 0 ∧ t.rst.leakLow = true) ∧
     (ns < 20000 → exec (.leakL ns) s = .next s) ∧
     (∃ t, exec .leakLDeassert s = .next t ∧ t.rst.leakLow = false ∧ t.rst.leakHeld = s.rst.leakHeld ∧ t.rst.faultL = s.rst.faultL ∧ t = { s with rst := t.rst })) ∧
  (∀ (s : State) (p : Nat), p < 2 →
     exec .p54vRestored s = .next { s with rst := { s.rst with rail54 := true } } ∧
     (s.rst.clockHeld = true → ∃ t, exec .clockReturn s = .next t ∧ t.rst = { s.rst with clockHeld := false, refOk := true } ∧ s.StoresKept t ∧
       ∀ k < 12, t.rf (stackOff k 4) 0 3 = if s.rf (stackOff k 4) 0 3 = 4 then 3 else s.rf (stackOff k 4) 0 3) ∧
     (∃ t, exec (.perst p true) s = .next t ∧ p ∈ t.host.perst ∧ p ∉ t.host.trained ∧ (p = 0 → t.host.busMaster = false) ∧ t = { s with host := t.host }) ∧
     (∃ t, exec (.perst p false) s = .next t ∧ p ∉ t.host.perst ∧ t.host.trained = s.host.trained ∧ t = { s with host := t.host }) ∧
     (p ∉ s.host.perst → ∃ t, exec (.pcieLinkTraining p true) s = .next t ∧ p ∈ t.host.trained ∧ t = { s with host := t.host }) ∧
     ∃ t, exec (.pcieLinkTraining p false) s = .next t ∧ p ∉ t.host.trained ∧ t = { s with host := t.host })

/-! ## Power, clocks and time (15) -/

/-- R763, R771, R773, R774: flow and temperatures are measured and published, and after either PWR_EFFECTIVE is the
smallest of the board's limit, the grant, the coolant limit and the temperature limit, in whole watts. R837: an open or shorted
thermistor reports its sensor as failed and counts as the emergency of its side. R803: an inlet temperature that crosses
the threshold of R775 is told to a registered event receiver. -/
def Obligations.CoolantReadingsSetTheEffectiveLimit : Prop :=
  ∀ (s : State) (pulses : Nat) (tin tout : Option Nat),
    let eff := fun (t : State) => t.rf 0x2000C 0 12 = t.limits.foldl min 2250000 / 1000 ∧ s.StoresKept t ∧ t.insts = s.insts ∧
      s.RegsKept t [0x20020, 0x2000C]
    let ppl := s.rf 0x20024 0 16
    (∃ t, exec (.flowCount pulses) s = .next t ∧ eff t ∧ t.pow.coolSeen = true ∧
      t.pow.flow100 = pulses * 6000 / (if ppl = 0 then 600 else ppl) ∧ t.rf 0x20020 0 12 = min t.pow.flow100 4095) ∧
    ∃ t, exec (.thermistorRead tin tout) s = .next t ∧ eff t ∧ t.pow.tin = tin ∧ t.pow.tout = tout ∧
      (∀ x, tin = some x → t.rf 0x20020 16 8 = min x 255) ∧ (∀ x, tout = some x → t.rf 0x20020 24 8 = min x 255) ∧
      (tin = none → t.rf 0x20020 16 8 = s.rf 0x20020 16 8 ∧ t.sensor 40 = .failed ∧ t.emergencyNow .inlet = true) ∧
      (s.ready = true → s.sec.evReceiver.isSome = true → t.emergencyNow .inlet ≠ s.emergencyNow .inlet →
        (26, leBytes 1 40 ++ leBytes 4 (tin.getD 0)) ∈ t.sec.replies)

/-- R764: the slow loop lowers CCLK by one step while the 10 ms average exceeds the effective limit, at 200 MHz it limits
tile issue instead, and it raises again when the average lies more than 5% below the limit, up to 1.8 GHz. A grant
that arrived takes effect first. R765: a peak above 2,350 W clamps tile issue and counts in PWR_CLAMP_COUNT; the clamp
is released once peaks have stayed below 2,250 W for 100 µs. -/
def Obligations.SlowLoopAndFastClamp : Prop :=
  (∀ (s : State) (avg10 avg1 peak die : Nat), ∃ t, exec (.slowLoop avg10 avg1 peak die) s = .next t ∧
     (∀ g, s.pow.grantNext = some g → t.rf 0x20008 0 12 = g % 4096 ∧ t.pow.grantNext = none) ∧ t.pow.dieTemp = die ∧ s.StoresKept t ∧
     let lim := t.limits.foldl min 2250000
     (lim < 1000 * avg10 → 200 < s.pow.cclk → t.pow.cclk = s.pow.cclk - 25 ∧ t.pow.slowIssue = s.pow.slowIssue) ∧
     (lim < 1000 * avg10 → s.pow.cclk ≤ 200 → t.pow.cclk = s.pow.cclk ∧ t.pow.slowIssue = min 2 (s.pow.slowIssue + 1)) ∧
     (1000 * avg10 ≤ lim → 95 * lim ≤ 100000 * avg10 → t.pow.cclk = s.pow.cclk ∧ t.pow.slowIssue = s.pow.slowIssue) ∧
     (1000 * avg10 ≤ lim → 100000 * avg10 < 95 * lim → 0 < s.pow.slowIssue → t.pow.cclk = s.pow.cclk ∧ t.pow.slowIssue = s.pow.slowIssue - 1) ∧
     (1000 * avg10 ≤ lim → 100000 * avg10 < 95 * lim → s.pow.slowIssue = 0 → t.pow.cclk = min 1800 (s.pow.cclk + 25))) ∧
  (∀ (s : State) (peak : Nat),
     (2350 < peak → s.pow.cclk < 2048 → s.pow.clamp = false → ∃ t, exec (.fastClamp peak) s = .next t ∧ t.pow.clamp = true ∧
       t.rf 0x20018 0 32 = min (2 ^ 32 - 1) (s.rf 0x20018 0 32 + 1) ∧ t.rf 0x20014 11 2 = max s.pow.slowIssue 1 % 4 ∧
       s.RegsKept t [0x20014, 0x20018] ∧ s.StoresKept t) ∧
     (peak ≤ 2350 → exec (.fastClamp peak) s = .next s) ∧
     (∀ b, s.pow.clamp = true → s.pow.cclk < 2048 → peak < 2250 → s.pow.clampBelow = some b → b + 100000 ≤ s.clock.now →
       ∃ t, exec (.clampRelease peak) s = .next t ∧ t.pow.clamp = false ∧ t.rf 0x20014 11 2 = s.pow.slowIssue % 4 ∧ s.RegsKept t [0x20014]) ∧
     (∀ b, s.pow.clamp = true → peak < 2250 → s.pow.clampBelow = some b → s.clock.now < b + 100000 → exec (.clampRelease peak) s = .next s) ∧
     (s.pow.clamp = true → 2250 ≤ peak → ∃ t, exec (.clampRelease peak) s = .next t ∧ t.pow.clamp = true ∧ t.pow.clampBelow = none ∧ t.regs = s.regs))

/-- R755 to R758, R760: when the units sleep, that a unit with work does not, and that a wake event brings its unit back,
a DEEP die through its wake sequence. R478, R768: a waiter that has slept 2 µs lends its allowance, once; a cluster
without work offers its allowance and one with work offers none. Neither touches registers, memory or any other
descriptor field. -/
def Obligations.UnitsSleepWakeLendAndOffer : Prop :=
  (∀ (s : State) (c d q : Nat), c < 32 → d < 2 → q < 0x80 →
     (s.clusterIdle c = true → s.waitersSlept c = true → s.activeSince c + 100000 ≤ s.clock.now → s.ready = true →
       ∃ t, exec (.clusterSleep c) s = .next t ∧ t.pow.asleep.contains c = true ∧ t.regs = s.regs ∧ s.StoresKept t) ∧
     ((s.insts.any fun x => clusterQueue c x.queue) = true → exec (.clusterSleep c) s = .next s) ∧
     (s.waitersSlept c = false → exec (.clusterSleep c) s = .next s) ∧ (s.ioBusy d = true → exec (.ioDieDeep d) s = .next s) ∧
     ((upto (16 * d) 16).all (fun k => s.pow.asleep.contains k) = true → (s.insts.any fun x => dieOfQueue x.queue == some d) = false →
       s.activeSince (32 + d) + 1000000 ≤ s.clock.now →
       ∃ t, exec (.dieDeep d) s = .next t ∧ t.pow.deepDies.contains d = true ∧ s.StoresKept t) ∧
     (d < s.ioDies → s.activeSince (34 + d) + 100000 ≤ s.clock.now → s.pow.ioDeep.contains d = false →
       ∃ t, exec (.ioDieLight d) s = .next t ∧ t.pow.ioLight.contains d = true ∧ t = { s with pow := t.pow }) ∧
     (d < s.ioDies → ((upto (16 * d) 16).any fun l => s.linkState l == 1 || s.linkState l == 2) = false → s.host.trained.contains d = false →
       s.ioBusy d = false → ∃ t, exec (.ioDieDeep d) s = .next t ∧ t.pow.ioDeep.contains d = true ∧ t = { s with pow := t.pow }) ∧
     (s.pow.deepDies.contains (q % 32 / 16) = false → ∃ t, exec (.wakeEvent (.lane q)) s = .next t ∧
       t.pow.asleep.contains (q % 32) = false ∧ t.regs = s.regs ∧ s.StoresKept t) ∧
     (s.pow.deepDies.contains (q % 32 / 16) = true → ∃ t, exec (.wakeEvent (.lane q)) s = .next t ∧
       t.pow.wakes.contains (32 + q % 32 / 16) = true ∧ t.pow.wakes.contains (q % 32) = true) ∧
     (s.pow.wakes.contains (32 + d) = true → ∃ t, exec (.dieWake d) s = .next t ∧ t.pow.deepDies.contains d = false ∧
       t.pow.wakes.contains (32 + d) = false ∧ (∀ k, k / 16 = d → s.pow.wakes.contains k = true → t.pow.asleep.contains k = false) ∧ s.StoresKept t)) ∧
  (∀ (s : State) (port c : Nat) (x : Inst), port < 3824 → c < 32 →
     (x ∈ s.insts → x.waits = true → x.wait.isSome = true → x.port = port → x.sleepAt + 2000 ≤ s.clock.now → x.lends = false →
       ∃ t, exec (.waiterLend port) s = .next t ∧ { x with lends := true } ∈ t.insts ∧ port ∈ t.pow.lent ∧
         t.insts.map (fun y => { y with lends := false }) = s.insts.map (fun y => { y with lends := false }) ∧
         t = { s with insts := t.insts, pow := { s.pow with lent := t.pow.lent } }) ∧
     (swf 0 s.pow.poolOffers = true → ∃ t, exec (.poolOffer c) s = .next t ∧
       sget 0 t.pow.poolOffers c = (if s.clusterIdle c then Config.allowance c (s.rf 0x2000C 0 12) else 0) ∧
       t = { s with pow := { s.pow with poolOffers := t.pow.poolOffers } }))

/-- R781, R801: the calendar never counts backwards: a set-time request or a correction steps it forward at once, or holds
it; only a running firmware sets it. A set-time request makes it VALID and is remembered. -/
def Obligations.CalendarNeverGoesBack : Prop :=
  ∀ (s : State) (sec : Nat),
    (s.rst.phase = .ready → 32768 * sec < 2 ^ 64 → ∃ t, exec (.setDateTime sec) s = .next t ∧ t.clock.pldmTime = some sec ∧ t.rf 0x10048 0 1 = 1 ∧
      s.RegsKept t [0x10048] ∧ s.StoresKept t ∧
      (s.clock.cal ≤ 32768 * sec → t.clock.cal = 32768 * sec ∧ t.clock.calHold = 0) ∧
      (32768 * sec < s.clock.cal → t.clock.cal = s.clock.cal ∧ t.clock.calHold = s.clock.cal - 32768 * sec)) ∧
    (s.rst.phase ≠ .ready → exec (.setDateTime sec) s = .next s) ∧
    (let at_ := s.clock.fab * 32768 / 1000000000
     s.ready = true → s.rf (dieOff 0 0x38020) 0 1 = 1 → s.clock.calFixAt + 60000000000 ≤ s.clock.now → at_ < 2 ^ 64 →
      ∃ t, exec .calendarCorrection s = .next t ∧ t.clock.calFixAt = s.clock.now ∧ t.rf 0x10048 0 1 = 1 ∧
      (s.clock.cal ≤ at_ → t.clock.cal = at_) ∧ (at_ < s.clock.cal → t.clock.cal = s.clock.cal ∧ t.clock.calHold = s.clock.cal - at_))

/-! ## Security and management (16) -/

/-- R788 to R790: with standby present and step P1 done, each SPDM request gets exactly one answer and changes no register
and no memory; before that it gets none. Slots other than 0 and other algorithms get the error answer. R800, R801,
R803, R837: a sensor is answered with the value of its register, as unavailable where its unit is not fitted, or as failed; GetPDR,
SetEventReceiver and the endpoint ID do what they say. -/
def Obligations.SpdmAndPldmAnswers : Prop :=
  (∀ (s : State) (slot off len : Nat) (nonce : List Byte), slot < 8 → nonce.length = 32 →
     let said := fun (cmd : Instr) (kind : Nat) (bs : List Byte) => ∃ t, exec cmd s = .next t ∧ t.sec.replies = s.sec.replies ++ [(kind, bs)] ∧
       t = { s with sec := { s.sec with replies := t.sec.replies, spdm := t.sec.spdm } }
     (s.aodAnswers = true →
       said .getVersion 1 (Config.standardBytes 1) ∧ said .getCapabilities 2 (Config.standardBytes 2) ∧
       said (.negotiateAlgorithms true) 3 (Config.standardBytes 3) ∧ said (.negotiateAlgorithms false) 0 (Config.standardBytes 0) ∧
       said .getDigests 4 (digestBytes (Config.sha384 s.certChain)) ∧
       said (.getCertificate 0 off len) 5 ((s.certChain.drop off).take len) ∧
       (slot ≠ 0 → said (.getCertificate slot off len) 0 (Config.standardBytes 0) ∧ said (.challenge slot nonce) 0 (Config.standardBytes 0)) ∧
       (let b := digestBytes (Config.sha384 s.certChain) ++ digestBytes (Config.sha384 s.measBytes) ++ nonce
        said (.challenge 0 nonce) 6 (b ++ Config.ecdsaSign 1 b)) ∧
       (∀ i, 1 ≤ i → i ≤ 5 → let b := leBytes 1 i ++ digestBytes (s.measurement i) ++ nonce
         said (.getMeasurements i nonce) 7 (b ++ Config.ecdsaSign 1 b)) ∧
       said .getFruRecordTable 23 (Config.standardBytes 23)) ∧
     (s.aodAnswers = false → exec .getVersion s = .next s ∧ exec .getCapabilities s = .next s ∧ exec (.negotiateAlgorithms true) s = .next s ∧
       exec .getDigests s = .next s ∧ exec (.getCertificate slot off len) s = .next s ∧ exec (.challenge slot nonce) s = .next s ∧
       exec (.getMeasurements 1 nonce) s = .next s ∧ exec .getFruRecordTable s = .next s)) ∧
  (∀ (s : State) (id k handle eid : Nat), s.aodAnswers = true → k < 12 → eid < 256 →
     let said := fun (cmd : Instr) (kind : Nat) (bs : List Byte) => ∃ t, exec cmd s = .next t ∧ t.sec.replies = s.sec.replies ++ [(kind, bs)] ∧
       t.regs = s.regs ∧ s.StoresKept t ∧ t.insts = s.insts
     (k < s.stacks → said (.getSensorReading (16 + k)) 20 (leBytes 1 0 ++ leBytes 4 (s.rf (stackOff k 4) 8 8))) ∧
     (s.stacks ≤ k → said (.getSensorReading (16 + k)) 20 (leBytes 1 1)) ∧
     said (.getSensorReading 34) 20 (leBytes 1 0 ++ leBytes 4 (s.rf 0x20010 0 12)) ∧
     said (.getSensorReading 42) 20 (leBytes 1 0 ++ leBytes 4 (s.rf 0x20020 0 12)) ∧
     (∀ t, s.pow.tin = some t → said (.getSensorReading 40) 20 (leBytes 1 0 ++ leBytes 4 t)) ∧
     (s.pow.tin = none → s.pow.thermSeen = true → said (.getSensorReading 40) 20 (leBytes 1 3)) ∧
     (s.sensor id = .measured → ∃ bs, said (.getSensorReading id) 20 bs) ∧
     (s.ready = true → said (.getPdr handle) 21 (Config.standardBytes (2000 + handle))) ∧
     (s.ready = true → ∃ t, exec (.setEventReceiver eid) s = .next t ∧ t.sec.evReceiver = some eid ∧ t = { s with sec := t.sec }) ∧
     ∃ t, exec (.endpointId eid) s = .next t ∧ t.sec.eid = eid ∧ t = { s with sec := { s.sec with eid := t.sec.eid } })

/-- R802: an update writes the slot that is not running; an image that fails its checks is refused at VerifyComplete with
ACTIVE_SLOT unchanged; ActivateFirmware sets ACTIVE_SLOT and leaves the running image running; a second update while
one is in progress is refused as busy. -/
def Obligations.FirmwareUpdateWritesTheOtherSlot : Prop :=
  ∀ (s : State) (off : Nat) (data : List Byte), s.aodAnswers = true →
    (s.sec.update = none → s.sec.updateOk = false → ∃ t, exec (.firmwareUpdate true off data) s = .next t ∧
      t.sec.update = some (putAt [] off data) ∧ t.sec.replies = s.sec.replies ++ [(24, [0#8])] ∧ t.sec.activeB = s.sec.activeB) ∧
    (∀ u, s.sec.update = some u → ∃ t, exec (.firmwareUpdate true off data) s = .next t ∧ t.sec.update = some u ∧
      t.sec.replies = s.sec.replies ++ [(24, [1#8])]) ∧
    (∀ u, s.sec.update = some u → s.imageOk (imageOf u) = true → ∃ t, exec .verifyComplete s = .next t ∧ t.sec.updateOk = true ∧
      (if s.sec.runB then t.sec.slotA else t.sec.slotB) = some (imageOf u) ∧
      (if s.sec.runB then t.sec.slotB else t.sec.slotA) = (if s.sec.runB then s.sec.slotB else s.sec.slotA) ∧
      t.sec.activeB = s.sec.activeB ∧ t.sec.running = s.sec.running) ∧
    (∀ u, s.sec.update = some u → s.imageOk (imageOf u) = false → ∃ t, exec .verifyComplete s = .next t ∧ t.sec.slotA = s.sec.slotA ∧
      t.sec.slotB = s.sec.slotB ∧ t.sec.activeB = s.sec.activeB ∧ t.sec.update = none ∧ t.sec.replies = s.sec.replies ++ [(24, [2#8])]) ∧
    (s.sec.updateOk = true → ∃ t ws, exec .activateFirmware s = .next t ∧ t.sec.activeB = !s.sec.runB ∧ t.sec.running = s.sec.running ∧
      t.sec.update = none ∧ s.Logged t 0x0806 ws ∧ t.insts = s.insts)

/-! ## Engines (04 to 08, 10) -/

/-- R229, R230, R296, R652: work that meets no failure writes exactly its outputs, ends its descriptor OK, raises at most
the context's numeric flags, and leaves every output granule without scale words with the Diacritic of what now stands
in it. -/
def Obligations.WorkRunsToItsEnd : Prop :=
  ∀ (s : State) (x : Inst) (w : Work), s.memOk = true → s.inst? x.id = some x → s.WorkPlain x w →
    let t := s.runWork x w
    s.Wrote t x w ∧ s.RegsKept t [ctxOff x.ctx 0x224, ctxOff x.ctx 0x22C, ctxOff x.ctx 0x230] ∧
    (∀ j, j ≠ x.id → t.inst? j = s.inst? j) ∧ t.pending = s.pending ∧
    ((∀ c ∈ w.chunks ++ [w.fin], c.car = []) →
      ∀ g ∈ (w.chunks ++ [w.fin]).flatMap Chunk.ren, g.sl = 0 → g.pad = 0 → locOf g.a % 1024 = 0 → 0x4000000 ≤ locOf g.a →
      s.place (locOf g.a) ≠ .none → s.regionAt x.ctx (locOf g.a) = none →
      (∀ h ∈ (w.chunks ++ [w.fin]).flatMap Chunk.ren, h.a / 1024 = g.a / 1024 → h = g) →
      (∃ o ∈ w.allOuts, o.a < g.a + 1024 ∧ g.a < o.a + o.bs.length) →
      t.diacPhys (locOf g.a) = diacOf (memRead t.mem (locOf g.a) 1024) [] g.tid g.ix)

/-- R487 to R490: a MOVE COPY leaves at its destination what stood at its source, even where the two overlap, and no other
byte and no Diacritic changes. R89: a FENCE that has started ends. R116, R117: a PLAN takes in its records in order.
R506: a DUMP writes its buffer, with DETAIL 1 when it was cut. -/
def Obligations.MoveFencePlanAndDump : Prop :=
  ∀ (s : State) (x : Inst), s.memOk = true → s.inst? x.id = some x → x.phase = .started →
    (x.opcode = 1 → x.moveKind = 0 → x.moveDiac = 0 → x.srcRing = false → x.dstRing = false → s.interjects x = false →
      s.regions x.ctx = [] →
      let len := x.w 11
      let src := x.a64 7
      let dst := x.a64 9
      s.mayAcc x 0 src len = true → s.want x [(src, len)] = none →
      s.WorkPlain x ⟨[(src, len)], s.copyChunks x x.moveCfg src dst len, Chunk.empty, 255, 0, 0⟩ →
      ∃ t, exec (.move x.id) s = .next t ∧ t.Ended x.id 0 0 ∧ memRead t.mem (locOf dst) len = s.rdx x src len ∧
        s.BytesKept t [(locOf dst, len)] ∧ t.diacs = s.diacs) ∧
    (x.opcode = 0xC → ∃ t, exec (.fence x.id) s = .next t ∧ t.Ended x.id 0 0 ∧ t.regs = s.regs ∧ s.StoresKept t) ∧
    (x.opcode = 0xE → x.stage = 0 → x.block.length = 64 * x.f 8 0 9 → (∀ ws ∈ x.records, wd ws 0 % 256 ≠ 0x0E) →
      ∃ t y, exec (.plan x.id) s = .next t ∧ t.inst? x.id = some y ∧ y.stage = x.records.length ∧
        t.insts.map Inst.id = s.insts.map Inst.id ++ upto s.nextInst x.records.length ∧
        (t.insts.drop s.insts.length).map Inst.words = x.records.map basicWords ∧ s.StoresKept t) ∧
    (x.opcode = 0xF →
      let d := s.dumpBytes (if bit (x.w 6) 0 then none else some x.job) false (x.w 9)
      let w : Work := ⟨[], [{ Chunk.empty with outs := outAt (x.a64 7) d.1 }], Chunk.empty, 0, if d.2 then 1 else 0, 0⟩
      s.mayAcc x 1 (x.a64 7) (x.w 9) = true → s.hostUp = true → s.WorkPlain x w →
      ∃ t, exec (.dump x.id) s = .next t ∧ s.Wrote t x w)

/-- R343 to R351: a GATHER of rows as they are puts each requested row at its place, and zeros at a null request's; R348:
of several requests of a SCATTER for one row the last stands. R356, R358, R365: HOT_LOAD fills and HOT_INVALIDATE
empties the directory, and a SCATTER_ADD sends its merged rows to their homes. -/
def Obligations.LexiconOperations : Prop :=
  ∀ (s : State) (x : Inst) (ws : List (List Req)), s.memOk = true → s.inst? x.id = some x → x.phase = .started → x.opcode = 5 → s.inTurn x = true →
    let rb := x.table.rowBytes
    (x.lexOp = 0 → s.lexOpen x true [] = .ok ws → s.WorkPlain x (s.gatherWork x ws) →
      ∃ t, exec (.gather x.id) s = .next t ∧ s.Wrote t x (s.gatherWork x ws) ∧
        (x.outFmt = 0 → bit (x.w 15) 31 = false → ∀ q ∈ ws.flatten,
          (q.row = none → memRead t.mem (locOf (x.a64 10) + rb * q.ix) rb = List.replicate rb 0#8) ∧
          (∀ r, q.row = some r → q.dev = none → s.hotHit x none r = none →
            memRead t.mem (locOf (x.a64 10) + rb * q.ix) rb = s.rdx x (x.table.rowAt none r) rb))) ∧
    (x.lexOp = 1 → s.lexOpen x false x.scatterData = .ok ws → s.WorkPlain x (s.scatterWork x ws) →
      ∃ t, exec (.scatter x.id) s = .next t ∧ s.Wrote t x (s.scatterWork x ws) ∧
        (x.table.scaled = false → bit (x.w 15) 31 = false → ∀ q ∈ ws.flatten, ∀ r, q.row = some r → q.dev = none →
          (∀ p ∈ ws.flatten, q.ix < p.ix → p.row ≠ q.row) →
          memRead t.mem (locOf (x.table.rowAt none r)) rb = s.rdx x (x.a64 10 + rb * q.ix) rb)) ∧
    (x.lexOp = 2 → s.hostDown [(x.a64 7, x.idxLen), x.addData] = false →
      s.lexOpen x false [x.addData] = .ok ws → s.homesReady x (s.addHomes ws) = none →
      (s.runPieces x (x.addWork ws)).2.2 = none → (s.runPieces x (x.addWork ws)).1.length = ws.length → x.progress = 0 → x.sigOn = false → bit (x.w 15) 31 = false →
      (s.sendSome x (s.addPkts x ws true) 0).2 = (s.addPkts x ws true).length →
      ∃ t, exec (.scatterAdd x.id) s = .next t ∧ t.Ended x.id 0 0 ∧ s.Sent t (s.addPkts x ws true) ∧ s.StoresKept t) ∧
    (x.lexOp = 3 → s.hotMine x = true → s.lexOpen x false [] = .ok ws →
      let g := (s.hotFill x ws).1
      s.workDenied x (s.hotWork x ws) = none → s.workHostDown (s.hotWork x ws) = false → g.WorkPlain x (s.hotWork x ws) →
      g.memOk = true → ∃ t, exec (.hotLoad x.id) s = .next t ∧ g.Wrote t x (s.hotWork x ws) ∧ t.hot = g.hot) ∧
    (x.lexOp = 4 → s.hotMine x = true → bit (x.w 15) 31 = false →
      let all := bit (x.w 6) 16
      ∃ t, exec (.hotInvalidate x.id) s = .next t ∧ t.Ended x.id 0 0 ∧ s.StoresKept t ∧
        t.hot = s.hot.filter (fun h => !(h.1 == x.lexEngine && (all || h.2.slot == x.lexTable))) ∧
        (all = true → t.rf (lexOff x.lexEngine 12) 0 24 = 0))

/-- R371 to R381, R387 to R391: a ROUTE writes its tables, a PERMUTE its rows, a COMBINE its tokens and a SCAN its states,
and each ends OK. -/
def Obligations.DispatcherAndScanOperations : Prop :=
  ∀ (s : State) (x : Inst), s.memOk = true →
    (s.Begun x 64 → x.opcode = 6 → x.dBlockBad = none →
      (x.dOp = 0 → s.want x x.routeUse.2 = none → s.WorkPlain x (s.routeWork x) →
        ∃ t, exec (.route x.id) s = .next t ∧ s.Wrote t x (s.routeWork x)) ∧
      (x.dOp = 1 → s.want x [s.combineTab x, s.permuteTab x] = none → s.want x (s.combineTab x :: s.permuteTab x :: s.permuteRows x) = none →
        s.WorkPlain x (s.permuteWork x) → ∃ t, exec (.permute x.id) s = .next t ∧ s.Wrote t x (s.permuteWork x)) ∧
      (x.dOp = 2 → s.want x [s.combineTab x] = none → s.want x (s.combineTab x :: s.combineRows x) = none →
        s.WorkPlain x (s.combineWork x) → ∃ t, exec (.combine x.id) s = .next t ∧ s.Wrote t x (s.combineWork x))) ∧
    (s.Begun x 192 → x.opcode = 7 → x.scanBad = none → s.WorkPlain x (s.scanWork x) →
      ∃ t, exec (.scan x.id) s = .next t ∧ s.Wrote t x (s.scanWork x))

/-- R373, R374: in either order of assignment an expert has as many slots taken as were asked of it, up to the capacity;
no slot is given twice, and every slot given lies below the capacity. -/
def Obligations.RouteAssignsSlotsUpToCapacity : Prop :=
  ∀ (sel : List (Option (List Nat × List Nat))) (k experts cap order e : Nat), e < experts →
    (∀ p, some p ∈ sel → ∀ i ∈ p.1, i < experts) →
    let a := assignSlots sel k experts cap order
    a.count.getD e 0 = min cap (a.demand.getD e 0) ∧ (a.perm.map Prod.fst).Nodup ∧
    ∀ p ∈ a.perm, p.1.1 < experts ∧ p.1.2 < cap ∧ p.2 < sel.length

/-- R187 to R224, R236 to R291, R302 to R306, R420 to R437: a GEMM without faults or epilogue, a QUANT, an UPDATE of
finite gradients and a VSTREAM whose program runs through write their outputs and end OK; a basic GEMM that was staged leaves
nothing else changed than the slots and the registers of its staging ring (R485, R848; log entry 77). R451, R452 (as log
entry 66 reads them): a basic QUANT of a set that is being prefetched waits, and one whose prefetch failed ends as that did. -/
def Obligations.ConvertingEnginesComplete : Prop :=
  ∀ (s : State) (x : Inst), s.memOk = true →
    (∀ g, s.Begun x 64 → x.opcode = 2 → s.gemmJudge x = .ok g → g.epi = false → s.prefetchHolds x [g.a.base, g.w.base] = none →
      s.want x g.ranges = none → s.tilesOf g.cl ≠ [] → s.WorkPlain x (s.gemmWork x g []) →
      (s.isStaged x g = false → ∃ t, exec (.gemm x.id []) s = .next t ∧ s.Wrote t x (s.gemmWork x g []) ∧ t.log = s.log) ∧
      (s.isStaged x g = true → ∃ t u, exec (.gemm x.id []) s = .next t ∧ s.Wrote u x (s.gemmWork x g []) ∧
        t.Ended x.id 0 0 ∧
        let r := u.ring g.cl (Config.stagingRing x.ctx g.cl % 64)
        (r.enabled = false ∨ r.ctx ≠ x.ctx → t = u) ∧
        (r.enabled = true → r.ctx = x.ctx → t = u.leaveStaging x.ctx g.cl ∧ u.BytesKept t [(r.slotAddr 0, r.slots * r.slotBytes)]))) ∧
    (s.inst? x.id = some x → x.phase = .started → x.opcode = 3 → x.stage = 0 → x.block.length = x.progLen → x.epilogue = false →
      s.progBad x x.prog false (!x.expert) false = none → s.progEntry x x.prog = none →
      let r := s.runChains (s.vEnv x) x.prog false x.prog.chains []
      r.halt = none → (r.s.inst? x.id).isSome = true → ∃ t, exec (.vstream x.id) s = .next t ∧ t.Ended x.id 0 0 ∧ t.mem = r.s.mem ∧ t.diacs = r.s.diacs) ∧
    (∀ j, s.inst? x.id = some x → x.phase = .started → x.opcode = 4 → s.quantJob x = .ok j →
      (s.prefetchHolds x [j.src.base] = none → s.want x j.ranges = none → s.WorkPlain x (s.quantWork x j) →
        ∃ t, exec (.quant x.id) s = .next t ∧ s.Wrote t x (s.quantWork x j)) ∧
      (∀ o, x.expert = false →
        ((s.ctx x.ctx).ofl.find? fun o => match o.fetch with | some p => [j.src.base].contains p.2 | none => false) = some o →
        (∀ st d, o.fail = some (st, d) → ∃ t, exec (.quant x.id) s = .next t ∧ t.Ended x.id st d) ∧
        (∀ p, o.fail = none → o.fetch = some p → (s.inst? p.1).isSome = true → exec (.quant x.id) s = .next s))) ∧
    (∀ e, s.Begun x 64 → x.opcode = 8 → s.updEntry x = .ok e → s.updBlockBad x e = none → s.want x (s.updReads x) = none →
      s.updBad x = 0 → s.WorkPlain x (s.updWhole x e) →
      ∃ t, exec (.update x.id) s = .next t ∧ s.Wrote t x (s.updWhole x e))

/-- R526 to R535, R545, R554, R561: OPEN opens its key empty, at the exponent of its BHIST, and holds no query back; SEND
and PARITY send their packets; VERIFY answers whether the copy is the recorded one; TOPK writes pairs and residuals; a
complete window whose digests agree is written and closed, one whose digests do not ends its OPEN with E_AGREE 1. -/
def Obligations.ReduceOperations : Prop :=
  ∀ (s : State) (x : Inst), s.memOk = true → s.Begun x 64 →
    (x.opcode = 9 → x.redBlockBad = none →
      let src := x.blk64 0
      (x.rOp = 0 → (s.fab.windows.any fun w => w.owner == some x.id) = false →
        (∀ r ∈ [(src, 1, 2 * x.rLen), (x.blk64 3, 0, 64), (x.blk64 3, 1, 64), (x.blk64 6, 1, 64)],
          s.isOwn r.1 = true ∧ s.mayAcc x r.2.1 r.1 r.2.2 = true) →
        s.win? x.job x.rWid false = none → s.hostUp = true → s.poisonx x (x.blk64 3) 64 = false →
        let w := s.newWindow x ((toWords (s.rdx x (x.blk64 3) 64)).map BitVec.toNat)
        s.winRoom w.reserve = true → s.queriesOk (s.heldFor w.job w.wid w.step) = true →
        s.shadowRoom w (s.heldFor w.job w.wid w.step) = true →
        ∃ t, exec (.openWin x.id) s = .next t ∧ t.win? x.job x.rWid false = some w ∧ w.isOpen = true ∧ w.staging = [] ∧
          t.heldFor x.job x.rWid x.rStep = [] ∧ t.regs = s.regs ∧ s.StoresKept t) ∧
      (∀ es, x.rOp = 1 → s.homesReady x [x.rHome] = none → s.mayAcc x 0 src x.sendLen = true →
        s.hostDown [(src, x.sendLen)] = false → s.want x [(src, x.sendLen)] = none →
        s.sourceBad x (x.sendInput x.sendLen) x.rLg = none → s.sendElems x = some es → x.progress = 0 → x.sigOn = false →
        let pk := s.sendPkts x (s.sendContrib x es)
        (s.sendSome x pk 0).2 = pk.length →
        ∃ t, exec (.send x.id) s = .next t ∧ t.Ended x.id 0 0 ∧ s.Sent t pk ∧ s.StoresKept t) ∧
      (x.rOp = 2 → s.mayAcc x 0 (x.blk64 3) 64 = true → s.mayAcc x 0 src (2 * x.rLen) = true → s.hostDown x.verifyReads = false →
        s.want x x.verifyReads = none → s.sourceBad x x.verifyInput x.rLg = none →
        ∃ t, exec (.verify x.id) s = .next t ∧ t.Ended x.id (if s.verifyOk x then 0 else 5) (if s.verifyOk x then 0 else 6) ∧
          t.regs = s.regs ∧ s.StoresKept t) ∧
      (x.rOp = 3 → s.mayAcc x 0 src (256 * x.rLen) = true → s.hostDown [(src, 256 * x.rLen)] = false →
        s.want x [(src, 256 * x.rLen)] = none → s.sourceBad x (x.sendInput (256 * x.rLen)) x.rLg = none → x.progress = 0 →
        x.sigOn = false → (s.sendSome x (s.parityPkts x) 0).2 = (s.parityPkts x).length →
        ∃ t, exec (.parity x.id) s = .next t ∧ t.Ended x.id 0 0 ∧ s.Sent t (s.parityPkts x) ∧ t.regs = s.regs ∧ s.StoresKept t) ∧
      (∀ (job wid : Nat) (w : Window), job < 4096 → wid < 2 ^ 20 → s.win? job wid false = some w → w.isOpen = true →
        w.complete = true → w.bad = 0 → w.owner = some x.id → 0x4000000 ≤ w.record → w.record < 2 ^ 48 →
        let work : Work := ⟨[], [s.winOutput x w], Chunk.empty, w.lg, 0, 0⟩
        (w.dsum (s.seed x) = w.digestSum → w.sampled = false → s.WorkPlain x work →
          ∃ t v, exec (.windowComplete job wid false) s = .next t ∧ s.Wrote t x work ∧ t.win? job wid false = some v ∧
            v.isOpen = false ∧ v.step = w.step ∧ v.staging = []) ∧
        (w.dsum (s.seed x) ≠ w.digestSum →
          ∃ t v, exec (.windowComplete job wid false) s = .next t ∧ t.Ended x.id 5 1 ∧ t.win? job wid false = some v ∧
            v.isOpen = false))) ∧
    (x.opcode = 0xA → x.topkBlockBad = none → s.want x x.topkReads = none → s.WorkPlain x (s.topkWork x) →
      ∃ t, exec (.topk x.id) s = .next t ∧ s.Wrote t x (s.topkWork x))

/-! ## Packets of peers (11) -/

/-- R581, R560, R597, R599, R797: a WRITE, a DIAC or a PARITY packet to the sender's windows has its effect on its bytes
or granules alone; a READ_REQ is answered with the bytes; a READ_RSP brings a descriptor its data. Each is marked
delivered. -/
def Obligations.PeerTransfersReachTheirBytes : Prop :=
  ∀ (s : State) (p : Packet) (n : Nat), s.memOk = true → s.Accepts p → p.group = 0 → s.peerCtx p = some n → s.regions n = [] →
    (p.kind = .write → s.peerOk n 3 p.addr p.payload.length = true →
      ∃ t, exec (.write p) s = .next t ∧ t.Took p ∧ memRead t.mem p.addr p.payload.length = p.payload ∧
        s.BytesKept t [(p.addr, p.payload.length)] ∧ t.diacs = s.diacs ∧ t.regs = s.regs ∧ t.insts = s.insts) ∧
    (p.kind = .readReq →
      let len := leAt p.payload 8 4
      let back := leAt p.payload 0 6
      0 < len → len ≤ 65536 → s.peerOk n 2 p.addr len = true → s.rdPoison (some n) p.addr len = false →
      s.sendRoom p.src (cdiv len 512) = true →
      ∃ t, exec (.readReq p) s = .next t ∧ t.Took p ∧ t.regs = s.regs ∧ t.insts = s.insts ∧ s.StoresKept t ∧
        s.Sent t (((pieces 512 (memRead s.mem p.addr len)).zipIdx).map fun b =>
          mkPkt .readRsp p.src p.job 1 (back + 512 * b.2) p.arg b.1)) ∧
    (∀ x, p.kind = .readRsp →
      let a := p.src * 2 ^ 48 + p.addr
      let m := p.payload.length
      (s.insts.find? fun x => (x.phase == .started || x.phase == .done) && decide (x.id % 2 ^ 32 = p.arg) && x.askedFor a m) = some x →
      s.inst? x.id = some x → Memory.wf x.staged = true →
      ∃ t y, exec (.readRsp p) s = .next t ∧ t.Took p ∧ t.inst? x.id = some y ∧ memRead y.staged a m = p.payload ∧
        y.awaiting = x.awaiting - m ∧ t.regs = s.regs ∧ s.StoresKept t) ∧
    (p.kind = .diac → s.peerOk n 3 p.addr (1024 * (diacList p).length) = true →
      ∃ t, exec (.diac p) s = .next t ∧ t.Took p ∧ (∀ d ∈ diacList p, t.diacPhys d.1 = d.2.2.2) ∧
        (∀ a, (∀ d ∈ diacList p, a / 1024 ≠ d.1 / 1024) → t.diacPhys a = s.diacPhys a) ∧ t.mem = s.mem ∧ t.regs = s.regs) ∧
    (p.kind = .reduce → (redHeadOf p).kind = 6 → p.payload.length = 272 →
      let h := redHeadOf p
      let b := redBody p
      let d := if h.gf then b.map fun v => BitVec.ofNat 8 (gfMul h.coef v.toNat) else b
      h.addr % 256 = 0 → s.peerOk n 3 h.addr 256 = true → s.rdPoison (some n) h.addr 256 = false →
      ∃ t, exec (.parityPacket p) s = .next t ∧ t.Took p ∧ memRead t.mem h.addr 256 = xorBytes (memRead s.mem h.addr 256) d ∧
        s.BytesKept t [(h.addr, 256)] ∧ t.diacPhys h.addr = s.diacPhys h.addr ^^^ deltaCrc (h.addr % 1024) d ∧ t.regs = s.regs)

/-- R462, R465, R581, R607, R610: a peer's SIGNAL adds to a semaphore of its job, at once or when the count group it
closes has arrived; SEM_OP adds, subtracts, sets or reads; CG_CANCEL frees the group's entry. -/
def Obligations.PeerSemaphoreOperations : Prop :=
  ∀ (s : State) (p : Packet) (n : Nat), s.Accepts p → s.peerCtx p = some n →
    let u := pktUnit p
    let i := pktIndex p
    let v := s.semVal u i
    let inc := leAt p.payload 0 2
    let a := leAt p.payload 0 4
    let op := bits p.arg 19 3
    (s.peerSemOk p = true → s.targetAsleep p = false →
      (p.kind = .signal → p.group = 0 → ∃ t, exec (.signal p) s = .next t ∧ t.Took p ∧ t.semVal u i = min (v + inc) (2 ^ 32 - 1) ∧ s.RegsKept t (semTouch u i) ∧
        s.StoresKept t ∧ t.insts = s.insts) ∧
      (∀ g, p.kind = .signal → p.group ≠ 0 → s.group? p.src p.group = some g → g.arrivals = leAt p.payload 4 4 → g.diacs = [] →
        ∃ t, exec (.signal p) s = .next t ∧ t.Took p ∧ t.semVal u i = min (v + inc) (2 ^ 32 - 1) ∧ s.RegsKept t (semTouch u i) ∧ t.group? p.src p.group = none ∧
          s.StoresKept t) ∧
      (p.kind = .semOp → p.group = 0 →
        (op = 0 → ∃ t, exec (.semOp p) s = .next t ∧ t.Took p ∧ t.semVal u i = min (v + a) (2 ^ 32 - 1) ∧ s.RegsKept t (semTouch u i) ∧ s.StoresKept t) ∧
        (op = 1 → s.ringOf u i = none → ∃ t, exec (.semOp p) s = .next t ∧ t.Took p ∧ t.semVal u i = v - a ∧ s.RegsKept t (semTouch u i) ∧ s.StoresKept t) ∧
        (op = 4 → ∃ t, exec (.semOp p) s = .next t ∧ t.Took p ∧ t.semVal u i = a ∧ s.RegsKept t (semTouch u i) ∧ s.StoresKept t) ∧
        (op = 5 → leAt p.payload 0 6 ≠ 0 → s.sendRoom p.src 1 = true →
          ∃ t, exec (.semOp p) s = .next t ∧ t.Took p ∧ t.regs = s.regs ∧ s.StoresKept t ∧
            s.Sent t [mkPkt .readRsp p.src p.job 1 (leAt p.payload 0 6) p.seq (leBytes 4 v)]))) ∧
    (p.kind = .cgCancel → ∃ t, exec (.cgCancel p) s = .next t ∧ t.Took p ∧ t.group? p.src p.group = none ∧ t.regs = s.regs ∧
      (∀ src num, (src, num) ≠ (p.src, p.group) → t.group? src num = s.group? src num) ∧ s.StoresKept t)

/-- R518, R528, R530, R531, R558: DENSE and SPARSE add their values exactly to the elements they name and to no other;
DIGEST counts one contribution; SUMCMP keeps a half-line; an EXPQ for an open key is answered with its exponent, one
for a key not yet open is held; EXPR gives its descriptor the answer; a query answered RETRY is sent again after 2 µs. -/
def Obligations.WindowsTakeContributions : Prop :=
  ∀ (s : State) (p : Packet) (n : Nat) (w : Window), s.Accepts p → p.group = 0 → p.kind = .reduce → s.peerCtx p = some n →
    let h := redHeadOf p
    let key := s.win? p.job h.wid (h.shadow && h.kind != 5)
    let fits := key = some w ∧ w.isOpen = true ∧ w.step % 65536 = h.step ∧ w.exp = h.exp
    let after := fun (t : State) (q : Window → Prop) => t.Took p ∧ s.StoresKept t ∧ t.regs = s.regs ∧
      ∃ v, t.win? p.job h.wid (h.shadow && h.kind != 5) = some v ∧ v.len = w.len ∧ v.isOpen = true ∧ v.exp = w.exp ∧ q v
    let added := fun (l : List (Nat × Int)) (v : Window) => v.elemsGot = w.elemsGot + h.count ∧ v.digests = w.digests ∧
      ∀ i < w.len, sget 0 v.staging i = sget 0 w.staging i + ((l.filter fun e => e.1 == i).map Prod.snd).sum
    let i0 := (h.addr - w.dst) / 2
    (fits → swf 0 w.staging = true → h.kind = 0 → s.peerOk n 3 h.addr (2 * h.count) = true →
      ∃ t, exec (.dense p) s = .next t ∧ after t (added ((denseVals p).zipIdx.map fun e => (i0 + e.2, e.1)))) ∧
    (fits → swf 0 w.staging = true → h.kind = 1 → ((sparsePairs p).all fun e => s.peerOk n 3 (h.addr + 2 * e.1) 2) = true →
      ∃ t, exec (.sparse p) s = .next t ∧ after t (added ((sparsePairs p).map fun e => (i0 + e.1, e.2)))) ∧
    (fits → h.kind = 2 → s.peerOk n 3 h.addr 2 = true →
      ∃ t, exec (.digest p) s = .next t ∧ after t fun v => v.digests = w.digests + 1 ∧ v.staging = w.staging ∧
        v.digestSum = (w.digestSum + leAt (redBody p) 0 8 % 2 ^ 61) % mersenne61 ∧ v.elemsSum = w.elemsSum + leAt (redBody p) 8 4 ∧
        v.amax = max w.amax (leAt (redBody p) 12 2)) ∧
    (fits → h.kind = 5 → h.count < 2 → s.peerOk n 3 h.addr 128 = true →
      ∃ t, exec (.sumcmp p) s = .next t ∧ after t fun v => v.staging = w.staging ∧ v.digests = w.digests ∧
        sget [] v.sumcmp ((h.addr - w.dst) / 128) = (pieces 6 ((redBody p).take 384)).map leNat) ∧
    (h.kind = 3 → s.sendRoom p.src 1 = true →
      (s.win? p.job h.wid false = some w → w.isOpen = true → w.step % 65536 = h.step →
        ∃ t, exec (.expq p) s = .next t ∧ t.Took p ∧ s.Sent t [exprPkt p.src p.job h.wid h.step (some w) 0] ∧ s.StoresKept t) ∧
      (s.win? p.job h.wid false = none → s.fab.queries.length < 1024 →
        ∃ t, exec (.expq p) s = .next t ∧ t.Took p ∧ t.fab.queries = s.fab.queries ++ [(p.src, p)] ∧ s.Sent t [])) ∧
    (∀ x, h.kind = 4 → h.shadow = false → h.count = 0 →
      (s.insts.find? fun x => x.phase == .started && x.job == p.job && x.winOf == some h.wid && x.rStep % 65536 == h.step &&
        x.queries.any fun q => q.1 == p.src && q.2.isNone) = some x → s.inst? x.id = some x →
      ∃ t y, exec (.expr p) s = .next t ∧ t.Took p ∧ t.inst? x.id = some y ∧ (∀ q ∈ y.queries, q.1 ≠ p.src) ∧
        y.slot = x.slot ++ [p.src, h.exp, bits (leAt (redBody p) 0 4) 16 1, leAt (redBody p) 0 4 % 65536, h.addr] ∧ s.StoresKept t) ∧
    (∀ x t0, s.inst? x.id = some x → x.phase = .started → x.queries = [(p.src, some t0)] → t0 + 2000 ≤ s.clock.now →
      s.sendRoom p.src 1 = true →
      ∃ t y, exec (.expqRetry x.id) s = .next t ∧ t.inst? x.id = some y ∧ y.queries = [(p.src, none)] ∧ t.regs = s.regs ∧
        s.Sent t [redPkt p.src x.job 0 (redHead 3 false (x.winOf.getD 0) 0 x.rStep 0 0 0 0) []] ∧ s.StoresKept t)

/-- R33, R456: a lane has at most LANE_OT transfers outstanding, 0 acting as 1 and a value above 64 as 64; at the limit its
descriptors send nothing. R20, R584: nor do they when the retransmit store of their die has no room for the next packet.
R497, R598, R601 to R604: what an ACK covers leaves the store and nothing else does; a NACK resends, gives up, or
delays its packet by its reason; timers resend; an acknowledgement goes out; an idle flow is evicted; a credit comes
back; a report of an unreachable peer reaches the firmware. -/
def Obligations.FlowsAcknowledgeAndResend : Prop :=
  ∀ (s : State) (p : Packet) (e : Stored),
    let back := p.wf = true ∧ p.dst = s.devId ∧ s.ready = true ∧ intact p = true ∧ crcGood p = true
    let again := fun (t : State) (uses : Nat) => ∃ e', t.stored? p.src e.pkt.seq = some e' ∧ e'.resends = e.resends + uses ∧
      e'.sentAt = s.clock.now ∧ e'.busyAt = none ∧ bodyOf e'.pkt = bodyOf e.pkt ∧ t.fab.outbox = s.fab.outbox ++ [(s.storeDie e, e'.pkt)] ∧
      s.StoresKept t
    let gone := fun (t : State) (st : Nat) => t.stored? p.src e.pkt.seq = none ∧ s.Logged t 0x0406 [p.src, e.pkt.seq, st] ∧ s.StoresKept t
    let timed := fun (q : Stored → Prop) => p.src < 65536 ∧ e.pkt.seq < 2 ^ 24 ∧ s.stored? p.src e.pkt.seq = some e ∧ e.pkt.dst = p.src ∧
      (s.sendFlow p.src).next ≠ e.pkt.seq ∧ q e
    (∀ (x : Inst) (pk : List Packet), let v := s.rf (ctxOff x.ctx (0x400 + 4 * x.queue)) 0 7
      s.laneLimit x = (if v = 0 then 1 else min v 64) ∧ (s.laneLimit x ≤ s.laneOut x → s.sendSome x pk 0 = (s, 0)) ∧
      (s.storeRoom (queueDie x.queue) p = false → s.sendSome x (p :: pk) 0 = (s, 0))) ∧
    (back → p.kind = .ack → (∀ g ∈ (s.sendFlow p.src).stored, g.pkt.dst = p.src) →
      let b := leAt p.payload 0 3
      let hit := fun q => (decide (0 < seqDist b q) && decide (seqDist b q ≤ 2 ^ 23)) || (decide (seqDist q b < 64) && bit (leAt p.payload 4 8) (seqDist q b))
      ∃ t, exec (.ack p) s = .next t ∧ (t.sendFlow p.src).stored = (s.sendFlow p.src).stored.filter (fun g => !hit g.pkt.seq) ∧
        (∀ d, d ≠ p.src → t.sendFlow d = s.sendFlow d) ∧ s.StoresKept t ∧ t.regs = s.regs) ∧
    (back → p.kind = .nack → e.pkt.seq = leAt p.payload 0 3 → s.stored? p.src e.pkt.seq = some e → e.pkt.dst = p.src →
      (s.sendFlow p.src).next ≠ e.pkt.seq →
      (p.arg = 1 → e.resends < s.resendMax → ∃ t, exec (.nack p) s = .next t ∧ again t 1) ∧
      (p.arg = 2 → ∃ t, exec (.nack p) s = .next t ∧ gone t 0xF) ∧
      (p.arg = 3 → ∃ t e', exec (.nack p) s = .next t ∧ t.stored? p.src e.pkt.seq = some e' ∧ e'.busyAt = some s.clock.now ∧ e'.pkt = e.pkt) ∧
      (p.arg = 4 → ∃ t e', exec (.nack p) s = .next t ∧ t.stored? p.src e.pkt.seq = some e' ∧ e'.sentAt = s.clock.now ∧ e'.pkt = e.pkt) ∧
      (p.arg = 5 → ∃ t, exec (.nack p) s = .next t ∧ gone t 4) ∧ (p.arg = 6 → ∃ t, exec (.nack p) s = .next t ∧ gone t 5)) ∧
    (timed (fun e => e.busyAt = none ∧ e.sentAt + 1000 * s.tResend ≤ s.clock.now) →
      (e.resends < s.resendMax → ∃ t, exec (.resendTimeout p.src e.pkt.seq) s = .next t ∧ again t 1) ∧
      (s.resendMax ≤ e.resends → p.src ≠ s.managerId → ∃ t, exec (.resendTimeout p.src e.pkt.seq) s = .next t ∧ gone t 7)) ∧
    (∀ t0, timed (fun e => e.busyAt = some t0 ∧ t0 + 2000 ≤ s.clock.now) →
      ∃ t, exec (.busyResend p.src e.pkt.seq) s = .next t ∧ again t 0) ∧
    (∀ f, p.src < 65536 → s.flow? p.src = some f →
      (0 < f.unacked → ∃ t g, exec (.ackSend p.src) s = .next t ∧ t.flow? p.src = some g ∧ g.unacked = 0 ∧ g.got = f.got ∧ g.rbase = f.rbase ∧
        t.fab.outbox.length = s.fab.outbox.length + 1 ∧ t = { s with fab := { s.fab with recv := t.fab.recv, outbox := t.fab.outbox } }) ∧
      (f.unacked = 0 → f.lastAt + 1000000 ≤ s.clock.now → ∃ t, exec (.flowEviction p.src) s = .next t ∧ t.flow? p.src = none ∧
        (∀ d, d ≠ p.src → t.flow? d = s.flow? d) ∧ t = { s with fab := { s.fab with recv := t.fab.recv } })) ∧
    (∀ m t0, m < 64 → swf 0 s.fab.creditsUsed = true → s.fab.creditsDue = [(m, t0)] → t0 + 100000 ≤ s.clock.now →
      ∃ t, exec (.creditReturnTimer m) s = .next t ∧ t.fab.creditsDue = [] ∧ sget 0 t.fab.creditsUsed m = sget 0 s.fab.creditsUsed m - 1 ∧
        t = { s with fab := { s.fab with creditsDue := t.fab.creditsDue, creditsUsed := t.fab.creditsUsed } }) ∧
    (s.Told p 0x11 false → ∃ t, exec (.peerUnreachable p) s = .next t ∧ t.Took p ∧ t.mgr.fwInbox = s.mgr.fwInbox ++ [p] ∧ t.regs = s.regs ∧
      s.StoresKept t)

/-- R571, R572, R583 to R586, R755, R851 to R853: the switch sends a packet where its route says, delivers one for this device,
drops one whose hop limit is spent, and ages out one that waited 2 µs; the I/O dies that a packet crosses leave LIGHT; a link trains, comes up with its neighbour,
fails at its third attempt or its 65th uncorrectable codeword, goes down, and is told of. -/
def Obligations.SwitchAndLinks : Prop :=
  ∀ (s : State) (p : Packet) (die l port dev k : Nat) (f : Fn), die < 4 → l < 64 → port < 256 → dev < 65536 → f.wf = true → p.wf = true →
    let own := fun (t : State) => t.linkState l
    let fails := fun (t : State) => own t = 3 ∧ (∀ b ∈ t.fab.buf, b.link ≠ some l) ∧ s.Logged t 0x0403 [l] ∧ s.StoresKept t
    (∀ m, s.ready = true → (die, p) ∈ s.fab.outbox → (p.tc = 2 ∨ s.mayInject = true) → s.bufRoom die p = true → s.hop die true p = .link m → s.linkState m ≠ 3 →
      s.linkState m ≠ 4 → p.hopLimit ≠ 0 →
      ∃ t, exec (.packetForward die none p) s = .next t ∧ t.fab.outbox = s.fab.outbox.erase (die, p) ∧
        t.fab.buf = s.fab.buf ++ [⟨m / 16, some m, s.clock.now, { p with vc := s.vcOut none p.vc m }⟩] ∧
        t.pow.ioLight.contains die = false ∧ t.pow.ioLight.contains (m / 16) = false ∧
        t = { s with fab := { s.fab with outbox := t.fab.outbox, buf := t.fab.buf }, pow := { s.pow with activeAt := t.pow.activeAt, ioLight := t.pow.ioLight } }) ∧
    (s.ready = true → die = l / 16 → s.linkState l = 2 → intact p = true → (∀ c, p.kind ≠ .reserved c) →
      (p.dst = s.devId → ∃ t, exec (.packetForward die (some l) p) s = .next t ∧ t.fab.buf = s.fab.buf ++ [⟨die, none, s.clock.now, p⟩] ∧
        t = { s with fab := { s.fab with buf := t.fab.buf }, pow := { s.pow with activeAt := t.pow.activeAt, ioLight := t.pow.ioLight } }) ∧
      (∀ m, s.hop die false p = .link m → p.hopLimit ≤ 1 → ∃ t, exec (.packetForward die (some l) p) s = .next t ∧
        t.fab.hopExpired = min (2 ^ 32 - 1) (s.fab.hopExpired + 1) ∧
        t = { s with fab := { s.fab with hopExpired := t.fab.hopExpired }, pow := { s.pow with activeAt := t.pow.activeAt, ioLight := t.pow.ioLight } })) ∧
    (∀ b, s.fab.buf[k]? = some b → b.at_ + 2000 ≤ s.clock.now → ∃ t, exec (.packetAgeExpiry k) s = .next t ∧
      t.fab.buf = s.fab.buf.eraseIdx k ∧ t.fab.pktAged = min (2 ^ 32 - 1) (s.fab.pktAged + 1)) ∧
    (l / 16 < s.ioDies →
      (own s = 0 → s.rf (linkOff l 0) 0 1 = 1 → s.rst.phase ≠ .asserted → ∃ t, exec (.linkTrainingStart l) s = .next t ∧ own t = 1 ∧
        s.RegsKept t [linkOff l 4] ∧ t = { s with regs := t.regs }) ∧
      (own s = 1 → ∃ t, exec (.linkTrainingEnd l true port dev) s = .next t ∧ own t = 2 ∧ t.peerDev l = dev ∧ t.rf (linkOff l 4) 8 8 = port ∧
        s.RegsKept t [linkOff l 4] ∧ s.StoresKept t) ∧
      (own s = 1 → (s.linkFails l).fails < 2 → ∃ t, exec (.linkTrainingEnd l false port dev) s = .next t ∧ own t = 0 ∧
        (t.linkFails l).fails = (s.linkFails l).fails + 1 ∧ s.RegsKept t [linkOff l 4]) ∧
      (own s = 1 → 2 ≤ (s.linkFails l).fails → ∃ t, exec (.linkTrainingEnd l false port dev) s = .next t ∧ fails t) ∧
      (own s = 2 → s.clock.now < (s.linkFails l).since + 1000000 → 64 < (s.linkFails l).uncorr + k →
        ∃ t, exec (.linkFailed l k) s = .next t ∧ fails t) ∧
      (own s = 2 → ∃ t, exec (.linkSignalLoss l) s = .next t ∧ own t = 0 ∧ s.RegsKept t [linkOff l 4] ∧ t = { s with regs := t.regs }) ∧
      (s.reaches f = true → isPf f = true → own s ≠ 4 → (own s = 3 → f = .mgmt) → s.rf (linkOff l 0) 0 1 = 1 →
        ∃ t, exec (.retrain f l) s = .next t ∧ own t = 1 ∧ (t.linkFails l).fails = 0 ∧ s.RegsKept t [linkOff l 4] ∧ s.StoresKept t) ∧
      (s.reaches f = true → isPf f = true → own s ≠ 4 →
        (own s = 0 → ∃ t, exec (.linkEnable f l true) s = .next t ∧ own t = 1 ∧ t.rf (linkOff l 0) 0 1 = 1 ∧ s.RegsKept t [linkOff l 0, linkOff l 4]) ∧
        (own s ≠ 3 → ∃ t, exec (.linkEnable f l false) s = .next t ∧ own t = 0 ∧ t.rf (linkOff l 0) 0 1 = 0 ∧
          s.RegsKept t [linkOff l 0, linkOff l 4]))) ∧
    (s.Told p 0x10 false → ∃ t, exec (.linkState p) s = .next t ∧ t.Took p ∧ t.mgr.fwInbox = s.mgr.fwInbox ++ [p] ∧ t.regs = s.regs ∧ s.StoresKept t)

/-! ## The domain (11, 13, 15, 17) -/

/-- R614 to R621, R705, R712, R769, R770, R831, R832: joining, heartbeats, suspicion and loss, and fabric time: what each
message and timer of the domain does to this device. -/
def Obligations.DomainMembershipAndTime : Prop :=
  ∀ (s : State) (p : Packet) (m : Nat), m < 64 →
    let d := s.devId / 64 * 64 + m
    let lock := dieOff 0 0x38020
    (s.ready = true → s.isManager = false → s.fab.admitted = false → s.fab.joinAt = 0 → ∃ t, exec .join s = .next t ∧
      s.Sent t [ctrlPkt s.managerId (ctrlType 0) [0, s.devId]] ∧ 0 < t.fab.joinAt ∧ t.regs = s.regs ∧ s.StoresKept t) ∧
    (s.Told p (ctrlType 0) false → s.isManager = true →
      (s.inUse p.src = false → ∃ t k, exec (.joinReceived p) s = .next t ∧ t.member? p.src = some k ∧ k.admitted = true ∧ k.lost = false ∧
        k.heardAt = s.clock.now ∧ t.Took p ∧ s.StoresKept t) ∧
      (s.inUse p.src = true → ∃ t, exec (.joinReceived p) s = .next t ∧ s.Logged t 0x0407 [p.src] ∧ t.mgr = s.mgr ∧
        s.Sent t [ctrlPkt p.src (ctrlType 6) [0, p.src]])) ∧
    (s.Told p (ctrlType 1) false → pktWord p 1 % 65536 = s.devId → seqDist p.seq p.seqFloor < 4096 → (∀ n < 16, s.jobState n ≠ 4) → ∃ t, exec (.admitMsg p) s = .next t ∧ t.Took p ∧
      t.fab.admitted = true ∧ t.fab.mgrLost = false ∧ t.fab.mgrHeard = s.clock.now ∧ t.regs = s.regs ∧ t.insts = s.insts) ∧
    (s.ready = true → s.isManager = false → s.fab.admitted = true → s.fab.beatAt = 0 → ∃ t, exec .heartbeatSend s = .next t ∧
      s.Sent t [ctrlPkt s.managerId (ctrlType 2) [0, s.rf 0x20010 0 12]] ∧ t.regs = s.regs ∧ s.StoresKept t) ∧
    (∀ k, s.ready = true → s.isManager = true → s.fab.beatAt = 0 → s.serving = [k] → s.mgr.jobs = [] → ∃ t, exec .heartbeatSend s = .next t ∧
      s.Sent t [ctrlPkt k.dev (ctrlType 2) [0, k.grant]] ∧ t.regs = s.regs ∧ s.StoresKept t) ∧
    (s.Told p (ctrlType 2) false →
      (∀ k, s.isManager = true → s.member? p.src = some k → ∃ t k', exec (.heartbeat p) s = .next t ∧ t.Took p ∧ t.member? p.src = some k' ∧
        k'.heardAt = s.clock.now ∧ k'.demand = pktWord p 1 ∧ t.regs = s.regs) ∧
      (s.isManager = false → ∃ t, exec (.heartbeat p) s = .next t ∧ t.Took p ∧ t.fab.mgrHeard = s.clock.now ∧ t.fab.mgrLost = false ∧
        t.pow.grantNext = some (pktWord p 1 % 4096) ∧ t.regs = s.regs)) ∧
    (∀ k, s.isManager = true → s.member? d = some k → k.admitted = true → k.lost = false → k.suspectAt = none →
      k.heardAt + 3000000 ≤ s.clock.now → ∃ t k', exec (.memberSuspect m) s = .next t ∧ t.member? d = some k' ∧ k'.suspectAt = some s.clock.now ∧
        t = { s with mgr := { s.mgr with members := t.mgr.members } }) ∧
    (s.isManager = false → s.fab.admitted = true → s.fab.mgrLost = false → s.fab.mgrHeard + 3000000 ≤ s.clock.now →
      ∃ t, exec .managerLost s = .next t ∧ t.fab.mgrLost = true ∧ t.rf 0x20008 0 12 = min 2250 (max 1000 (s.rf 0x20004 0 12)) ∧
        s.Logged t 0x0408 [s.managerId] ∧ s.StoresKept t ∧ ∀ n < 16, t.jobState n = if s.running n then 4 else s.jobState n) ∧
    (∀ k t0, s.isManager = true → s.member? d = some k → k.suspectAt = some t0 → k.lost = false →
      t0 + 1000000 * min 1000 (s.rf (dieOff 0 0x38024) 0 10) ≤ s.clock.now →
      ∃ t k', exec (.tGrace m) s = .next t ∧ t.member? d = some k' ∧ k'.lost = true ∧ s.StoresKept t) ∧
    (s.ready = true → s.timeMaster = false → s.fab.timeAt = 0 → ∃ t, exec .timeExchange s = .next t ∧ t.clock.reqT1 = some s.clock.fab ∧
      s.Sent t [ctrlPkt (if s.isManager then 0 else s.managerId) (ctrlType 3) (0 :: word2 s.clock.fab)] ∧ t.regs = s.regs) ∧
    (s.Told p (ctrlType 3) true → s.isManager = true → ∃ t, exec (.timeReq p) s = .next t ∧ t.Took p ∧ t.clock = s.clock ∧
      s.Sent t [ctrlPkt p.src (ctrlType 4) (0 :: word2 (pktPair p 1) ++ word2 s.clock.fab ++ word2 s.clock.fab)]) ∧
    (s.Told p (ctrlType 4) true → s.clock.reqT1 = some (pktPair p 1) →
      let off : Int := (((pktPair p 3 : Int) - pktPair p 1) + ((pktPair p 5 : Int) - s.clock.fab)) / 2
      ∃ t, exec (.timeRsp p) s = .next t ∧ t.Took p ∧ t.clock.reqT1 = none ∧ t.clock.fabSet = true ∧ s.RegsKept t [lock] ∧ s.StoresKept t ∧
        (s.clock.fabSet = true ∨ off ≤ 10000 → t.clock.slew = off ∧ t.clock.fab = s.clock.fab) ∧
        (s.clock.fabSet = false → 10000 < off → t.clock.slew = 0 ∧ t.clock.fab = (s.clock.fab + off.toNat) % 2 ^ 64 ∧ t.rf lock 0 1 = 1) ∧
        (s.clock.fabSet = true → t.rf lock 0 1 = if -(if s.isManager then 250 else 50) ≤ off ∧ off ≤ (if s.isManager then 250 else 50) then 1 else 0)) ∧
    (s.ready = true → s.isManager = true →
      let r := s.clock.fab % 1000000000
      (r ≤ 1000000 → ∃ t, exec .ppsIn s = .next t ∧ t.clock.slew = -(r : Int) ∧ t.rf lock 2 1 = 1 ∧ t.clock.fab = s.clock.fab ∧ s.RegsKept t [lock]) ∧
      (999000000 ≤ r → ∃ t, exec .ppsIn s = .next t ∧ t.clock.slew = 1000000000 - (r : Int) ∧ t.rf lock 2 1 = 1 ∧ s.RegsKept t [lock]) ∧
      (1000000 < r → r < 999000000 → ∃ t, exec .ppsIn s = .next t ∧ t.clock = s.clock ∧ t.rf lock 2 1 = 0 ∧ s.RegsKept t [lock])) ∧
    (∃ t, exec .ppsOut s = .next t ∧ t.rst.ppsOut = (s.rf lock 0 1 == 1 && decide (s.clock.fab % 1000000000 < 100000000)) ∧ t.regs = s.regs ∧
      s.StoresKept t ∧ t.insts = s.insts)

/-- R674, R677, R678, R700, R705, R707, R714, R715: what a manager does with the messages of a job that one device runs: a
clean STEP_DONE becomes FULL_STOP, DELTAS_DONE becomes PARITY_STOP, WARM_NOTICE begins a recovery, a verified REJOIN
ends the wait for the device, a rank record enters the table. -/
def Obligations.ManagerDecides : Prop :=
  ∀ (s : State) (p : Packet) (type : Nat), s.Told p type false → s.isManager = true →
    let j := pktWord p 0 % 4096
    let step := pktWord p 1
    let g := s.mgrJob j
    let told := fun (t : State) (ty : Nat) (ws : List Nat) => s.Sent t [ctrlPkt p.src ty (j :: ws)] ∧ t.Took p
    (type = 0x20 → s.jobDevs j = [p.src] → g.recovering = false → g.stepDone = [] → step = s.jobFs j + 1 → bit (pktWord p 2) 0 = true →
      s.jobParity j = false → ∃ t, exec (.stepDone p) s = .next t ∧ (t.mgrJob j).fsStep = step ∧
        told t 0x21 [step, if bit (pktWord p 2) 1 then 1 else 0] ∧ t.regs = s.regs ∧ s.StoresKept t) ∧
    (type = 0x23 → s.jobDevs j = [p.src] → g.deltasDone = [] → g.stepDone = [] → ∃ t, exec (.deltasDone p) s = .next t ∧
      (t.mgrJob j).psNext = max g.psNext (step + 1) ∧ told t 0x24 [step] ∧ t.regs = s.regs ∧ s.StoresKept t) ∧
    (∀ k ws, type = 0x27 → (s.mgr.ranks.filter fun r => r.1 == p.src) = [(p.src, k, ws)] → (s.mgrJob k).waitRejoin.contains p.src = false →
      ∃ t, exec (.warmNotice p) s = .next t ∧ t.Took p ∧ (t.mgrJob k).recovering = true ∧ (t.mgrJob k).target = s.jobFs k ∧
        p.src ∈ (t.mgrJob k).waitRejoin ∧ s.StoresKept t) ∧
    (∀ k ws, type = 0x28 → bit (pktWord p 2) 0 = true → (s.mgr.ranks.filter fun r => r.1 == p.src) = [(p.src, j, ws)] →
      g.waitRejoin.contains p.src = true → s.member? p.src = some k →
      ∃ t k', exec (.rejoin p) s = .next t ∧ t.Took p ∧ p.src ∉ (t.mgrJob j).waitRejoin ∧ t.member? p.src = some k' ∧ k'.suspectAt = none ∧ s.StoresKept t) ∧
    (type = ctrlType 5 → (s.mgr.ranks.any fun r => r.1 == p.src && r.2.1 == j) = false → g.waitRejoin = [] →
      ∃ t, exec (.rankRecord p) s = .next t ∧ t.Took p ∧ (p.src, j, toWords (p.payload.drop 8)) ∈ t.mgr.ranks ∧
        (∀ r ∈ s.mgr.ranks, r ∈ t.mgr.ranks) ∧ t.regs = s.regs ∧ s.StoresKept t)

/-- R101, R504, R671 to R675, R679, R692, R694, R699: a STEP holds and closes its step with STEP_DONE; FULL_STOP moves
FS_STEP and ends it; ROLLBACK to a retained step ends the context's work with the context in RECOVERY; PARITY_STOP
moves PS_STEP; RESUME makes the context ACTIVE; R708 (as log entry 64 reads it): a ROLLBACK for a granule repair empties the bad
granule's copy, and RESUME puts what stands in it then into the other banks that held it; RANK_TABLE replaces the ranks; the Run-On detector fires, and faults
the context where told to. -/
def Obligations.StepsOfAContext : Prop :=
  ∀ (s : State) (p : Packet) (x : Inst) (n type : Nat), s.sized = true → n < 16 →
    let job := pktWord p 0 % 4096
    let step := pktWord p 1
    let stamp := [s.clock.fab % 2 ^ 32, s.clock.fab / 2 ^ 32 % 2 ^ 32]
    (s.stepAt x.id 0 = some x → ∃ t y, exec (.stepDesc x.id) s = .next t ∧ t.inst? x.id = some y ∧ y.stage = 1 ∧ t = { s with insts := t.insts }) ∧
    (s.stepAt x.id 1 = some x → x.ctx = n → s.insts.any (stepWaits x) = false → s.parityReady n (x.w 6) = true → s.running n = true →
      ∃ t y ws, exec (.stepClose x.id) s = .next t ∧ t.inst? x.id = some y ∧ y.stage = 2 ∧ (t.ctx n).errMask = 0 ∧ t.fsStep n = s.fsStep n ∧
        s.Sent t [ctrlPkt s.managerId 0x20 (s.jobId n :: x.w 6 :: ws)]) ∧
    (s.Told p type false → s.ctxsOf job = [n] →
      (type = 0x21 → s.stepOf n 2 = some x → s.inst? x.id = some x → s.running n = true → x.w 6 = step → s.parityEn n = false →
        bit (pktWord p 2) 0 = false →
        ∃ t, exec (.fullStop p) s = .next t ∧ t.Took p ∧ t.fsStep n = step ∧ t.Ended x.id 0 0 ∧ s.Logged t 0x0601 (stamp ++ [step, 0]) ∧
          t.jr n 0x80C = max (s.jr n 0x80C) (step + 1 - s.detectN n) ∧ t.epoch n = s.epoch n ∧ s.StoresKept t) ∧
      (type = 0x22 → s.running n = true → s.retained n step = true → s.parityEn n = false →
        ∃ t, exec (.rollback p) s = .next t ∧ t.Took p ∧ t.jobState n = 4 ∧ t.fsStep n = step ∧ t.psStep n = min (s.psStep n) step ∧
          (∀ y ∈ t.insts, y.ctx = n → ¬(y.sq = 1024 ∧ y.opcode = 0x10) → y.phase = .done ∨ s.planRuns y = true) ∧
          s.Logged t 0x0602 (stamp ++ [step, pktWord p 2 % 4])) ∧
      (∀ g, type = 0x22 → pktWord p 2 % 4 = 3 → s.memOk = true → s.running n = true → s.retained n step = true → s.parityEn n = false →
        (s.ctx n).lastBad ≠ 0 →
        ((s.stateRegions n).find? fun g => decide (g.base ≤ (s.ctx n).lastBad) && decide ((s.ctx n).lastBad < g.base + g.size)) = some g →
        ∃ t b others, exec (.rollback p) s = .next t ∧ (t.ctx n).repair = some (b, others) ∧ b = s.granAt n g step (((s.ctx n).lastBad - g.base) / 1024) ∧
          memRead t.mem b 1024 = List.replicate 1024 0#8 ∧ t.diacPhys b = 0#32) ∧
      (type = 0x24 → s.parityEn n = true → step = s.psStep n + 1 → (s.ctx n).waitParity = none → s.stepOf n 3 = none →
        ∃ t, exec (.parityStop p) s = .next t ∧ t.Took p ∧ t.psStep n = step ∧ t.fsStep n = s.fsStep n ∧ t.insts = s.insts) ∧
      (type = 0x25 → s.jobState n = 4 → ∃ t, exec (.resume p) s = .next t ∧ t.Took p ∧ t.jobState n = 2 ∧ (t.ctx n).repair = none ∧
        s.Logged t 0x0603 (stamp ++ [s.fsStep n, (s.ctx n).rankVersion]) ∧ s.RegsKept t [ctxOff n 4] ∧
        ((s.ctx n).repair = none → s.StoresKept t) ∧
        ∀ b others, (s.ctx n).repair = some (b, others) → s.memOk = true → (b :: others).Nodup → (∀ a ∈ b :: others, a % 1024 = 0) →
          ∀ a ∈ others, memRead t.mem a 1024 = memRead s.mem b 1024 ∧ t.diacPhys a = t.diacPhys b) ∧
      (type = 0x26 → (s.ctx n).lostDev = none → ∃ t, exec (.rankTable p) s = .next t ∧ t.Took p ∧ (t.ctx n).ranks = tableRanks p ∧
        (t.ctx n).rankVersion = step ∧ t.regs = s.regs ∧ t.insts = s.insts ∧ s.StoresKept t)) ∧
    (s.running n = true → (s.ctx n).runOnFired = false → 25000 * s.tRunOn n ≤ (s.ctx n).runOn → s.jr64 n 0x310 = 0 →
      ∃ t, exec (.runOnFire n) s = .next t ∧ t.rf (ctxOff n 0x308) 0 1 = 1 ∧ (t.ctx n).runOnFired = true ∧ s.Logged t 0x0304 [n] ∧ s.StoresKept t ∧
        (s.rf (ctxOff n 0x304) 16 1 = 0 → t.jobState n = s.jobState n ∧ t.insts = s.insts) ∧ (s.rf (ctxOff n 0x304) 16 1 = 1 → t.jobState n = 5))

/-- R702, R708 to R710, R716 to R722: PARITY_INIT sends the whole image as deltas; DRAIN writes an image; RESTORE of an
image that checks sets the steps and empties the journal, whose verdict log entry 45 leaves free; REBUILD sends to its
TARGET, or there zeroes what is to be rebuilt. -/
def Obligations.RecoverOperations : Prop :=
  ∀ (s : State) (x : Inst), s.memOk = true → s.inst? x.id = some x → x.phase = .started → x.opcode = 0x10 → x.ctx < 16 →
    let n := x.ctx
    let sends := fun (cmd : Instr) (pk : List Packet) => x.progress = 0 → x.sigOn = false → (s.sendSome x pk 0).2 = pk.length →
      ∃ t, exec cmd s = .next t ∧ t.Ended x.id 0 0 ∧ s.Sent t pk ∧ t.regs = s.regs ∧ s.StoresKept t
    (x.recOp = 0 → x.sq < 1024 → s.parityBad n = false → sends (.parityInit x.id) ((s.imageLines n (s.fsStep n)).flatMap (s.deltaPkts n))) ∧
    (x.recOp = 1 → s.WorkPlain x (s.drainWork x) → ∃ t, exec (.drain x.id) s = .next t ∧ s.Wrote t x (s.drainWork x)) ∧
    (x.recOp = 2 → s.mayAcc x 0 (x.a64 8) 4096 = true → s.hostDown [(x.a64 8, 4096)] = false → s.want x [(x.a64 8, 4096)] = none →
      s.poisonx x (x.a64 8) 4096 = false → leAt (s.rdx x (x.a64 8) 4096) 0 4 = 1 →
      (∀ r ∈ (s.restoreParts x).map Prod.snd, s.mayAcc x 0 r.1 r.2 = true ∧ s.poisonx x r.1 r.2 = false) →
      s.want x ((s.restoreParts x).map Prod.snd) = none →
      ∃ t, exec (.restore x.id) s = .next t ∧ ((t.Ended x.id 0 0 ∧ t.fsStep n = x.w 7 ∧ t.psStep n = x.w 7 ∧ t.jr n 0x80C = x.w 7 ∧
        t.jnlUsed n = 0) ∨ (t.Ended x.id 4 0 ∧ t.regs = s.regs ∧ s.StoresKept t))) ∧
    (x.recOp = 3 → x.f 11 16 16 ≠ s.devId → sends (.rebuild x.id) (s.rebuildPkts n (x.slot.headD 0) (x.f 11 16 16))) ∧
    (x.recOp = 3 → x.f 11 16 16 = s.devId → x.stage = 0 → ∃ t y, exec (.rebuild x.id) s = .next t ∧ t.inst? x.id = some y ∧ y.stage = 1 ∧
      t.regs = s.regs ∧ ∀ g ∈ s.imgRegions n, ∀ k < g.size, memByte t.mem (s.granAt n g (s.psStep n) 0 + k) = 0#8)

/-- R652, R698: XOR of a delta into a granule changes its Diacritic by the CRC of the delta alone, whatever the granule
holds and whatever its tensor and index. -/
def Obligations.DeltasCarryDiacritics : Prop :=
  ∀ (old d : List Byte) (off tid ix : Nat), old.length = 1024 → off + d.length ≤ 1024 →
    diacOf (old.take off ++ xorBytes ((old.drop off).take d.length) d ++ old.drop (off + d.length)) [] tid ix =
      diacOf old [] tid ix ^^^ deltaCrc off d

/-- R696, R702: two shares rebuild any one or two lost members of a group: the survivors' bytes, the XOR of all bytes and
their sum weighted by powers of α, each multiplied as R702 says, add up to the lost byte. -/
def Obligations.SharesRebuildLostMembers : Prop :=
  ∀ (g a : Nat) (lost : List Nat) (haveP : Bool) (v : Nat → Nat) (c : Coefs), g ≤ 16 → (∀ m, v m < 256) → a ∈ lost → lost.Nodup →
    (∀ m ∈ lost, m < g) → rebuildCoefs a lost haveP = some c →
    let xor := fun (l : List Nat) => l.foldl (· ^^^ ·) 0
    let shareP := xor ((List.range g).map v)
    let shareQ := xor ((List.range g).map fun m => gfMul (gfPow 2 m) (v m))
    xor (gfMul c.p shareP :: gfMul c.q shareQ :: ((List.range g).filter fun m => !lost.contains m).map fun m => gfMul (c.survivor m) (v m)) = v a

/-! ## Control cores (06, 09) -/

/-- R42, R43, R307 to R311, R461, R462, R469, R470: the semaphore instructions of a core that works for a context, their
traps, the VSE instructions, scalar moves, cache invalidation, and the trap on another device's address. -/
def Obligations.ControlCoreInstructions : Prop :=
  ∀ (s : State) (c n rd rs1 a len : Nat) (v1 v2 : Word), s.sized = true → c < 32 → rd < 32 → rd ≠ 0 → rs1 < 32 → a < 2 ^ 64 → len < 2 ^ 32 →
    s.coreRuns c = true → swf 0#32 (s.core c).x = true → swf 0#32 (s.core c).sc = true →
    let k := s.core c
    let only := fun (t : State) => t = { s with cores := t.cores } ∧ ∀ d, d ≠ c → t.core d = s.core d
    let gets := fun (t : State) (v : Nat) => (sget 0#32 (t.core c).x rd).toNat = v ∧ ∀ r, r ≠ rd → sget 0#32 (t.core c).x r = sget 0#32 k.x r
    let traps := fun (cmd : Instr) (e : Trap) => ∃ t, exec cmd s = .next t ∧ (t.core c).trap = some e ∧ (t.core c).x = k.x ∧ t.regs = s.regs ∧ s.StoresKept t
    let u := fld v1 13 6
    let i := fld v1 0 13
    let sem := s.semVal u i
    (s.coreCtx c = some n → badSem u i = false → s.noDie u = false → s.semOwned u i (s.jobId n) = true → s.ringOf u i = none →
      (∃ t, exec (.semInstruction c rd 0 v1 v2) s = .next t ∧ t.semVal u i = min (sem + v2.toNat) (2 ^ 32 - 1) ∧ gets t sem ∧ s.RegsKept t (semTouch u i) ∧ s.StoresKept t) ∧
      (∃ t, exec (.semInstruction c rd 1 v1 v2) s = .next t ∧ t.semVal u i = sem - v2.toNat ∧ gets t sem ∧ s.RegsKept t (semTouch u i) ∧ s.StoresKept t) ∧
      (v2.toNat ≤ sem → (∃ t, exec (.semInstruction c rd 2 v1 v2) s = .next t ∧ t.regs = s.regs ∧ gets t sem) ∧
        ∃ t, exec (.semInstruction c rd 3 v1 v2) s = .next t ∧ t.semVal u i = sem - v2.toNat ∧ gets t sem ∧ s.RegsKept t (semTouch u i) ∧ s.StoresKept t) ∧
      (sem < v2.toNat → ∃ t, exec (.semInstruction c rd 2 v1 v2) s = .next t ∧ only t ∧ (t.core c).x = k.x ∧
        (t.core c).waiting = some (rd, ⟨u, i, v2.toNat, false⟩, s.clock.now, false)) ∧
      (s.granted ≠ 0 → ∃ t, exec (.semInstruction c rd 4 v1 v2) s = .next t ∧ t.semVal u i = v2.toNat ∧ gets t sem ∧ s.RegsKept t (semTouch u i) ∧ s.StoresKept t) ∧
      ∃ t, exec (.semInstruction c rd 5 v1 v2) s = .next t ∧ only t ∧ gets t sem) ∧
    traps (.semInstruction c rd 6 v1 v2) .illegalInstruction ∧ (s.granted = 0 → traps (.semInstruction c rd 4 v1 v2) .illegalInstruction) ∧
    (s.coreCtx c = none → traps (.semInstruction c rd 5 v1 v2) .accessFault) ∧
    (∃ t, exec (.vstab c v1 v2) s = .next t ∧ t.core c = { k with tabBase := v1.toNat, tabCount := v2.toNat } ∧ only t) ∧
    ((∀ m, s.coreCtx c = some m → s.stepOpen m = false) → v1.toNat + 16 ≤ ssmSize → ∃ t, exec (.vissue c v1) s = .next t ∧
      let r := s.coreIssue c v1.toNat
      t.mem = r.1.mem ∧ t.diacs = r.1.diacs ∧ t.regs = r.1.regs ∧
        (r.1.sized = true → (t.core c).vfail = if (r.1.core c).vfail = 0 then r.2 else (r.1.core c).vfail)) ∧
    (k.vfail < 2 ^ 32 → ∃ t, exec (.vwait c rd) s = .next t ∧ gets t k.vfail ∧ (t.core c).vfail = 0 ∧ only t) ∧
    (rd < 27 → ∃ t, exec (.scw c rd v1) s = .next t ∧ sget 0#32 (t.core c).sc rd = v1 ∧ (t.core c).x = k.x ∧ only t) ∧
    (∃ t, exec (.scr c rd rs1) s = .next t ∧ gets t (if rs1 = 0 ∨ 27 ≤ rs1 then 0 else (sget 0#32 k.sc rs1).toNat) ∧ only t) ∧
    (∃ t, exec (.cacheInvalidate c a len) s = .next t ∧ only t ∧ (t.core c).x = k.x ∧
      ∀ l, l ∈ (t.core c).dcache ↔ l ∈ k.dcache ∧ ¬(0 < len ∧ l.1 < a + len ∧ a < l.1 + 64)) ∧
    (∀ store : CoreOp, 1 ≤ store.len → store.len ≤ 8 → devOf a ≠ s.devId → ∃ t ws, exec (.coreRemoteAccess c a store) s = .next t ∧ (t.core c).trap = some .accessFault ∧ (t.core c).x = k.x ∧
      s.Logged t 0x0101 ws ∧ s.StoresKept t)
end

