-- ==== Sys2Proof/Laws/Lists.lean ====
section
/-! SUPPORT. Lemmas about sorted association lists, lists of contexts, bit fields and byte strings. -/
namespace Sys2Proof.Machine
variable {β : Type}

/-! ## Association lists -/

theorem sget_sput_same (d v : β) (k : Nat) (l : List (Nat × β)) : sget d (sput k v l) k = v := by
  induction l with
  | nil => simp [sput, sget]
  | cons e t ih =>
    obtain ⟨j, w⟩ := e
    unfold sput
    split
    · simp [sget]
    · split
      · simp [sget]
      · rename_i _ h
        simp [sget, Ne.symm h, ih]

theorem sget_sput_ne (d v : β) {k j : Nat} (h : j ≠ k) (l : List (Nat × β)) : sget d (sput k v l) j = sget d l j := by
  induction l with
  | nil => simp [sput, sget, Ne.symm h]
  | cons e t ih =>
    obtain ⟨i, w⟩ := e
    unfold sput
    split
    · simp [sget, Ne.symm h]
    · split
      · rename_i _ hk; subst hk
        simp [sget, Ne.symm h]
      · simp [sget, ih]

/-- Reading after a write, in one equation. -/
theorem sget_sput (d v : β) (k j : Nat) (l : List (Nat × β)) : sget d (sput k v l) j = if j = k then v else sget d l j := by
  split
  · subst_vars; exact sget_sput_same ..
  · exact sget_sput_ne _ _ ‹_› _

/-- The same through `find?`, as register reads are written. -/
theorem find?_sput (k j : Nat) (v : β) (l : List (Nat × β)) :
    (sput k v l).find? (fun e => e.1 == j) = if j = k then some (k, v) else l.find? fun e => e.1 == j := by
  induction l with
  | nil =>
    by_cases h : j = k
    · simp [sput, h]
    · simp [sput, h, beq_false_of_ne (Ne.symm h)]
  | cons e t ih =>
    obtain ⟨i, w⟩ := e
    unfold sput
    by_cases h : j = k
    · subst h
      split
      · simp
      · split
        · simp
        · rename_i _ hi
          simp [List.find?, beq_false_of_ne (Ne.symm hi), ih]
    · have hkj : (k == j) = false := beq_false_of_ne (Ne.symm h)
      split
      · simp [List.find?, hkj]
      · split
        · rename_i _ hk; subst hk
          simp [List.find?, hkj]
        · simp only [List.find?]
          split <;> simp_all

variable [DecidableEq β]

theorem swfFrom_mono (d : β) {a b : Nat} (h : b ≤ a) {l : List (Nat × β)} (hl : swfFrom d (some a) l = true) :
    swfFrom d (some b) l = true := by
  cases l with
  | nil => rfl
  | cons e t => simp only [swfFrom, Bool.and_eq_true, decide_eq_true_eq] at *; exact ⟨⟨by omega, hl.1.2⟩, hl.2⟩

theorem swf_of_swfFrom (d : β) {a : Option Nat} {l : List (Nat × β)} (hl : swfFrom d a l = true) : swf d l = true := by
  cases l with
  | nil => rfl
  | cons e t => simp only [swf, swfFrom, Bool.and_eq_true] at *; exact ⟨⟨trivial, hl.1.2⟩, hl.2⟩

/-- Below the first key, a list in canonical form holds nothing. -/
theorem sget_of_swfFrom (d : β) {a k : Nat} (h : k ≤ a) {l : List (Nat × β)} (hl : swfFrom d (some a) l = true) : sget d l k = d := by
  induction l generalizing a with
  | nil => rfl
  | cons e t ih =>
    obtain ⟨j, v⟩ := e
    simp only [swfFrom, Bool.and_eq_true, decide_eq_true_eq] at hl
    have : j ≠ k := by omega
    simp only [sget, this, if_false]
    exact ih (by omega) hl.2

/-- A list in canonical form is its bounded cons: the shape most inductions use. -/
theorem swfFrom_cons (d : β) (a : Option Nat) (k : Nat) (v : β) (t : List (Nat × β)) :
    swfFrom d a ((k, v) :: t) = true ↔ (∀ b, a = some b → b < k) ∧ v ≠ d ∧ swfFrom d (some k) t = true := by
  cases a <;> simp [swfFrom, and_assoc]

theorem swfFrom_sput (d : β) {v : β} (hv : v ≠ d) (k : Nat) :
    ∀ (l : List (Nat × β)) (a : Option Nat), (∀ b, a = some b → b < k) → swfFrom d a l = true → swfFrom d a (sput k v l) = true
  | [], a, ha, _ => by simpa [sput, swfFrom_cons] using ⟨ha, hv, rfl⟩
  | (j, w) :: t, a, ha, hl => by
    rw [swfFrom_cons] at hl
    unfold sput
    split
    · rw [swfFrom_cons]
      exact ⟨ha, hv, by rw [swfFrom_cons]; exact ⟨by simpa, hl.2⟩⟩
    · split
      · subst_vars
        rw [swfFrom_cons]
        exact ⟨ha, hv, hl.2.2⟩
      · rw [swfFrom_cons]
        exact ⟨hl.1, hl.2.1, swfFrom_sput d hv k t _ (by simp; omega) hl.2.2⟩

/-- A write of a value other than the default keeps the canonical form. -/
theorem swf_sput (d : β) {v : β} (hv : v ≠ d) (k : Nat) {l : List (Nat × β)} (hl : swf d l = true) : swf d (sput k v l) = true :=
  swfFrom_sput d hv k l none (by simp) hl

theorem swfFrom_sdel (d : β) (k : Nat) : ∀ (l : List (Nat × β)) (a : Option Nat), swfFrom d a l = true → swfFrom d a (sdel k l) = true
  | [], _, _ => rfl
  | (j, w) :: t, a, hl => by
    rw [swfFrom_cons] at hl
    unfold sdel
    split
    · cases a with
      | none => exact swf_of_swfFrom d hl.2.2
      | some b => exact swfFrom_mono d (by have := hl.1 b rfl; omega) hl.2.2
    · rw [swfFrom_cons]
      exact ⟨hl.1, hl.2.1, swfFrom_sdel d k t _ hl.2.2⟩

theorem sget_sdel (d : β) (k j : Nat) : ∀ {l : List (Nat × β)} {a : Option Nat}, swfFrom d a l = true →
    sget d (sdel k l) j = if j = k then d else sget d l j
  | [], _, _ => by simp [sdel, sget]
  | (i, w) :: t, a, hl => by
    rw [swfFrom_cons] at hl
    unfold sdel
    by_cases hk : k = i
    · subst hk
      simp only [if_true, sget]
      split
      · subst_vars
        exact sget_of_swfFrom d (Nat.le_refl _) hl.2.2
      · simp [Ne.symm ‹_›]
    · simp only [hk, if_false, sget, sget_sdel d k j hl.2.2]
      split
      · subst_vars; simp [Ne.symm hk]
      · rfl

/-- A write that leaves defaults unlisted keeps the canonical form. -/
theorem swf_sset (d v : β) (k : Nat) {l : List (Nat × β)} (hl : swf d l = true) : swf d (sset d k v l) = true := by
  unfold sset
  split
  · exact swfFrom_sdel d k l none hl
  · rename_i h; exact swf_sput d h k hl

theorem sget_sset (d v : β) (k j : Nat) {l : List (Nat × β)} (hl : swf d l = true) :
    sget d (sset d k v l) j = if j = k then v else sget d l j := by
  unfold sset
  split
  · rename_i h; rw [h]; exact sget_sdel d k j hl
  · exact sget_sput d v k j l

/-! ## One element of a list -/

@[simp] theorem modNth_length {α : Type} (f : α → α) (k : Nat) (l : List α) : (modNth f k l).length = l.length := by
  induction l generalizing k with
  | nil => cases k <;> rfl
  | cons a t ih => cases k <;> simp [modNth, ih]

theorem getD_modNth {α : Type} (f : α → α) (k j : Nat) (d : α) (l : List α) :
    (modNth f k l).getD j d = if j = k ∧ k < l.length then f (l.getD j d) else l.getD j d := by
  induction l generalizing k j with
  | nil => simp [modNth]
  | cons a t ih =>
    cases k <;> cases j <;> simp [modNth]
    rename_i k j
    simpa using ih k j

/-! ## Bit fields -/

theorem bits_lt (v lo w : Nat) : bits v lo w < 2 ^ w := Nat.mod_lt _ (by positivity)

theorem fld_lt (v : Word) (lo w : Nat) : fld v lo w < 2 ^ w := bits_lt ..

theorem setBits_lt {v lo w x : Nat} (h : v < 2 ^ 32) (hw : lo + w ≤ 32) : setBits v lo w x < 2 ^ 32 := by
  obtain ⟨d, hd⟩ := Nat.le.dest hw
  have h1 : v % 2 ^ lo < 2 ^ lo := Nat.mod_lt _ (by positivity)
  have h2 : x % 2 ^ w < 2 ^ w := Nat.mod_lt _ (by positivity)
  have h3 : v / 2 ^ (lo + w) < 2 ^ d := by
    rw [Nat.div_lt_iff_lt_mul (by positivity), ← Nat.pow_add, Nat.add_comm d]
    rwa [hd]
  have e : (2 : Nat) ^ 32 = 2 ^ lo * 2 ^ w * 2 ^ d := by rw [← Nat.pow_add, ← Nat.pow_add, hd]
  have e2 : (2 : Nat) ^ (lo + w) = 2 ^ lo * 2 ^ w := Nat.pow_add ..
  have h4 : x % 2 ^ w * 2 ^ lo + 2 ^ lo ≤ 2 ^ w * 2 ^ lo := by rw [← Nat.succ_mul]; exact Nat.mul_le_mul_right _ h2
  have h5 : v / 2 ^ (lo + w) * 2 ^ (lo + w) + 2 ^ (lo + w) ≤ 2 ^ d * 2 ^ (lo + w) := by
    rw [← Nat.succ_mul]; exact Nat.mul_le_mul_right _ h3
  have h6 : 2 ^ d * 2 ^ (lo + w) = 2 ^ lo * 2 ^ w * 2 ^ d := by rw [e2, Nat.mul_comm]
  have h7 : 2 ^ w * 2 ^ lo = 2 ^ (lo + w) := by rw [e2, Nat.mul_comm]
  unfold setBits
  omega

/-- A field just set holds what was put into it, modulo its width. -/
theorem bits_setBits (v lo w x : Nat) : bits (setBits v lo w x) lo w = x % 2 ^ w := by
  have h1 : v % 2 ^ lo < 2 ^ lo := Nat.mod_lt _ (by positivity)
  unfold bits setBits
  rw [Nat.pow_add]
  have : v % 2 ^ lo + x % 2 ^ w * 2 ^ lo + v / (2 ^ lo * 2 ^ w) * (2 ^ lo * 2 ^ w) =
      v % 2 ^ lo + 2 ^ lo * (x % 2 ^ w + 2 ^ w * (v / (2 ^ lo * 2 ^ w))) := by ring
  rw [this, Nat.add_mul_div_left _ _ (by positivity), Nat.div_eq_of_lt h1]
  simp

/-- A field that lies below one just set is as before. -/
theorem bits_setBits_below {v lo w x lo' w' : Nat} (h : lo' + w' ≤ lo) : bits (setBits v lo w x) lo' w' = bits v lo' w' := by
  obtain ⟨d, rfl⟩ := Nat.le.dest h
  unfold bits setBits
  have key : ∀ y, (v % 2 ^ (lo' + w' + d) + 2 ^ (lo' + w') * y) / 2 ^ lo' % 2 ^ w' = v / 2 ^ lo' % 2 ^ w' := by
    intro y
    rw [Nat.pow_add 2 lo' w', Nat.mul_assoc, Nat.add_mul_div_left _ _ (by positivity), Nat.add_mul_mod_self_left,
      Nat.add_assoc lo', Nat.pow_add 2 lo', Nat.mod_mul_right_div_self, Nat.pow_add, Nat.mod_mul_right_mod]
  rw [← key (2 ^ d * (x % 2 ^ w) + 2 ^ d * 2 ^ w * (v / 2 ^ (lo' + w' + d + w)))]
  congr 2
  rw [Nat.pow_add 2 (lo' + w' + d) w, Nat.pow_add 2 (lo' + w') d]
  ring

/-- A field that lies above one just set is as before. -/
theorem bits_setBits_above {v lo w x lo' w' : Nat} (h : lo + w ≤ lo') : bits (setBits v lo w x) lo' w' = bits v lo' w' := by
  obtain ⟨d, rfl⟩ := Nat.le.dest h
  have h1 : v % 2 ^ lo < 2 ^ lo := Nat.mod_lt _ (by positivity)
  have h2 : x % 2 ^ w < 2 ^ w := Nat.mod_lt _ (by positivity)
  have e2 : (2 : Nat) ^ (lo + w) = 2 ^ lo * 2 ^ w := Nat.pow_add ..
  have h3 : v % 2 ^ lo + x % 2 ^ w * 2 ^ lo < 2 ^ (lo + w) := by
    have h4 : x % 2 ^ w * 2 ^ lo + 2 ^ lo ≤ 2 ^ w * 2 ^ lo := by rw [← Nat.succ_mul]; exact Nat.mul_le_mul_right _ h2
    have h7 : 2 ^ w * 2 ^ lo = 2 ^ (lo + w) := by rw [e2, Nat.mul_comm]
    omega
  unfold bits setBits
  congr 1
  rw [Nat.pow_add 2 (lo + w) d, ← Nat.div_div_eq_div_mul, ← Nat.div_div_eq_div_mul]
  congr 1
  rw [Nat.mul_comm (v / _), Nat.add_mul_div_left _ _ (by positivity), Nat.div_eq_of_lt h3, Nat.zero_add]

theorem toNat_setFld (v : Word) {lo w x : Nat} (hw : lo + w ≤ 32) : (setFld v lo w x).toNat = setBits v.toNat lo w x := by
  simpa [setFld] using Nat.mod_eq_of_lt (setBits_lt v.isLt hw)

theorem fld_setFld (v : Word) {lo w x : Nat} (hw : lo + w ≤ 32) : fld (setFld v lo w x) lo w = x % 2 ^ w := by
  rw [fld, toNat_setFld v hw, bits_setBits]

theorem fld_setFld_of_disjoint (v : Word) {lo w x lo' w' : Nat} (hw : lo + w ≤ 32) (h : lo' + w' ≤ lo ∨ lo + w ≤ lo') :
    fld (setFld v lo w x) lo' w' = fld v lo' w' := by
  rw [fld, fld, toNat_setFld v hw]
  rcases h with h | h
  · exact bits_setBits_below h
  · exact bits_setBits_above h

/-! ## Byte strings -/

@[simp] theorem leBytes_length (n v : Nat) : (leBytes n v).length = n := by
  induction n generalizing v with
  | zero => rfl
  | succ n ih => simp [leBytes, ih]

theorem leNat_leBytes (n v : Nat) : leNat (leBytes n v) = v % 256 ^ n := by
  induction n generalizing v with
  | zero => simp [leBytes, leNat, Nat.mod_one]
  | succ n ih =>
    simp only [leBytes, leNat, ih, BitVec.toNat_ofNat]
    have : v % 2 ^ 8 = v % 256 := rfl
    rw [this, Nat.pow_succ, Nat.mul_comm _ 256, Nat.mod_mul]

@[simp] theorem slice_length (bs : List Byte) (o n : Nat) : (slice bs o n).length = n := by
  simp [slice]

end Sys2Proof.Machine
end

