-- ==== Sys2Proof/Laws/Memory.lean ====
section
/-! SUPPORT. Memory: the canonical form is kept by every operation, a read after a write gives the bytes written, and every other byte stays. -/
namespace Sys2Proof.Machine

/-! ## The canonical form as a statement about pairs -/

theorem swfFrom_iff {β : Type} [DecidableEq β] (d : β) (a : Option Nat) (l : List (Nat × β)) :
    swfFrom d a l = true ↔ (∀ b, a = some b → ∀ e ∈ l, b < e.1) ∧ l.Pairwise (fun x y => x.1 < y.1) ∧ ∀ e ∈ l, e.2 ≠ d := by
  induction l generalizing a with
  | nil => simp [swfFrom]
  | cons e t ih =>
    obtain ⟨k, v⟩ := e
    rw [swfFrom_cons, ih]
    simp only [Option.some.injEq, forall_eq', List.mem_cons, forall_eq_or_imp, List.pairwise_cons]
    constructor
    · rintro ⟨h1, h2, h3, h4, h5⟩
      exact ⟨fun b hb => ⟨h1 b hb, fun e he => (h1 b hb).trans (h3 e he)⟩, ⟨h3, h4⟩, h2, h5⟩
    · rintro ⟨h1, ⟨h3, h4⟩, h2, h5⟩
      exact ⟨fun b hb => (h1 b hb).1, h2, h3, h4, h5⟩

theorem Memory.wf_iff (m : List Host.Cell) :
    Memory.wf m = true ↔ m.Pairwise (fun x y => x.1 < y.1) ∧ ∀ e ∈ m, e.2 ≠ 0#8 := by
  simp [Memory.wf, swf, swfFrom_iff]

/-- In canonical form, a byte is listed exactly where it is not zero. -/
theorem memByte_of_mem {m : List Host.Cell} (h : m.Pairwise (fun x y => x.1 < y.1)) {a : Nat} {v : Byte} (hm : (a, v) ∈ m) :
    memByte m a = v := by
  induction m with
  | nil => simp at hm
  | cons e t ih =>
    obtain ⟨k, w⟩ := e
    rw [List.pairwise_cons] at h
    simp only [List.mem_cons, Prod.mk.injEq] at hm
    rcases hm with ⟨rfl, rfl⟩ | hm
    · simp [memByte, sget]
    · have := h.1 _ hm
      simp only at this
      have hk : k ≠ a := by omega
      simpa [memByte, sget, hk] using ih h.2 hm

theorem memByte_of_not_mem {m : List Host.Cell} {a : Nat} (h : ∀ e ∈ m, e.1 ≠ a) : memByte m a = 0#8 := by
  induction m with
  | nil => rfl
  | cons e t ih =>
    obtain ⟨k, w⟩ := e
    have hk : k ≠ a := h (k, w) (by simp)
    simpa [memByte, sget, hk] using ih fun e he => h e (by simp [he])

theorem memByte_append (l r : List Host.Cell) (a : Nat) :
    memByte (l ++ r) a = if ∃ e ∈ l, e.1 = a then memByte l a else memByte r a := by
  induction l with
  | nil => simp
  | cons e t ih =>
    obtain ⟨k, w⟩ := e
    by_cases hk : k = a
    · subst hk; simp [memByte, sget]
    · simp only [memByte] at ih
      simp [memByte, sget, hk, ih]

/-! ## Bytes written -/

theorem mem_cells {a : Nat} {bs : List Byte} {e : Host.Cell} :
    e ∈ cells a bs ↔ ∃ k, k < bs.length ∧ e = (a + k, bs.getD k 0#8) ∧ e.2 ≠ 0#8 := by
  induction bs generalizing a with
  | nil => simp [cells]
  | cons b t ih =>
    have step : (∃ k, k < t.length ∧ e = (a + 1 + k, t.getD k 0#8) ∧ e.2 ≠ 0#8) ↔
        ∃ k, 0 < k ∧ k < t.length + 1 ∧ e = (a + k, (b :: t).getD k 0#8) ∧ e.2 ≠ 0#8 := by
      constructor
      · rintro ⟨k, h1, h2, h3⟩
        exact ⟨k + 1, by omega, by omega, by rw [h2]; simp; omega, h3⟩
      · rintro ⟨k, h0, h1, h2, h3⟩
        obtain ⟨j, rfl⟩ : ∃ j, k = j + 1 := ⟨k - 1, by omega⟩
        exact ⟨j, by omega, by rw [h2]; simp; omega, h3⟩
    have split0 : (∃ k, k < t.length + 1 ∧ e = (a + k, (b :: t).getD k 0#8) ∧ e.2 ≠ 0#8) ↔
        (e = (a, b) ∧ b ≠ 0#8) ∨ ∃ k, 0 < k ∧ k < t.length + 1 ∧ e = (a + k, (b :: t).getD k 0#8) ∧ e.2 ≠ 0#8 := by
      constructor
      · rintro ⟨k, h1, h2, h3⟩
        rcases Nat.eq_zero_or_pos k with rfl | hk
        · left; simp at h2; exact ⟨h2, by rw [h2] at h3; exact h3⟩
        · right; exact ⟨k, hk, h1, h2, h3⟩
      · rintro (⟨h1, h2⟩ | ⟨k, _, h1, h2, h3⟩)
        · exact ⟨0, by omega, by simp [h1], by rw [h1]; exact h2⟩
        · exact ⟨k, h1, h2, h3⟩
    rw [List.length_cons, split0, ← step, ← ih]
    rw [cells]
    split <;> rename_i hb
    · simp only [hb, ne_eq, not_true_eq_false, and_false, false_or]
    · simp only [List.mem_cons, ne_eq, hb, not_false_eq_true, and_true]

theorem cells_pairwise (a : Nat) (bs : List Byte) : (cells a bs).Pairwise (fun x y => x.1 < y.1) := by
  induction bs generalizing a with
  | nil => simp [cells]
  | cons b t ih =>
    unfold cells
    split
    · exact ih _
    · rw [List.pairwise_cons]
      refine ⟨fun e he => ?_, ih _⟩
      obtain ⟨k, -, rfl, -⟩ := mem_cells.1 he
      simp only
      omega

theorem mem_takeWhile_lt {m : List Host.Cell} (h : m.Pairwise (fun x y => x.1 < y.1)) (a : Nat) (e : Host.Cell) :
    e ∈ m.takeWhile (fun c => decide (c.1 < a)) ↔ e ∈ m ∧ e.1 < a := by
  induction m with
  | nil => simp
  | cons c t ih =>
    rw [List.pairwise_cons] at h
    by_cases hc : c.1 < a
    · simp only [List.takeWhile_cons, hc, decide_true, if_true, List.mem_cons, ih h.2]
      constructor
      · rintro (rfl | ⟨h1, h2⟩) <;> simp [*]
      · rintro ⟨rfl | h1, h2⟩ <;> simp [*]
    · simp only [List.takeWhile_cons, hc, decide_false, Bool.false_eq_true, if_false, List.not_mem_nil, List.mem_cons, false_iff]
      rintro ⟨rfl | h1, h2⟩
      · exact hc h2
      · exact hc ((h.1 _ h1).trans h2)

theorem mem_dropWhile_lt {m : List Host.Cell} (h : m.Pairwise (fun x y => x.1 < y.1)) (a : Nat) (e : Host.Cell) :
    e ∈ m.dropWhile (fun c => decide (c.1 < a)) ↔ e ∈ m ∧ a ≤ e.1 := by
  induction m with
  | nil => simp
  | cons c t ih =>
    have h' := List.pairwise_cons.1 h
    by_cases hc : c.1 < a
    · simp only [List.dropWhile_cons, hc, decide_true, if_true, List.mem_cons, ih h'.2]
      constructor
      · rintro ⟨h1, h2⟩; exact ⟨.inr h1, h2⟩
      · rintro ⟨rfl | h1, h2⟩
        · omega
        · exact ⟨h1, h2⟩
    · simp only [List.dropWhile_cons, hc, decide_false, Bool.false_eq_true, if_false, List.mem_cons]
      constructor
      · rintro (rfl | h1)
        · exact ⟨.inl rfl, by omega⟩
        · exact ⟨.inr h1, by have := h'.1 _ h1; omega⟩
      · exact fun h => h.1

/-- A write keeps the canonical form. -/
theorem Memory.wf_memWrite {m : List Host.Cell} (h : Memory.wf m = true) (a : Nat) (bs : List Byte) :
    Memory.wf (memWrite m a bs) = true := by
  rw [Memory.wf_iff] at *
  obtain ⟨hp, hz⟩ := h
  refine ⟨?_, fun e he => ?_⟩
  · unfold memWrite
    rw [List.pairwise_append, List.pairwise_append]
    refine ⟨⟨hp.sublist (List.takeWhile_sublist _), cells_pairwise a bs, fun x hx y hy => ?_⟩,
      hp.sublist (List.dropWhile_sublist _), fun x hx y hy => ?_⟩
    · have := ((mem_takeWhile_lt hp a x).1 hx).2
      obtain ⟨k, -, rfl, -⟩ := mem_cells.1 hy
      simp only; omega
    · have h2 := ((mem_dropWhile_lt hp _ y).1 hy).2
      rcases List.mem_append.1 hx with hx | hx
      · have := ((mem_takeWhile_lt hp a x).1 hx).2; omega
      · obtain ⟨k, hk, rfl, -⟩ := mem_cells.1 hx
        simp only; omega
  · unfold memWrite at he
    simp only [List.mem_append] at he
    rcases he with (he | he) | he
    · exact hz e ((mem_takeWhile_lt hp a e).1 he).1
    · obtain ⟨k, -, -, h⟩ := mem_cells.1 he; exact h
    · exact hz e ((mem_dropWhile_lt hp _ e).1 he).1

/-- Two memories in canonical form with the same entries read the same. -/
theorem memByte_eq_iff {m : List Host.Cell} (h : Memory.wf m = true) (a : Nat) (v : Byte) (hv : v ≠ 0#8) :
    memByte m a = v ↔ (a, v) ∈ m := by
  rw [Memory.wf_iff] at h
  constructor
  · intro e
    by_contra hn
    by_cases hk : ∃ w, (a, w) ∈ m
    · obtain ⟨w, hw⟩ := hk
      rw [memByte_of_mem h.1 hw] at e
      exact hn (e ▸ hw)
    · rw [memByte_of_not_mem] at e
      · exact hv e.symm
      · rintro ⟨k, w⟩ he rfl
        exact hk ⟨w, he⟩
  · exact memByte_of_mem h.1

/-- Every byte after a write: those written, and all others as before. -/
theorem memByte_memWrite {m : List Host.Cell} (h : Memory.wf m = true) (a : Nat) (bs : List Byte) (b : Nat) :
    memByte (memWrite m a bs) b = if a ≤ b ∧ b < a + bs.length then bs.getD (b - a) 0#8 else memByte m b := by
  have hw := Memory.wf_memWrite h a bs
  have hp := ((Memory.wf_iff m).1 h).1
  have key : ∀ v, v ≠ 0#8 → ((b, v) ∈ memWrite m a bs ↔
      (if a ≤ b ∧ b < a + bs.length then bs.getD (b - a) 0#8 else memByte m b) = v) := by
    intro v hv
    unfold memWrite
    simp only [List.mem_append, mem_takeWhile_lt hp, mem_dropWhile_lt hp]
    split
    · rename_i hb
      constructor
      · rintro ((⟨-, h1⟩ | h1) | ⟨-, h1⟩)
        · omega
        · obtain ⟨k, hk, he, -⟩ := mem_cells.1 h1
          simp only [Prod.mk.injEq] at he
          rw [show b - a = k by omega]; exact he.2.symm
        · omega
      · intro e
        refine .inl (.inr (mem_cells.2 ⟨b - a, by omega, ?_, hv⟩))
        rw [e]; simp; omega
    · rename_i hb
      rw [memByte_eq_iff h b v hv]
      constructor
      · rintro ((⟨h1, -⟩ | h1) | ⟨h1, -⟩)
        · exact h1
        · obtain ⟨k, hk, he, -⟩ := mem_cells.1 h1
          simp only [Prod.mk.injEq] at he
          omega
        · exact h1
      · intro h1
        rcases Nat.lt_or_ge b a with hlt | hge
        · exact .inl (.inl ⟨h1, hlt⟩)
        · exact .inr ⟨h1, by omega⟩
  by_cases hz : memByte (memWrite m a bs) b = 0#8
  · by_contra hne
    set r := (if a ≤ b ∧ b < a + bs.length then bs.getD (b - a) 0#8 else memByte m b) with hr
    have hr0 : r ≠ 0#8 := fun e => hne (by rw [hz, e])
    have := (memByte_eq_iff hw b r hr0).2 ((key r hr0).2 rfl)
    exact hne this
  · exact (((key _ hz).1) ((memByte_eq_iff hw b _ hz).1 rfl)).symm

/-- A walk over a sorted list gives the bytes one by one. -/
theorem walk_eq (m : List Host.Cell) : ∀ (n a : Nat), m.Pairwise (fun x y => x.1 < y.1) → (∀ e ∈ m, a ≤ e.1) →
    walk m a n = (List.range n).map fun i => memByte m (a + i) := by
  intro n
  induction n generalizing m with
  | zero => intros; simp [walk]
  | succ n ih =>
    intro a hp hm
    rw [List.range_succ_eq_map, List.map_cons, List.map_map]
    match m, hp, hm with
    | [], _, _ =>
      have h0 := ih [] (a + 1) (by simp) (by simp)
      rw [walk, h0]
      refine List.cons_eq_cons.2 ⟨rfl, List.map_congr_left fun i _ => rfl⟩
    | (k, v) :: t, hp, hm =>
      have hp' := List.pairwise_cons.1 hp
      have hk : a ≤ k := hm (k, v) (by simp)
      rw [walk]
      split
      · subst_vars
        have ht : ∀ e ∈ t, k + 1 ≤ e.1 := fun e he => hp'.1 e he
        rw [ih t (k + 1) hp'.2 ht]
        congr 1
        · simp [memByte, sget]
        · apply List.map_congr_left
          intro i _
          have : k ≠ k + (i + 1) := by omega
          simp only [memByte, sget, Function.comp, Nat.succ_eq_add_one, this, if_false]
          congr 1; omega
      · rename_i hne
        have hlt : a < k := by omega
        rw [ih _ (a + 1) hp (fun e he => by
          rcases List.mem_cons.1 he with rfl | he
          · exact hlt
          · have := hp'.1 e he; simp only at this; omega)]
        congr 1
        · symm
          apply memByte_of_not_mem
          intro e he
          rcases List.mem_cons.1 he with rfl | he
          · simp only [Nat.add_zero]; omega
          · have := hp'.1 e he; simp only at this; omega
        · apply List.map_congr_left
          intro i _
          simp only [Function.comp, Nat.succ_eq_add_one]
          congr 1; omega

/-- A read gives the bytes one by one. -/
theorem memRead_eq {m : List Host.Cell} (h : Memory.wf m = true) (a n : Nat) :
    memRead m a n = (List.range n).map fun i => memByte m (a + i) := by
  have hp := ((Memory.wf_iff m).1 h).1
  unfold memRead
  rw [walk_eq _ n a (hp.sublist (List.dropWhile_sublist _)) (fun e he => ((mem_dropWhile_lt hp a e).1 he).2)]
  apply List.map_congr_left
  intro i _
  have hd := hp.sublist (List.dropWhile_sublist (fun c => decide (c.1 < a)))
  by_cases hx : ∃ v, (a + i, v) ∈ m
  · obtain ⟨v, hv⟩ := hx
    rw [memByte_of_mem hp hv, memByte_of_mem hd ((mem_dropWhile_lt hp a _).2 ⟨hv, by simp⟩)]
  · have : ∀ e ∈ m, e.1 ≠ a + i := by rintro ⟨k, v⟩ he rfl; exact hx ⟨v, he⟩
    rw [memByte_of_not_mem this, memByte_of_not_mem fun e he => this e ((mem_dropWhile_lt hp a e).1 he).1]

@[simp] theorem memRead_length {m : List Host.Cell} (h : Memory.wf m = true) (a n : Nat) : (memRead m a n).length = n := by
  simp [memRead_eq h]

/-- A read of what was just written gives it back. -/
theorem memRead_memWrite_same {m : List Host.Cell} (h : Memory.wf m = true) (a : Nat) (bs : List Byte) :
    memRead (memWrite m a bs) a bs.length = bs := by
  rw [memRead_eq (Memory.wf_memWrite h a bs)]
  apply List.ext_getElem (by simp)
  intro i h1 h2
  simp only [List.getElem_map, List.getElem_range, memByte_memWrite h]
  rw [if_pos ⟨by omega, by omega⟩]
  simp [h2]

/-- A read elsewhere is as before. -/
theorem memRead_memWrite_of_disjoint {m : List Host.Cell} (h : Memory.wf m = true) {a b n : Nat} {bs : List Byte}
    (hd : b + n ≤ a ∨ a + bs.length ≤ b) : memRead (memWrite m a bs) b n = memRead m b n := by
  rw [memRead_eq (Memory.wf_memWrite h a bs), memRead_eq h]
  apply List.map_congr_left
  intro i hi
  rw [memByte_memWrite h, if_neg]
  simp at hi
  omega

/-- Clearing a range keeps the canonical form. -/
theorem Memory.wf_filter {m : List Host.Cell} (h : Memory.wf m = true) (p : Host.Cell → Bool) : Memory.wf (m.filter p) = true := by
  rw [Memory.wf_iff] at *
  exact ⟨h.1.sublist List.filter_sublist, fun e he => h.2 e (List.mem_of_mem_filter he)⟩

theorem Memory.wf_memClear {m : List Host.Cell} (h : Memory.wf m = true) (a b : Nat) : Memory.wf (memClear m a b) = true :=
  Memory.wf_filter h _

/-- Every byte after clearing a range: 0 inside, as before outside. -/
theorem memByte_memClear {m : List Host.Cell} (h : Memory.wf m = true) (a b x : Nat) :
    memByte (memClear m a b) x = if a ≤ x ∧ x < b then 0#8 else memByte m x := by
  have hp := ((Memory.wf_iff m).1 h).1
  have hp' := ((Memory.wf_iff _).1 (Memory.wf_memClear h a b)).1
  split
  · apply memByte_of_not_mem
    intro e he
    have := List.of_mem_filter he
    simp only [Bool.or_eq_true, decide_eq_true_eq] at this
    omega
  · by_cases hx : ∃ v, (x, v) ∈ m
    · obtain ⟨v, hv⟩ := hx
      rw [memByte_of_mem hp hv, memByte_of_mem hp' (List.mem_filter.2 ⟨hv, by simp only [Bool.or_eq_true, decide_eq_true_eq]; omega⟩)]
    · have : ∀ e ∈ m, e.1 ≠ x := by rintro ⟨k, v⟩ he rfl; exact hx ⟨v, he⟩
      rw [memByte_of_not_mem this, memByte_of_not_mem]
      exact fun e he => this e (List.mem_of_mem_filter he)

end Sys2Proof.Machine
end

