-- ==== Sys2Proof/Laws/State.lean ====
section
/-! SUPPORT. What each named update of State leaves as it was: one lemma for each field that an update does not touch. -/
namespace Sys2Proof.Machine
variable (s : State)


/-! `setReg` writes regs. -/

@[simp] theorem State.setReg_pending (off : Nat) (v : Word) : (s.setReg off v).pending = s.pending := rfl
@[simp] theorem State.setReg_mem (off : Nat) (v : Word) : (s.setReg off v).mem = s.mem := rfl
@[simp] theorem State.setReg_diacs (off : Nat) (v : Word) : (s.setReg off v).diacs = s.diacs := rfl
@[simp] theorem State.setReg_poison (off : Nat) (v : Word) : (s.setReg off v).poison = s.poison := rfl
@[simp] theorem State.setReg_wc (off : Nat) (v : Word) : (s.setReg off v).wc = s.wc := rfl
@[simp] theorem State.setReg_insts (off : Nat) (v : Word) : (s.setReg off v).insts = s.insts := rfl
@[simp] theorem State.setReg_nextInst (off : Nat) (v : Word) : (s.setReg off v).nextInst = s.nextInst := rfl
@[simp] theorem State.setReg_host (off : Nat) (v : Word) : (s.setReg off v).host = s.host := rfl
@[simp] theorem State.setReg_ctxs (off : Nat) (v : Word) : (s.setReg off v).ctxs = s.ctxs := rfl
@[simp] theorem State.setReg_cores (off : Nat) (v : Word) : (s.setReg off v).cores = s.cores := rfl
@[simp] theorem State.setReg_wakes (off : Nat) (v : Word) : (s.setReg off v).wakes = s.wakes := rfl
@[simp] theorem State.setReg_tileq (off : Nat) (v : Word) : (s.setReg off v).tileq = s.tileq := rfl
@[simp] theorem State.setReg_passBase (off : Nat) (v : Word) : (s.setReg off v).passBase = s.passBase := rfl
@[simp] theorem State.setReg_mcores (off : Nat) (v : Word) : (s.setReg off v).mcores = s.mcores := rfl
@[simp] theorem State.setReg_tcm (off : Nat) (v : Word) : (s.setReg off v).tcm = s.tcm := rfl
@[simp] theorem State.setReg_hot (off : Nat) (v : Word) : (s.setReg off v).hot = s.hot := rfl
@[simp] theorem State.setReg_fab (off : Nat) (v : Word) : (s.setReg off v).fab = s.fab := rfl
@[simp] theorem State.setReg_mgr (off : Nat) (v : Word) : (s.setReg off v).mgr = s.mgr := rfl
@[simp] theorem State.setReg_clock (off : Nat) (v : Word) : (s.setReg off v).clock = s.clock := rfl
@[simp] theorem State.setReg_rst (off : Nat) (v : Word) : (s.setReg off v).rst = s.rst := rfl
@[simp] theorem State.setReg_stores (off : Nat) (v : Word) : (s.setReg off v).stores = s.stores := rfl
@[simp] theorem State.setReg_pow (off : Nat) (v : Word) : (s.setReg off v).pow = s.pow := rfl
@[simp] theorem State.setReg_sec (off : Nat) (v : Word) : (s.setReg off v).sec = s.sec := rfl
@[simp] theorem State.setReg_log (off : Nat) (v : Word) : (s.setReg off v).log = s.log := rfl
@[simp] theorem State.setReg_freeCtr (off : Nat) (v : Word) : (s.setReg off v).freeCtr = s.freeCtr := rfl

/-! `setF` writes regs. -/

@[simp] theorem State.setF_pending (off lo w x : Nat) : (s.setF off lo w x).pending = s.pending := rfl
@[simp] theorem State.setF_mem (off lo w x : Nat) : (s.setF off lo w x).mem = s.mem := rfl
@[simp] theorem State.setF_diacs (off lo w x : Nat) : (s.setF off lo w x).diacs = s.diacs := rfl
@[simp] theorem State.setF_poison (off lo w x : Nat) : (s.setF off lo w x).poison = s.poison := rfl
@[simp] theorem State.setF_wc (off lo w x : Nat) : (s.setF off lo w x).wc = s.wc := rfl
@[simp] theorem State.setF_insts (off lo w x : Nat) : (s.setF off lo w x).insts = s.insts := rfl
@[simp] theorem State.setF_nextInst (off lo w x : Nat) : (s.setF off lo w x).nextInst = s.nextInst := rfl
@[simp] theorem State.setF_host (off lo w x : Nat) : (s.setF off lo w x).host = s.host := rfl
@[simp] theorem State.setF_ctxs (off lo w x : Nat) : (s.setF off lo w x).ctxs = s.ctxs := rfl
@[simp] theorem State.setF_cores (off lo w x : Nat) : (s.setF off lo w x).cores = s.cores := rfl
@[simp] theorem State.setF_wakes (off lo w x : Nat) : (s.setF off lo w x).wakes = s.wakes := rfl
@[simp] theorem State.setF_tileq (off lo w x : Nat) : (s.setF off lo w x).tileq = s.tileq := rfl
@[simp] theorem State.setF_passBase (off lo w x : Nat) : (s.setF off lo w x).passBase = s.passBase := rfl
@[simp] theorem State.setF_mcores (off lo w x : Nat) : (s.setF off lo w x).mcores = s.mcores := rfl
@[simp] theorem State.setF_tcm (off lo w x : Nat) : (s.setF off lo w x).tcm = s.tcm := rfl
@[simp] theorem State.setF_hot (off lo w x : Nat) : (s.setF off lo w x).hot = s.hot := rfl
@[simp] theorem State.setF_fab (off lo w x : Nat) : (s.setF off lo w x).fab = s.fab := rfl
@[simp] theorem State.setF_mgr (off lo w x : Nat) : (s.setF off lo w x).mgr = s.mgr := rfl
@[simp] theorem State.setF_clock (off lo w x : Nat) : (s.setF off lo w x).clock = s.clock := rfl
@[simp] theorem State.setF_rst (off lo w x : Nat) : (s.setF off lo w x).rst = s.rst := rfl
@[simp] theorem State.setF_stores (off lo w x : Nat) : (s.setF off lo w x).stores = s.stores := rfl
@[simp] theorem State.setF_pow (off lo w x : Nat) : (s.setF off lo w x).pow = s.pow := rfl
@[simp] theorem State.setF_sec (off lo w x : Nat) : (s.setF off lo w x).sec = s.sec := rfl
@[simp] theorem State.setF_log (off lo w x : Nat) : (s.setF off lo w x).log = s.log := rfl
@[simp] theorem State.setF_freeCtr (off lo w x : Nat) : (s.setF off lo w x).freeCtr = s.freeCtr := rfl

/-! `countF` writes regs. -/

@[simp] theorem State.countF_pending (off w n : Nat) : (s.countF off w n).pending = s.pending := rfl
@[simp] theorem State.countF_mem (off w n : Nat) : (s.countF off w n).mem = s.mem := rfl
@[simp] theorem State.countF_diacs (off w n : Nat) : (s.countF off w n).diacs = s.diacs := rfl
@[simp] theorem State.countF_poison (off w n : Nat) : (s.countF off w n).poison = s.poison := rfl
@[simp] theorem State.countF_wc (off w n : Nat) : (s.countF off w n).wc = s.wc := rfl
@[simp] theorem State.countF_insts (off w n : Nat) : (s.countF off w n).insts = s.insts := rfl
@[simp] theorem State.countF_nextInst (off w n : Nat) : (s.countF off w n).nextInst = s.nextInst := rfl
@[simp] theorem State.countF_host (off w n : Nat) : (s.countF off w n).host = s.host := rfl
@[simp] theorem State.countF_ctxs (off w n : Nat) : (s.countF off w n).ctxs = s.ctxs := rfl
@[simp] theorem State.countF_cores (off w n : Nat) : (s.countF off w n).cores = s.cores := rfl
@[simp] theorem State.countF_wakes (off w n : Nat) : (s.countF off w n).wakes = s.wakes := rfl
@[simp] theorem State.countF_tileq (off w n : Nat) : (s.countF off w n).tileq = s.tileq := rfl
@[simp] theorem State.countF_passBase (off w n : Nat) : (s.countF off w n).passBase = s.passBase := rfl
@[simp] theorem State.countF_mcores (off w n : Nat) : (s.countF off w n).mcores = s.mcores := rfl
@[simp] theorem State.countF_tcm (off w n : Nat) : (s.countF off w n).tcm = s.tcm := rfl
@[simp] theorem State.countF_hot (off w n : Nat) : (s.countF off w n).hot = s.hot := rfl
@[simp] theorem State.countF_fab (off w n : Nat) : (s.countF off w n).fab = s.fab := rfl
@[simp] theorem State.countF_mgr (off w n : Nat) : (s.countF off w n).mgr = s.mgr := rfl
@[simp] theorem State.countF_clock (off w n : Nat) : (s.countF off w n).clock = s.clock := rfl
@[simp] theorem State.countF_rst (off w n : Nat) : (s.countF off w n).rst = s.rst := rfl
@[simp] theorem State.countF_stores (off w n : Nat) : (s.countF off w n).stores = s.stores := rfl
@[simp] theorem State.countF_pow (off w n : Nat) : (s.countF off w n).pow = s.pow := rfl
@[simp] theorem State.countF_sec (off w n : Nat) : (s.countF off w n).sec = s.sec := rfl
@[simp] theorem State.countF_log (off w n : Nat) : (s.countF off w n).log = s.log := rfl
@[simp] theorem State.countF_freeCtr (off w n : Nat) : (s.countF off w n).freeCtr = s.freeCtr := rfl

/-! `setJobState` writes regs. -/

@[simp] theorem State.setJobState_pending (n v : Nat) : (s.setJobState n v).pending = s.pending := rfl
@[simp] theorem State.setJobState_mem (n v : Nat) : (s.setJobState n v).mem = s.mem := rfl
@[simp] theorem State.setJobState_diacs (n v : Nat) : (s.setJobState n v).diacs = s.diacs := rfl
@[simp] theorem State.setJobState_poison (n v : Nat) : (s.setJobState n v).poison = s.poison := rfl
@[simp] theorem State.setJobState_wc (n v : Nat) : (s.setJobState n v).wc = s.wc := rfl
@[simp] theorem State.setJobState_insts (n v : Nat) : (s.setJobState n v).insts = s.insts := rfl
@[simp] theorem State.setJobState_nextInst (n v : Nat) : (s.setJobState n v).nextInst = s.nextInst := rfl
@[simp] theorem State.setJobState_host (n v : Nat) : (s.setJobState n v).host = s.host := rfl
@[simp] theorem State.setJobState_ctxs (n v : Nat) : (s.setJobState n v).ctxs = s.ctxs := rfl
@[simp] theorem State.setJobState_cores (n v : Nat) : (s.setJobState n v).cores = s.cores := rfl
@[simp] theorem State.setJobState_wakes (n v : Nat) : (s.setJobState n v).wakes = s.wakes := rfl
@[simp] theorem State.setJobState_tileq (n v : Nat) : (s.setJobState n v).tileq = s.tileq := rfl
@[simp] theorem State.setJobState_passBase (n v : Nat) : (s.setJobState n v).passBase = s.passBase := rfl
@[simp] theorem State.setJobState_mcores (n v : Nat) : (s.setJobState n v).mcores = s.mcores := rfl
@[simp] theorem State.setJobState_tcm (n v : Nat) : (s.setJobState n v).tcm = s.tcm := rfl
@[simp] theorem State.setJobState_hot (n v : Nat) : (s.setJobState n v).hot = s.hot := rfl
@[simp] theorem State.setJobState_fab (n v : Nat) : (s.setJobState n v).fab = s.fab := rfl
@[simp] theorem State.setJobState_mgr (n v : Nat) : (s.setJobState n v).mgr = s.mgr := rfl
@[simp] theorem State.setJobState_clock (n v : Nat) : (s.setJobState n v).clock = s.clock := rfl
@[simp] theorem State.setJobState_rst (n v : Nat) : (s.setJobState n v).rst = s.rst := rfl
@[simp] theorem State.setJobState_stores (n v : Nat) : (s.setJobState n v).stores = s.stores := rfl
@[simp] theorem State.setJobState_pow (n v : Nat) : (s.setJobState n v).pow = s.pow := rfl
@[simp] theorem State.setJobState_sec (n v : Nat) : (s.setJobState n v).sec = s.sec := rfl
@[simp] theorem State.setJobState_log (n v : Nat) : (s.setJobState n v).log = s.log := rfl
@[simp] theorem State.setJobState_freeCtr (n v : Nat) : (s.setJobState n v).freeCtr = s.freeCtr := rfl

/-! `dropRegs` writes regs. -/

@[simp] theorem State.dropRegs_pending (p : Nat → Bool) : (s.dropRegs p).pending = s.pending := rfl
@[simp] theorem State.dropRegs_mem (p : Nat → Bool) : (s.dropRegs p).mem = s.mem := rfl
@[simp] theorem State.dropRegs_diacs (p : Nat → Bool) : (s.dropRegs p).diacs = s.diacs := rfl
@[simp] theorem State.dropRegs_poison (p : Nat → Bool) : (s.dropRegs p).poison = s.poison := rfl
@[simp] theorem State.dropRegs_wc (p : Nat → Bool) : (s.dropRegs p).wc = s.wc := rfl
@[simp] theorem State.dropRegs_insts (p : Nat → Bool) : (s.dropRegs p).insts = s.insts := rfl
@[simp] theorem State.dropRegs_nextInst (p : Nat → Bool) : (s.dropRegs p).nextInst = s.nextInst := rfl
@[simp] theorem State.dropRegs_host (p : Nat → Bool) : (s.dropRegs p).host = s.host := rfl
@[simp] theorem State.dropRegs_ctxs (p : Nat → Bool) : (s.dropRegs p).ctxs = s.ctxs := rfl
@[simp] theorem State.dropRegs_cores (p : Nat → Bool) : (s.dropRegs p).cores = s.cores := rfl
@[simp] theorem State.dropRegs_wakes (p : Nat → Bool) : (s.dropRegs p).wakes = s.wakes := rfl
@[simp] theorem State.dropRegs_tileq (p : Nat → Bool) : (s.dropRegs p).tileq = s.tileq := rfl
@[simp] theorem State.dropRegs_passBase (p : Nat → Bool) : (s.dropRegs p).passBase = s.passBase := rfl
@[simp] theorem State.dropRegs_mcores (p : Nat → Bool) : (s.dropRegs p).mcores = s.mcores := rfl
@[simp] theorem State.dropRegs_tcm (p : Nat → Bool) : (s.dropRegs p).tcm = s.tcm := rfl
@[simp] theorem State.dropRegs_hot (p : Nat → Bool) : (s.dropRegs p).hot = s.hot := rfl
@[simp] theorem State.dropRegs_fab (p : Nat → Bool) : (s.dropRegs p).fab = s.fab := rfl
@[simp] theorem State.dropRegs_mgr (p : Nat → Bool) : (s.dropRegs p).mgr = s.mgr := rfl
@[simp] theorem State.dropRegs_clock (p : Nat → Bool) : (s.dropRegs p).clock = s.clock := rfl
@[simp] theorem State.dropRegs_rst (p : Nat → Bool) : (s.dropRegs p).rst = s.rst := rfl
@[simp] theorem State.dropRegs_stores (p : Nat → Bool) : (s.dropRegs p).stores = s.stores := rfl
@[simp] theorem State.dropRegs_pow (p : Nat → Bool) : (s.dropRegs p).pow = s.pow := rfl
@[simp] theorem State.dropRegs_sec (p : Nat → Bool) : (s.dropRegs p).sec = s.sec := rfl
@[simp] theorem State.dropRegs_log (p : Nat → Bool) : (s.dropRegs p).log = s.log := rfl
@[simp] theorem State.dropRegs_freeCtr (p : Nat → Bool) : (s.dropRegs p).freeCtr = s.freeCtr := rfl

/-! `modCtx` writes ctxs. -/

@[simp] theorem State.modCtx_pending (n : Nat) (f : Ctx → Ctx) : (s.modCtx n f).pending = s.pending := rfl
@[simp] theorem State.modCtx_regs (n : Nat) (f : Ctx → Ctx) : (s.modCtx n f).regs = s.regs := rfl
@[simp] theorem State.modCtx_mem (n : Nat) (f : Ctx → Ctx) : (s.modCtx n f).mem = s.mem := rfl
@[simp] theorem State.modCtx_diacs (n : Nat) (f : Ctx → Ctx) : (s.modCtx n f).diacs = s.diacs := rfl
@[simp] theorem State.modCtx_poison (n : Nat) (f : Ctx → Ctx) : (s.modCtx n f).poison = s.poison := rfl
@[simp] theorem State.modCtx_wc (n : Nat) (f : Ctx → Ctx) : (s.modCtx n f).wc = s.wc := rfl
@[simp] theorem State.modCtx_insts (n : Nat) (f : Ctx → Ctx) : (s.modCtx n f).insts = s.insts := rfl
@[simp] theorem State.modCtx_nextInst (n : Nat) (f : Ctx → Ctx) : (s.modCtx n f).nextInst = s.nextInst := rfl
@[simp] theorem State.modCtx_host (n : Nat) (f : Ctx → Ctx) : (s.modCtx n f).host = s.host := rfl
@[simp] theorem State.modCtx_cores (n : Nat) (f : Ctx → Ctx) : (s.modCtx n f).cores = s.cores := rfl
@[simp] theorem State.modCtx_wakes (n : Nat) (f : Ctx → Ctx) : (s.modCtx n f).wakes = s.wakes := rfl
@[simp] theorem State.modCtx_tileq (n : Nat) (f : Ctx → Ctx) : (s.modCtx n f).tileq = s.tileq := rfl
@[simp] theorem State.modCtx_passBase (n : Nat) (f : Ctx → Ctx) : (s.modCtx n f).passBase = s.passBase := rfl
@[simp] theorem State.modCtx_mcores (n : Nat) (f : Ctx → Ctx) : (s.modCtx n f).mcores = s.mcores := rfl
@[simp] theorem State.modCtx_tcm (n : Nat) (f : Ctx → Ctx) : (s.modCtx n f).tcm = s.tcm := rfl
@[simp] theorem State.modCtx_hot (n : Nat) (f : Ctx → Ctx) : (s.modCtx n f).hot = s.hot := rfl
@[simp] theorem State.modCtx_fab (n : Nat) (f : Ctx → Ctx) : (s.modCtx n f).fab = s.fab := rfl
@[simp] theorem State.modCtx_mgr (n : Nat) (f : Ctx → Ctx) : (s.modCtx n f).mgr = s.mgr := rfl
@[simp] theorem State.modCtx_clock (n : Nat) (f : Ctx → Ctx) : (s.modCtx n f).clock = s.clock := rfl
@[simp] theorem State.modCtx_rst (n : Nat) (f : Ctx → Ctx) : (s.modCtx n f).rst = s.rst := rfl
@[simp] theorem State.modCtx_stores (n : Nat) (f : Ctx → Ctx) : (s.modCtx n f).stores = s.stores := rfl
@[simp] theorem State.modCtx_pow (n : Nat) (f : Ctx → Ctx) : (s.modCtx n f).pow = s.pow := rfl
@[simp] theorem State.modCtx_sec (n : Nat) (f : Ctx → Ctx) : (s.modCtx n f).sec = s.sec := rfl
@[simp] theorem State.modCtx_log (n : Nat) (f : Ctx → Ctx) : (s.modCtx n f).log = s.log := rfl
@[simp] theorem State.modCtx_freeCtr (n : Nat) (f : Ctx → Ctx) : (s.modCtx n f).freeCtr = s.freeCtr := rfl

/-! `modCore` writes cores. -/

@[simp] theorem State.modCore_pending (c : Nat) (f : Core → Core) : (s.modCore c f).pending = s.pending := rfl
@[simp] theorem State.modCore_regs (c : Nat) (f : Core → Core) : (s.modCore c f).regs = s.regs := rfl
@[simp] theorem State.modCore_mem (c : Nat) (f : Core → Core) : (s.modCore c f).mem = s.mem := rfl
@[simp] theorem State.modCore_diacs (c : Nat) (f : Core → Core) : (s.modCore c f).diacs = s.diacs := rfl
@[simp] theorem State.modCore_poison (c : Nat) (f : Core → Core) : (s.modCore c f).poison = s.poison := rfl
@[simp] theorem State.modCore_wc (c : Nat) (f : Core → Core) : (s.modCore c f).wc = s.wc := rfl
@[simp] theorem State.modCore_insts (c : Nat) (f : Core → Core) : (s.modCore c f).insts = s.insts := rfl
@[simp] theorem State.modCore_nextInst (c : Nat) (f : Core → Core) : (s.modCore c f).nextInst = s.nextInst := rfl
@[simp] theorem State.modCore_host (c : Nat) (f : Core → Core) : (s.modCore c f).host = s.host := rfl
@[simp] theorem State.modCore_ctxs (c : Nat) (f : Core → Core) : (s.modCore c f).ctxs = s.ctxs := rfl
@[simp] theorem State.modCore_wakes (c : Nat) (f : Core → Core) : (s.modCore c f).wakes = s.wakes := rfl
@[simp] theorem State.modCore_tileq (c : Nat) (f : Core → Core) : (s.modCore c f).tileq = s.tileq := rfl
@[simp] theorem State.modCore_passBase (c : Nat) (f : Core → Core) : (s.modCore c f).passBase = s.passBase := rfl
@[simp] theorem State.modCore_mcores (c : Nat) (f : Core → Core) : (s.modCore c f).mcores = s.mcores := rfl
@[simp] theorem State.modCore_tcm (c : Nat) (f : Core → Core) : (s.modCore c f).tcm = s.tcm := rfl
@[simp] theorem State.modCore_hot (c : Nat) (f : Core → Core) : (s.modCore c f).hot = s.hot := rfl
@[simp] theorem State.modCore_fab (c : Nat) (f : Core → Core) : (s.modCore c f).fab = s.fab := rfl
@[simp] theorem State.modCore_mgr (c : Nat) (f : Core → Core) : (s.modCore c f).mgr = s.mgr := rfl
@[simp] theorem State.modCore_clock (c : Nat) (f : Core → Core) : (s.modCore c f).clock = s.clock := rfl
@[simp] theorem State.modCore_rst (c : Nat) (f : Core → Core) : (s.modCore c f).rst = s.rst := rfl
@[simp] theorem State.modCore_stores (c : Nat) (f : Core → Core) : (s.modCore c f).stores = s.stores := rfl
@[simp] theorem State.modCore_pow (c : Nat) (f : Core → Core) : (s.modCore c f).pow = s.pow := rfl
@[simp] theorem State.modCore_sec (c : Nat) (f : Core → Core) : (s.modCore c f).sec = s.sec := rfl
@[simp] theorem State.modCore_log (c : Nat) (f : Core → Core) : (s.modCore c f).log = s.log := rfl
@[simp] theorem State.modCore_freeCtr (c : Nat) (f : Core → Core) : (s.modCore c f).freeCtr = s.freeCtr := rfl

/-! `setInst` writes insts. -/

@[simp] theorem State.setInst_pending (x : Inst) : (s.setInst x).pending = s.pending := rfl
@[simp] theorem State.setInst_regs (x : Inst) : (s.setInst x).regs = s.regs := rfl
@[simp] theorem State.setInst_mem (x : Inst) : (s.setInst x).mem = s.mem := rfl
@[simp] theorem State.setInst_diacs (x : Inst) : (s.setInst x).diacs = s.diacs := rfl
@[simp] theorem State.setInst_poison (x : Inst) : (s.setInst x).poison = s.poison := rfl
@[simp] theorem State.setInst_wc (x : Inst) : (s.setInst x).wc = s.wc := rfl
@[simp] theorem State.setInst_nextInst (x : Inst) : (s.setInst x).nextInst = s.nextInst := rfl
@[simp] theorem State.setInst_host (x : Inst) : (s.setInst x).host = s.host := rfl
@[simp] theorem State.setInst_ctxs (x : Inst) : (s.setInst x).ctxs = s.ctxs := rfl
@[simp] theorem State.setInst_cores (x : Inst) : (s.setInst x).cores = s.cores := rfl
@[simp] theorem State.setInst_wakes (x : Inst) : (s.setInst x).wakes = s.wakes := rfl
@[simp] theorem State.setInst_tileq (x : Inst) : (s.setInst x).tileq = s.tileq := rfl
@[simp] theorem State.setInst_passBase (x : Inst) : (s.setInst x).passBase = s.passBase := rfl
@[simp] theorem State.setInst_mcores (x : Inst) : (s.setInst x).mcores = s.mcores := rfl
@[simp] theorem State.setInst_tcm (x : Inst) : (s.setInst x).tcm = s.tcm := rfl
@[simp] theorem State.setInst_hot (x : Inst) : (s.setInst x).hot = s.hot := rfl
@[simp] theorem State.setInst_fab (x : Inst) : (s.setInst x).fab = s.fab := rfl
@[simp] theorem State.setInst_mgr (x : Inst) : (s.setInst x).mgr = s.mgr := rfl
@[simp] theorem State.setInst_clock (x : Inst) : (s.setInst x).clock = s.clock := rfl
@[simp] theorem State.setInst_rst (x : Inst) : (s.setInst x).rst = s.rst := rfl
@[simp] theorem State.setInst_stores (x : Inst) : (s.setInst x).stores = s.stores := rfl
@[simp] theorem State.setInst_pow (x : Inst) : (s.setInst x).pow = s.pow := rfl
@[simp] theorem State.setInst_sec (x : Inst) : (s.setInst x).sec = s.sec := rfl
@[simp] theorem State.setInst_log (x : Inst) : (s.setInst x).log = s.log := rfl
@[simp] theorem State.setInst_freeCtr (x : Inst) : (s.setInst x).freeCtr = s.freeCtr := rfl

/-! `modInst` writes insts. -/

@[simp] theorem State.modInst_pending (i : Nat) (f : Inst → Inst) : (s.modInst i f).pending = s.pending := rfl
@[simp] theorem State.modInst_regs (i : Nat) (f : Inst → Inst) : (s.modInst i f).regs = s.regs := rfl
@[simp] theorem State.modInst_mem (i : Nat) (f : Inst → Inst) : (s.modInst i f).mem = s.mem := rfl
@[simp] theorem State.modInst_diacs (i : Nat) (f : Inst → Inst) : (s.modInst i f).diacs = s.diacs := rfl
@[simp] theorem State.modInst_poison (i : Nat) (f : Inst → Inst) : (s.modInst i f).poison = s.poison := rfl
@[simp] theorem State.modInst_wc (i : Nat) (f : Inst → Inst) : (s.modInst i f).wc = s.wc := rfl
@[simp] theorem State.modInst_nextInst (i : Nat) (f : Inst → Inst) : (s.modInst i f).nextInst = s.nextInst := rfl
@[simp] theorem State.modInst_host (i : Nat) (f : Inst → Inst) : (s.modInst i f).host = s.host := rfl
@[simp] theorem State.modInst_ctxs (i : Nat) (f : Inst → Inst) : (s.modInst i f).ctxs = s.ctxs := rfl
@[simp] theorem State.modInst_cores (i : Nat) (f : Inst → Inst) : (s.modInst i f).cores = s.cores := rfl
@[simp] theorem State.modInst_wakes (i : Nat) (f : Inst → Inst) : (s.modInst i f).wakes = s.wakes := rfl
@[simp] theorem State.modInst_tileq (i : Nat) (f : Inst → Inst) : (s.modInst i f).tileq = s.tileq := rfl
@[simp] theorem State.modInst_passBase (i : Nat) (f : Inst → Inst) : (s.modInst i f).passBase = s.passBase := rfl
@[simp] theorem State.modInst_mcores (i : Nat) (f : Inst → Inst) : (s.modInst i f).mcores = s.mcores := rfl
@[simp] theorem State.modInst_tcm (i : Nat) (f : Inst → Inst) : (s.modInst i f).tcm = s.tcm := rfl
@[simp] theorem State.modInst_hot (i : Nat) (f : Inst → Inst) : (s.modInst i f).hot = s.hot := rfl
@[simp] theorem State.modInst_fab (i : Nat) (f : Inst → Inst) : (s.modInst i f).fab = s.fab := rfl
@[simp] theorem State.modInst_mgr (i : Nat) (f : Inst → Inst) : (s.modInst i f).mgr = s.mgr := rfl
@[simp] theorem State.modInst_clock (i : Nat) (f : Inst → Inst) : (s.modInst i f).clock = s.clock := rfl
@[simp] theorem State.modInst_rst (i : Nat) (f : Inst → Inst) : (s.modInst i f).rst = s.rst := rfl
@[simp] theorem State.modInst_stores (i : Nat) (f : Inst → Inst) : (s.modInst i f).stores = s.stores := rfl
@[simp] theorem State.modInst_pow (i : Nat) (f : Inst → Inst) : (s.modInst i f).pow = s.pow := rfl
@[simp] theorem State.modInst_sec (i : Nat) (f : Inst → Inst) : (s.modInst i f).sec = s.sec := rfl
@[simp] theorem State.modInst_log (i : Nat) (f : Inst → Inst) : (s.modInst i f).log = s.log := rfl
@[simp] theorem State.modInst_freeCtr (i : Nat) (f : Inst → Inst) : (s.modInst i f).freeCtr = s.freeCtr := rfl

/-! `finish` writes insts. -/

@[simp] theorem State.finish_pending (x : Inst) (status detail : Nat) (cnt : Counters) : (s.finish x status detail cnt).pending = s.pending := rfl
@[simp] theorem State.finish_regs (x : Inst) (status detail : Nat) (cnt : Counters) : (s.finish x status detail cnt).regs = s.regs := rfl
@[simp] theorem State.finish_mem (x : Inst) (status detail : Nat) (cnt : Counters) : (s.finish x status detail cnt).mem = s.mem := rfl
@[simp] theorem State.finish_diacs (x : Inst) (status detail : Nat) (cnt : Counters) : (s.finish x status detail cnt).diacs = s.diacs := rfl
@[simp] theorem State.finish_poison (x : Inst) (status detail : Nat) (cnt : Counters) : (s.finish x status detail cnt).poison = s.poison := rfl
@[simp] theorem State.finish_wc (x : Inst) (status detail : Nat) (cnt : Counters) : (s.finish x status detail cnt).wc = s.wc := rfl
@[simp] theorem State.finish_nextInst (x : Inst) (status detail : Nat) (cnt : Counters) : (s.finish x status detail cnt).nextInst = s.nextInst := rfl
@[simp] theorem State.finish_host (x : Inst) (status detail : Nat) (cnt : Counters) : (s.finish x status detail cnt).host = s.host := rfl
@[simp] theorem State.finish_ctxs (x : Inst) (status detail : Nat) (cnt : Counters) : (s.finish x status detail cnt).ctxs = s.ctxs := rfl
@[simp] theorem State.finish_cores (x : Inst) (status detail : Nat) (cnt : Counters) : (s.finish x status detail cnt).cores = s.cores := rfl
@[simp] theorem State.finish_wakes (x : Inst) (status detail : Nat) (cnt : Counters) : (s.finish x status detail cnt).wakes = s.wakes := rfl
@[simp] theorem State.finish_tileq (x : Inst) (status detail : Nat) (cnt : Counters) : (s.finish x status detail cnt).tileq = s.tileq := rfl
@[simp] theorem State.finish_passBase (x : Inst) (status detail : Nat) (cnt : Counters) : (s.finish x status detail cnt).passBase = s.passBase := rfl
@[simp] theorem State.finish_mcores (x : Inst) (status detail : Nat) (cnt : Counters) : (s.finish x status detail cnt).mcores = s.mcores := rfl
@[simp] theorem State.finish_tcm (x : Inst) (status detail : Nat) (cnt : Counters) : (s.finish x status detail cnt).tcm = s.tcm := rfl
@[simp] theorem State.finish_hot (x : Inst) (status detail : Nat) (cnt : Counters) : (s.finish x status detail cnt).hot = s.hot := rfl
@[simp] theorem State.finish_fab (x : Inst) (status detail : Nat) (cnt : Counters) : (s.finish x status detail cnt).fab = s.fab := rfl
@[simp] theorem State.finish_mgr (x : Inst) (status detail : Nat) (cnt : Counters) : (s.finish x status detail cnt).mgr = s.mgr := rfl
@[simp] theorem State.finish_clock (x : Inst) (status detail : Nat) (cnt : Counters) : (s.finish x status detail cnt).clock = s.clock := rfl
@[simp] theorem State.finish_rst (x : Inst) (status detail : Nat) (cnt : Counters) : (s.finish x status detail cnt).rst = s.rst := rfl
@[simp] theorem State.finish_stores (x : Inst) (status detail : Nat) (cnt : Counters) : (s.finish x status detail cnt).stores = s.stores := rfl
@[simp] theorem State.finish_pow (x : Inst) (status detail : Nat) (cnt : Counters) : (s.finish x status detail cnt).pow = s.pow := rfl
@[simp] theorem State.finish_sec (x : Inst) (status detail : Nat) (cnt : Counters) : (s.finish x status detail cnt).sec = s.sec := rfl
@[simp] theorem State.finish_log (x : Inst) (status detail : Nat) (cnt : Counters) : (s.finish x status detail cnt).log = s.log := rfl
@[simp] theorem State.finish_freeCtr (x : Inst) (status detail : Nat) (cnt : Counters) : (s.finish x status detail cnt).freeCtr = s.freeCtr := rfl

/-! `addInst` writes insts, nextInst. -/

@[simp] theorem State.addInst_pending (x : Inst) : (s.addInst x).pending = s.pending := rfl
@[simp] theorem State.addInst_regs (x : Inst) : (s.addInst x).regs = s.regs := rfl
@[simp] theorem State.addInst_mem (x : Inst) : (s.addInst x).mem = s.mem := rfl
@[simp] theorem State.addInst_diacs (x : Inst) : (s.addInst x).diacs = s.diacs := rfl
@[simp] theorem State.addInst_poison (x : Inst) : (s.addInst x).poison = s.poison := rfl
@[simp] theorem State.addInst_wc (x : Inst) : (s.addInst x).wc = s.wc := rfl
@[simp] theorem State.addInst_host (x : Inst) : (s.addInst x).host = s.host := rfl
@[simp] theorem State.addInst_ctxs (x : Inst) : (s.addInst x).ctxs = s.ctxs := rfl
@[simp] theorem State.addInst_cores (x : Inst) : (s.addInst x).cores = s.cores := rfl
@[simp] theorem State.addInst_wakes (x : Inst) : (s.addInst x).wakes = s.wakes := rfl
@[simp] theorem State.addInst_tileq (x : Inst) : (s.addInst x).tileq = s.tileq := rfl
@[simp] theorem State.addInst_passBase (x : Inst) : (s.addInst x).passBase = s.passBase := rfl
@[simp] theorem State.addInst_mcores (x : Inst) : (s.addInst x).mcores = s.mcores := rfl
@[simp] theorem State.addInst_tcm (x : Inst) : (s.addInst x).tcm = s.tcm := rfl
@[simp] theorem State.addInst_hot (x : Inst) : (s.addInst x).hot = s.hot := rfl
@[simp] theorem State.addInst_fab (x : Inst) : (s.addInst x).fab = s.fab := rfl
@[simp] theorem State.addInst_mgr (x : Inst) : (s.addInst x).mgr = s.mgr := rfl
@[simp] theorem State.addInst_clock (x : Inst) : (s.addInst x).clock = s.clock := rfl
@[simp] theorem State.addInst_rst (x : Inst) : (s.addInst x).rst = s.rst := rfl
@[simp] theorem State.addInst_stores (x : Inst) : (s.addInst x).stores = s.stores := rfl
@[simp] theorem State.addInst_pow (x : Inst) : (s.addInst x).pow = s.pow := rfl
@[simp] theorem State.addInst_sec (x : Inst) : (s.addInst x).sec = s.sec := rfl
@[simp] theorem State.addInst_log (x : Inst) : (s.addInst x).log = s.log := rfl
@[simp] theorem State.addInst_freeCtr (x : Inst) : (s.addInst x).freeCtr = s.freeCtr := rfl

/-! `touch` writes pow. -/

@[simp] theorem State.touch_pending (u : Nat) : (s.touch u).pending = s.pending := rfl
@[simp] theorem State.touch_regs (u : Nat) : (s.touch u).regs = s.regs := rfl
@[simp] theorem State.touch_mem (u : Nat) : (s.touch u).mem = s.mem := rfl
@[simp] theorem State.touch_diacs (u : Nat) : (s.touch u).diacs = s.diacs := rfl
@[simp] theorem State.touch_poison (u : Nat) : (s.touch u).poison = s.poison := rfl
@[simp] theorem State.touch_wc (u : Nat) : (s.touch u).wc = s.wc := rfl
@[simp] theorem State.touch_insts (u : Nat) : (s.touch u).insts = s.insts := rfl
@[simp] theorem State.touch_nextInst (u : Nat) : (s.touch u).nextInst = s.nextInst := rfl
@[simp] theorem State.touch_host (u : Nat) : (s.touch u).host = s.host := rfl
@[simp] theorem State.touch_ctxs (u : Nat) : (s.touch u).ctxs = s.ctxs := rfl
@[simp] theorem State.touch_cores (u : Nat) : (s.touch u).cores = s.cores := rfl
@[simp] theorem State.touch_wakes (u : Nat) : (s.touch u).wakes = s.wakes := rfl
@[simp] theorem State.touch_tileq (u : Nat) : (s.touch u).tileq = s.tileq := rfl
@[simp] theorem State.touch_passBase (u : Nat) : (s.touch u).passBase = s.passBase := rfl
@[simp] theorem State.touch_mcores (u : Nat) : (s.touch u).mcores = s.mcores := rfl
@[simp] theorem State.touch_tcm (u : Nat) : (s.touch u).tcm = s.tcm := rfl
@[simp] theorem State.touch_hot (u : Nat) : (s.touch u).hot = s.hot := rfl
@[simp] theorem State.touch_fab (u : Nat) : (s.touch u).fab = s.fab := rfl
@[simp] theorem State.touch_mgr (u : Nat) : (s.touch u).mgr = s.mgr := rfl
@[simp] theorem State.touch_clock (u : Nat) : (s.touch u).clock = s.clock := rfl
@[simp] theorem State.touch_rst (u : Nat) : (s.touch u).rst = s.rst := rfl
@[simp] theorem State.touch_stores (u : Nat) : (s.touch u).stores = s.stores := rfl
@[simp] theorem State.touch_sec (u : Nat) : (s.touch u).sec = s.sec := rfl
@[simp] theorem State.touch_log (u : Nat) : (s.touch u).log = s.log := rfl
@[simp] theorem State.touch_freeCtr (u : Nat) : (s.touch u).freeCtr = s.freeCtr := rfl

/-! `setTags` writes mem. -/

@[simp] theorem State.setTags_pending (g : Region) (k last prev : Nat) : (s.setTags g k last prev).pending = s.pending := rfl
@[simp] theorem State.setTags_regs (g : Region) (k last prev : Nat) : (s.setTags g k last prev).regs = s.regs := rfl
@[simp] theorem State.setTags_diacs (g : Region) (k last prev : Nat) : (s.setTags g k last prev).diacs = s.diacs := rfl
@[simp] theorem State.setTags_poison (g : Region) (k last prev : Nat) : (s.setTags g k last prev).poison = s.poison := rfl
@[simp] theorem State.setTags_wc (g : Region) (k last prev : Nat) : (s.setTags g k last prev).wc = s.wc := rfl
@[simp] theorem State.setTags_insts (g : Region) (k last prev : Nat) : (s.setTags g k last prev).insts = s.insts := rfl
@[simp] theorem State.setTags_nextInst (g : Region) (k last prev : Nat) : (s.setTags g k last prev).nextInst = s.nextInst := rfl
@[simp] theorem State.setTags_host (g : Region) (k last prev : Nat) : (s.setTags g k last prev).host = s.host := rfl
@[simp] theorem State.setTags_ctxs (g : Region) (k last prev : Nat) : (s.setTags g k last prev).ctxs = s.ctxs := rfl
@[simp] theorem State.setTags_cores (g : Region) (k last prev : Nat) : (s.setTags g k last prev).cores = s.cores := rfl
@[simp] theorem State.setTags_wakes (g : Region) (k last prev : Nat) : (s.setTags g k last prev).wakes = s.wakes := rfl
@[simp] theorem State.setTags_tileq (g : Region) (k last prev : Nat) : (s.setTags g k last prev).tileq = s.tileq := rfl
@[simp] theorem State.setTags_passBase (g : Region) (k last prev : Nat) : (s.setTags g k last prev).passBase = s.passBase := rfl
@[simp] theorem State.setTags_mcores (g : Region) (k last prev : Nat) : (s.setTags g k last prev).mcores = s.mcores := rfl
@[simp] theorem State.setTags_tcm (g : Region) (k last prev : Nat) : (s.setTags g k last prev).tcm = s.tcm := rfl
@[simp] theorem State.setTags_hot (g : Region) (k last prev : Nat) : (s.setTags g k last prev).hot = s.hot := rfl
@[simp] theorem State.setTags_fab (g : Region) (k last prev : Nat) : (s.setTags g k last prev).fab = s.fab := rfl
@[simp] theorem State.setTags_mgr (g : Region) (k last prev : Nat) : (s.setTags g k last prev).mgr = s.mgr := rfl
@[simp] theorem State.setTags_clock (g : Region) (k last prev : Nat) : (s.setTags g k last prev).clock = s.clock := rfl
@[simp] theorem State.setTags_rst (g : Region) (k last prev : Nat) : (s.setTags g k last prev).rst = s.rst := rfl
@[simp] theorem State.setTags_stores (g : Region) (k last prev : Nat) : (s.setTags g k last prev).stores = s.stores := rfl
@[simp] theorem State.setTags_pow (g : Region) (k last prev : Nat) : (s.setTags g k last prev).pow = s.pow := rfl
@[simp] theorem State.setTags_sec (g : Region) (k last prev : Nat) : (s.setTags g k last prev).sec = s.sec := rfl
@[simp] theorem State.setTags_log (g : Region) (k last prev : Nat) : (s.setTags g k last prev).log = s.log := rfl
@[simp] theorem State.setTags_freeCtr (g : Region) (k last prev : Nat) : (s.setTags g k last prev).freeCtr = s.freeCtr := rfl

/-! `setDiacPhys` writes diacs. -/

@[simp] theorem State.setDiacPhys_pending (a : Nat) (w : Word) : (s.setDiacPhys a w).pending = s.pending := rfl
@[simp] theorem State.setDiacPhys_regs (a : Nat) (w : Word) : (s.setDiacPhys a w).regs = s.regs := rfl
@[simp] theorem State.setDiacPhys_mem (a : Nat) (w : Word) : (s.setDiacPhys a w).mem = s.mem := rfl
@[simp] theorem State.setDiacPhys_poison (a : Nat) (w : Word) : (s.setDiacPhys a w).poison = s.poison := rfl
@[simp] theorem State.setDiacPhys_wc (a : Nat) (w : Word) : (s.setDiacPhys a w).wc = s.wc := rfl
@[simp] theorem State.setDiacPhys_insts (a : Nat) (w : Word) : (s.setDiacPhys a w).insts = s.insts := rfl
@[simp] theorem State.setDiacPhys_nextInst (a : Nat) (w : Word) : (s.setDiacPhys a w).nextInst = s.nextInst := rfl
@[simp] theorem State.setDiacPhys_host (a : Nat) (w : Word) : (s.setDiacPhys a w).host = s.host := rfl
@[simp] theorem State.setDiacPhys_ctxs (a : Nat) (w : Word) : (s.setDiacPhys a w).ctxs = s.ctxs := rfl
@[simp] theorem State.setDiacPhys_cores (a : Nat) (w : Word) : (s.setDiacPhys a w).cores = s.cores := rfl
@[simp] theorem State.setDiacPhys_wakes (a : Nat) (w : Word) : (s.setDiacPhys a w).wakes = s.wakes := rfl
@[simp] theorem State.setDiacPhys_tileq (a : Nat) (w : Word) : (s.setDiacPhys a w).tileq = s.tileq := rfl
@[simp] theorem State.setDiacPhys_passBase (a : Nat) (w : Word) : (s.setDiacPhys a w).passBase = s.passBase := rfl
@[simp] theorem State.setDiacPhys_mcores (a : Nat) (w : Word) : (s.setDiacPhys a w).mcores = s.mcores := rfl
@[simp] theorem State.setDiacPhys_tcm (a : Nat) (w : Word) : (s.setDiacPhys a w).tcm = s.tcm := rfl
@[simp] theorem State.setDiacPhys_hot (a : Nat) (w : Word) : (s.setDiacPhys a w).hot = s.hot := rfl
@[simp] theorem State.setDiacPhys_fab (a : Nat) (w : Word) : (s.setDiacPhys a w).fab = s.fab := rfl
@[simp] theorem State.setDiacPhys_mgr (a : Nat) (w : Word) : (s.setDiacPhys a w).mgr = s.mgr := rfl
@[simp] theorem State.setDiacPhys_clock (a : Nat) (w : Word) : (s.setDiacPhys a w).clock = s.clock := rfl
@[simp] theorem State.setDiacPhys_rst (a : Nat) (w : Word) : (s.setDiacPhys a w).rst = s.rst := rfl
@[simp] theorem State.setDiacPhys_stores (a : Nat) (w : Word) : (s.setDiacPhys a w).stores = s.stores := rfl
@[simp] theorem State.setDiacPhys_pow (a : Nat) (w : Word) : (s.setDiacPhys a w).pow = s.pow := rfl
@[simp] theorem State.setDiacPhys_sec (a : Nat) (w : Word) : (s.setDiacPhys a w).sec = s.sec := rfl
@[simp] theorem State.setDiacPhys_log (a : Nat) (w : Word) : (s.setDiacPhys a w).log = s.log := rfl
@[simp] theorem State.setDiacPhys_freeCtr (a : Nat) (w : Word) : (s.setDiacPhys a w).freeCtr = s.freeCtr := rfl

/-! `raise` writes host. -/

@[simp] theorem State.raise_pending (fn v : Nat) : (s.raise fn v).pending = s.pending := by unfold State.raise; dsimp only; split <;> rfl
@[simp] theorem State.raise_regs (fn v : Nat) : (s.raise fn v).regs = s.regs := by unfold State.raise; dsimp only; split <;> rfl
@[simp] theorem State.raise_mem (fn v : Nat) : (s.raise fn v).mem = s.mem := by unfold State.raise; dsimp only; split <;> rfl
@[simp] theorem State.raise_diacs (fn v : Nat) : (s.raise fn v).diacs = s.diacs := by unfold State.raise; dsimp only; split <;> rfl
@[simp] theorem State.raise_poison (fn v : Nat) : (s.raise fn v).poison = s.poison := by unfold State.raise; dsimp only; split <;> rfl
@[simp] theorem State.raise_wc (fn v : Nat) : (s.raise fn v).wc = s.wc := by unfold State.raise; dsimp only; split <;> rfl
@[simp] theorem State.raise_insts (fn v : Nat) : (s.raise fn v).insts = s.insts := by unfold State.raise; dsimp only; split <;> rfl
@[simp] theorem State.raise_nextInst (fn v : Nat) : (s.raise fn v).nextInst = s.nextInst := by unfold State.raise; dsimp only; split <;> rfl
@[simp] theorem State.raise_ctxs (fn v : Nat) : (s.raise fn v).ctxs = s.ctxs := by unfold State.raise; dsimp only; split <;> rfl
@[simp] theorem State.raise_cores (fn v : Nat) : (s.raise fn v).cores = s.cores := by unfold State.raise; dsimp only; split <;> rfl
@[simp] theorem State.raise_wakes (fn v : Nat) : (s.raise fn v).wakes = s.wakes := by unfold State.raise; dsimp only; split <;> rfl
@[simp] theorem State.raise_tileq (fn v : Nat) : (s.raise fn v).tileq = s.tileq := by unfold State.raise; dsimp only; split <;> rfl
@[simp] theorem State.raise_passBase (fn v : Nat) : (s.raise fn v).passBase = s.passBase := by unfold State.raise; dsimp only; split <;> rfl
@[simp] theorem State.raise_mcores (fn v : Nat) : (s.raise fn v).mcores = s.mcores := by unfold State.raise; dsimp only; split <;> rfl
@[simp] theorem State.raise_tcm (fn v : Nat) : (s.raise fn v).tcm = s.tcm := by unfold State.raise; dsimp only; split <;> rfl
@[simp] theorem State.raise_hot (fn v : Nat) : (s.raise fn v).hot = s.hot := by unfold State.raise; dsimp only; split <;> rfl
@[simp] theorem State.raise_fab (fn v : Nat) : (s.raise fn v).fab = s.fab := by unfold State.raise; dsimp only; split <;> rfl
@[simp] theorem State.raise_mgr (fn v : Nat) : (s.raise fn v).mgr = s.mgr := by unfold State.raise; dsimp only; split <;> rfl
@[simp] theorem State.raise_clock (fn v : Nat) : (s.raise fn v).clock = s.clock := by unfold State.raise; dsimp only; split <;> rfl
@[simp] theorem State.raise_rst (fn v : Nat) : (s.raise fn v).rst = s.rst := by unfold State.raise; dsimp only; split <;> rfl
@[simp] theorem State.raise_stores (fn v : Nat) : (s.raise fn v).stores = s.stores := by unfold State.raise; dsimp only; split <;> rfl
@[simp] theorem State.raise_pow (fn v : Nat) : (s.raise fn v).pow = s.pow := by unfold State.raise; dsimp only; split <;> rfl
@[simp] theorem State.raise_sec (fn v : Nat) : (s.raise fn v).sec = s.sec := by unfold State.raise; dsimp only; split <;> rfl
@[simp] theorem State.raise_log (fn v : Nat) : (s.raise fn v).log = s.log := by unfold State.raise; dsimp only; split <;> rfl
@[simp] theorem State.raise_freeCtr (fn v : Nat) : (s.raise fn v).freeCtr = s.freeCtr := by unfold State.raise; dsimp only; split <;> rfl

/-! `logEv` writes log, host. -/

@[simp] theorem State.logEv_pending (t j : Nat) (ws : List Nat) : (s.logEv t j ws).pending = s.pending := State.raise_pending _ _ _
@[simp] theorem State.logEv_regs (t j : Nat) (ws : List Nat) : (s.logEv t j ws).regs = s.regs := State.raise_regs _ _ _
@[simp] theorem State.logEv_mem (t j : Nat) (ws : List Nat) : (s.logEv t j ws).mem = s.mem := State.raise_mem _ _ _
@[simp] theorem State.logEv_diacs (t j : Nat) (ws : List Nat) : (s.logEv t j ws).diacs = s.diacs := State.raise_diacs _ _ _
@[simp] theorem State.logEv_poison (t j : Nat) (ws : List Nat) : (s.logEv t j ws).poison = s.poison := State.raise_poison _ _ _
@[simp] theorem State.logEv_wc (t j : Nat) (ws : List Nat) : (s.logEv t j ws).wc = s.wc := State.raise_wc _ _ _
@[simp] theorem State.logEv_insts (t j : Nat) (ws : List Nat) : (s.logEv t j ws).insts = s.insts := State.raise_insts _ _ _
@[simp] theorem State.logEv_nextInst (t j : Nat) (ws : List Nat) : (s.logEv t j ws).nextInst = s.nextInst := State.raise_nextInst _ _ _
@[simp] theorem State.logEv_ctxs (t j : Nat) (ws : List Nat) : (s.logEv t j ws).ctxs = s.ctxs := State.raise_ctxs _ _ _
@[simp] theorem State.logEv_cores (t j : Nat) (ws : List Nat) : (s.logEv t j ws).cores = s.cores := State.raise_cores _ _ _
@[simp] theorem State.logEv_wakes (t j : Nat) (ws : List Nat) : (s.logEv t j ws).wakes = s.wakes := State.raise_wakes _ _ _
@[simp] theorem State.logEv_tileq (t j : Nat) (ws : List Nat) : (s.logEv t j ws).tileq = s.tileq := State.raise_tileq _ _ _
@[simp] theorem State.logEv_passBase (t j : Nat) (ws : List Nat) : (s.logEv t j ws).passBase = s.passBase := State.raise_passBase _ _ _
@[simp] theorem State.logEv_mcores (t j : Nat) (ws : List Nat) : (s.logEv t j ws).mcores = s.mcores := State.raise_mcores _ _ _
@[simp] theorem State.logEv_tcm (t j : Nat) (ws : List Nat) : (s.logEv t j ws).tcm = s.tcm := State.raise_tcm _ _ _
@[simp] theorem State.logEv_hot (t j : Nat) (ws : List Nat) : (s.logEv t j ws).hot = s.hot := State.raise_hot _ _ _
@[simp] theorem State.logEv_fab (t j : Nat) (ws : List Nat) : (s.logEv t j ws).fab = s.fab := State.raise_fab _ _ _
@[simp] theorem State.logEv_mgr (t j : Nat) (ws : List Nat) : (s.logEv t j ws).mgr = s.mgr := State.raise_mgr _ _ _
@[simp] theorem State.logEv_clock (t j : Nat) (ws : List Nat) : (s.logEv t j ws).clock = s.clock := State.raise_clock _ _ _
@[simp] theorem State.logEv_rst (t j : Nat) (ws : List Nat) : (s.logEv t j ws).rst = s.rst := State.raise_rst _ _ _
@[simp] theorem State.logEv_stores (t j : Nat) (ws : List Nat) : (s.logEv t j ws).stores = s.stores := State.raise_stores _ _ _
@[simp] theorem State.logEv_pow (t j : Nat) (ws : List Nat) : (s.logEv t j ws).pow = s.pow := State.raise_pow _ _ _
@[simp] theorem State.logEv_sec (t j : Nat) (ws : List Nat) : (s.logEv t j ws).sec = s.sec := State.raise_sec _ _ _
@[simp] theorem State.logEv_freeCtr (t j : Nat) (ws : List Nat) : (s.logEv t j ws).freeCtr = s.freeCtr := State.raise_freeCtr _ _ _

/-! `logViolation` writes log, host. -/

@[simp] theorem State.logViolation_pending (n a : Nat) : (s.logViolation n a).pending = s.pending := State.raise_pending _ _ _
@[simp] theorem State.logViolation_regs (n a : Nat) : (s.logViolation n a).regs = s.regs := State.raise_regs _ _ _
@[simp] theorem State.logViolation_mem (n a : Nat) : (s.logViolation n a).mem = s.mem := State.raise_mem _ _ _
@[simp] theorem State.logViolation_diacs (n a : Nat) : (s.logViolation n a).diacs = s.diacs := State.raise_diacs _ _ _
@[simp] theorem State.logViolation_poison (n a : Nat) : (s.logViolation n a).poison = s.poison := State.raise_poison _ _ _
@[simp] theorem State.logViolation_wc (n a : Nat) : (s.logViolation n a).wc = s.wc := State.raise_wc _ _ _
@[simp] theorem State.logViolation_insts (n a : Nat) : (s.logViolation n a).insts = s.insts := State.raise_insts _ _ _
@[simp] theorem State.logViolation_nextInst (n a : Nat) : (s.logViolation n a).nextInst = s.nextInst := State.raise_nextInst _ _ _
@[simp] theorem State.logViolation_ctxs (n a : Nat) : (s.logViolation n a).ctxs = s.ctxs := State.raise_ctxs _ _ _
@[simp] theorem State.logViolation_cores (n a : Nat) : (s.logViolation n a).cores = s.cores := State.raise_cores _ _ _
@[simp] theorem State.logViolation_wakes (n a : Nat) : (s.logViolation n a).wakes = s.wakes := State.raise_wakes _ _ _
@[simp] theorem State.logViolation_tileq (n a : Nat) : (s.logViolation n a).tileq = s.tileq := State.raise_tileq _ _ _
@[simp] theorem State.logViolation_passBase (n a : Nat) : (s.logViolation n a).passBase = s.passBase := State.raise_passBase _ _ _
@[simp] theorem State.logViolation_mcores (n a : Nat) : (s.logViolation n a).mcores = s.mcores := State.raise_mcores _ _ _
@[simp] theorem State.logViolation_tcm (n a : Nat) : (s.logViolation n a).tcm = s.tcm := State.raise_tcm _ _ _
@[simp] theorem State.logViolation_hot (n a : Nat) : (s.logViolation n a).hot = s.hot := State.raise_hot _ _ _
@[simp] theorem State.logViolation_fab (n a : Nat) : (s.logViolation n a).fab = s.fab := State.raise_fab _ _ _
@[simp] theorem State.logViolation_mgr (n a : Nat) : (s.logViolation n a).mgr = s.mgr := State.raise_mgr _ _ _
@[simp] theorem State.logViolation_clock (n a : Nat) : (s.logViolation n a).clock = s.clock := State.raise_clock _ _ _
@[simp] theorem State.logViolation_rst (n a : Nat) : (s.logViolation n a).rst = s.rst := State.raise_rst _ _ _
@[simp] theorem State.logViolation_stores (n a : Nat) : (s.logViolation n a).stores = s.stores := State.raise_stores _ _ _
@[simp] theorem State.logViolation_pow (n a : Nat) : (s.logViolation n a).pow = s.pow := State.raise_pow _ _ _
@[simp] theorem State.logViolation_sec (n a : Nat) : (s.logViolation n a).sec = s.sec := State.raise_sec _ _ _
@[simp] theorem State.logViolation_freeCtr (n a : Nat) : (s.logViolation n a).freeCtr = s.freeCtr := State.raise_freeCtr _ _ _

/-! `logTimed` writes log, host. -/

@[simp] theorem State.logTimed_pending (t j a b : Nat) : (s.logTimed t j a b).pending = s.pending := State.raise_pending _ _ _
@[simp] theorem State.logTimed_regs (t j a b : Nat) : (s.logTimed t j a b).regs = s.regs := State.raise_regs _ _ _
@[simp] theorem State.logTimed_mem (t j a b : Nat) : (s.logTimed t j a b).mem = s.mem := State.raise_mem _ _ _
@[simp] theorem State.logTimed_diacs (t j a b : Nat) : (s.logTimed t j a b).diacs = s.diacs := State.raise_diacs _ _ _
@[simp] theorem State.logTimed_poison (t j a b : Nat) : (s.logTimed t j a b).poison = s.poison := State.raise_poison _ _ _
@[simp] theorem State.logTimed_wc (t j a b : Nat) : (s.logTimed t j a b).wc = s.wc := State.raise_wc _ _ _
@[simp] theorem State.logTimed_insts (t j a b : Nat) : (s.logTimed t j a b).insts = s.insts := State.raise_insts _ _ _
@[simp] theorem State.logTimed_nextInst (t j a b : Nat) : (s.logTimed t j a b).nextInst = s.nextInst := State.raise_nextInst _ _ _
@[simp] theorem State.logTimed_ctxs (t j a b : Nat) : (s.logTimed t j a b).ctxs = s.ctxs := State.raise_ctxs _ _ _
@[simp] theorem State.logTimed_cores (t j a b : Nat) : (s.logTimed t j a b).cores = s.cores := State.raise_cores _ _ _
@[simp] theorem State.logTimed_wakes (t j a b : Nat) : (s.logTimed t j a b).wakes = s.wakes := State.raise_wakes _ _ _
@[simp] theorem State.logTimed_tileq (t j a b : Nat) : (s.logTimed t j a b).tileq = s.tileq := State.raise_tileq _ _ _
@[simp] theorem State.logTimed_passBase (t j a b : Nat) : (s.logTimed t j a b).passBase = s.passBase := State.raise_passBase _ _ _
@[simp] theorem State.logTimed_mcores (t j a b : Nat) : (s.logTimed t j a b).mcores = s.mcores := State.raise_mcores _ _ _
@[simp] theorem State.logTimed_tcm (t j a b : Nat) : (s.logTimed t j a b).tcm = s.tcm := State.raise_tcm _ _ _
@[simp] theorem State.logTimed_hot (t j a b : Nat) : (s.logTimed t j a b).hot = s.hot := State.raise_hot _ _ _
@[simp] theorem State.logTimed_fab (t j a b : Nat) : (s.logTimed t j a b).fab = s.fab := State.raise_fab _ _ _
@[simp] theorem State.logTimed_mgr (t j a b : Nat) : (s.logTimed t j a b).mgr = s.mgr := State.raise_mgr _ _ _
@[simp] theorem State.logTimed_clock (t j a b : Nat) : (s.logTimed t j a b).clock = s.clock := State.raise_clock _ _ _
@[simp] theorem State.logTimed_rst (t j a b : Nat) : (s.logTimed t j a b).rst = s.rst := State.raise_rst _ _ _
@[simp] theorem State.logTimed_stores (t j a b : Nat) : (s.logTimed t j a b).stores = s.stores := State.raise_stores _ _ _
@[simp] theorem State.logTimed_pow (t j a b : Nat) : (s.logTimed t j a b).pow = s.pow := State.raise_pow _ _ _
@[simp] theorem State.logTimed_sec (t j a b : Nat) : (s.logTimed t j a b).sec = s.sec := State.raise_sec _ _ _
@[simp] theorem State.logTimed_freeCtr (t j a b : Nat) : (s.logTimed t j a b).freeCtr = s.freeCtr := State.raise_freeCtr _ _ _

/-- A choice keeps what both sides keep. -/
theorem ite_keeps {α : Type} {P : α → Prop} {c : Prop} [Decidable c] {a b : α} (ha : P a) (hb : P b) : P (if c then a else b) := by
  split <;> assumption

/-- A write-combining step changes the entries and nothing else. -/
theorem State.wcLine_eq (l : Nat) (ps : List Nat) : ∃ w, s.wcLine l ps = { s with wc := w } := by
  unfold State.wcLine; dsimp only
  exact ite_keeps (P := fun t : State => ∃ w, t = { s with wc := w }) ⟨_, rfl⟩ ⟨_, rfl⟩

theorem State.wcTouch_eq (o n : Nat) : ∃ w, s.wcTouch o n = { s with wc := w } := by
  unfold State.wcTouch
  generalize upto (o / 256) (cdiv (o % 256 + n) 256) = l
  induction l generalizing s with
  | nil => exact ⟨s.wc, rfl⟩
  | cons a t ih =>
    rw [List.foldl_cons]
    obtain ⟨w, hw⟩ := s.wcLine_eq a (upto (if a = o / 256 then o % 256 else 0) (min 256 (o + n - 256 * a) - (if a = o / 256 then o % 256 else 0)))
    obtain ⟨v, hv⟩ := ih (s.wcLine a (upto (if a = o / 256 then o % 256 else 0) (min 256 (o + n - 256 * a) - (if a = o / 256 then o % 256 else 0))))
    exact ⟨v, by rw [hv, hw]⟩

/-- A physical write stores its bytes in memory and touches poison and write combining; nothing else. -/
theorem State.wrPhys_eq (a : Nat) (bs : List Byte) :
    ∃ p w, s.wrPhys a bs = { s with mem := if bs.isEmpty then s.mem else memWrite s.mem a bs, poison := p, wc := w } := by
  unfold State.wrPhys
  by_cases h : bs.isEmpty = true
  · rw [if_pos h, if_pos h]; exact ⟨s.poison, s.wc, rfl⟩
  · rw [if_neg h, if_neg h]
    by_cases hb : hbmBase ≤ a ∧ a < hostBit
    · rw [if_pos hb]; dsimp only
      generalize coveredCw a bs.length = cov
      obtain ⟨w, hw⟩ := State.wcTouch_eq { s with mem := memWrite s.mem a bs, poison := s.poison.filter fun c => !cov.contains c } (a - hbmBase) bs.length
      exact ⟨_, w, hw⟩
    · rw [if_neg hb]; exact ⟨s.poison, s.wc, rfl⟩


/-! `wcLine` writes wc. -/

@[simp] theorem State.wcLine_pending (l : Nat) (ps : List Nat) : (s.wcLine l ps).pending = s.pending := by
  obtain ⟨w, h⟩ := s.wcLine_eq l ps; rw [h]
@[simp] theorem State.wcLine_regs (l : Nat) (ps : List Nat) : (s.wcLine l ps).regs = s.regs := by
  obtain ⟨w, h⟩ := s.wcLine_eq l ps; rw [h]
@[simp] theorem State.wcLine_mem (l : Nat) (ps : List Nat) : (s.wcLine l ps).mem = s.mem := by
  obtain ⟨w, h⟩ := s.wcLine_eq l ps; rw [h]
@[simp] theorem State.wcLine_diacs (l : Nat) (ps : List Nat) : (s.wcLine l ps).diacs = s.diacs := by
  obtain ⟨w, h⟩ := s.wcLine_eq l ps; rw [h]
@[simp] theorem State.wcLine_poison (l : Nat) (ps : List Nat) : (s.wcLine l ps).poison = s.poison := by
  obtain ⟨w, h⟩ := s.wcLine_eq l ps; rw [h]
@[simp] theorem State.wcLine_insts (l : Nat) (ps : List Nat) : (s.wcLine l ps).insts = s.insts := by
  obtain ⟨w, h⟩ := s.wcLine_eq l ps; rw [h]
@[simp] theorem State.wcLine_nextInst (l : Nat) (ps : List Nat) : (s.wcLine l ps).nextInst = s.nextInst := by
  obtain ⟨w, h⟩ := s.wcLine_eq l ps; rw [h]
@[simp] theorem State.wcLine_host (l : Nat) (ps : List Nat) : (s.wcLine l ps).host = s.host := by
  obtain ⟨w, h⟩ := s.wcLine_eq l ps; rw [h]
@[simp] theorem State.wcLine_ctxs (l : Nat) (ps : List Nat) : (s.wcLine l ps).ctxs = s.ctxs := by
  obtain ⟨w, h⟩ := s.wcLine_eq l ps; rw [h]
@[simp] theorem State.wcLine_cores (l : Nat) (ps : List Nat) : (s.wcLine l ps).cores = s.cores := by
  obtain ⟨w, h⟩ := s.wcLine_eq l ps; rw [h]
@[simp] theorem State.wcLine_wakes (l : Nat) (ps : List Nat) : (s.wcLine l ps).wakes = s.wakes := by
  obtain ⟨w, h⟩ := s.wcLine_eq l ps; rw [h]
@[simp] theorem State.wcLine_tileq (l : Nat) (ps : List Nat) : (s.wcLine l ps).tileq = s.tileq := by
  obtain ⟨w, h⟩ := s.wcLine_eq l ps; rw [h]
@[simp] theorem State.wcLine_passBase (l : Nat) (ps : List Nat) : (s.wcLine l ps).passBase = s.passBase := by
  obtain ⟨w, h⟩ := s.wcLine_eq l ps; rw [h]
@[simp] theorem State.wcLine_mcores (l : Nat) (ps : List Nat) : (s.wcLine l ps).mcores = s.mcores := by
  obtain ⟨w, h⟩ := s.wcLine_eq l ps; rw [h]
@[simp] theorem State.wcLine_tcm (l : Nat) (ps : List Nat) : (s.wcLine l ps).tcm = s.tcm := by
  obtain ⟨w, h⟩ := s.wcLine_eq l ps; rw [h]
@[simp] theorem State.wcLine_hot (l : Nat) (ps : List Nat) : (s.wcLine l ps).hot = s.hot := by
  obtain ⟨w, h⟩ := s.wcLine_eq l ps; rw [h]
@[simp] theorem State.wcLine_fab (l : Nat) (ps : List Nat) : (s.wcLine l ps).fab = s.fab := by
  obtain ⟨w, h⟩ := s.wcLine_eq l ps; rw [h]
@[simp] theorem State.wcLine_mgr (l : Nat) (ps : List Nat) : (s.wcLine l ps).mgr = s.mgr := by
  obtain ⟨w, h⟩ := s.wcLine_eq l ps; rw [h]
@[simp] theorem State.wcLine_clock (l : Nat) (ps : List Nat) : (s.wcLine l ps).clock = s.clock := by
  obtain ⟨w, h⟩ := s.wcLine_eq l ps; rw [h]
@[simp] theorem State.wcLine_rst (l : Nat) (ps : List Nat) : (s.wcLine l ps).rst = s.rst := by
  obtain ⟨w, h⟩ := s.wcLine_eq l ps; rw [h]
@[simp] theorem State.wcLine_stores (l : Nat) (ps : List Nat) : (s.wcLine l ps).stores = s.stores := by
  obtain ⟨w, h⟩ := s.wcLine_eq l ps; rw [h]
@[simp] theorem State.wcLine_pow (l : Nat) (ps : List Nat) : (s.wcLine l ps).pow = s.pow := by
  obtain ⟨w, h⟩ := s.wcLine_eq l ps; rw [h]
@[simp] theorem State.wcLine_sec (l : Nat) (ps : List Nat) : (s.wcLine l ps).sec = s.sec := by
  obtain ⟨w, h⟩ := s.wcLine_eq l ps; rw [h]
@[simp] theorem State.wcLine_log (l : Nat) (ps : List Nat) : (s.wcLine l ps).log = s.log := by
  obtain ⟨w, h⟩ := s.wcLine_eq l ps; rw [h]
@[simp] theorem State.wcLine_freeCtr (l : Nat) (ps : List Nat) : (s.wcLine l ps).freeCtr = s.freeCtr := by
  obtain ⟨w, h⟩ := s.wcLine_eq l ps; rw [h]

/-! `wcTouch` writes wc. -/

@[simp] theorem State.wcTouch_pending (o n : Nat) : (s.wcTouch o n).pending = s.pending := by
  obtain ⟨w, h⟩ := s.wcTouch_eq o n; rw [h]
@[simp] theorem State.wcTouch_regs (o n : Nat) : (s.wcTouch o n).regs = s.regs := by
  obtain ⟨w, h⟩ := s.wcTouch_eq o n; rw [h]
@[simp] theorem State.wcTouch_mem (o n : Nat) : (s.wcTouch o n).mem = s.mem := by
  obtain ⟨w, h⟩ := s.wcTouch_eq o n; rw [h]
@[simp] theorem State.wcTouch_diacs (o n : Nat) : (s.wcTouch o n).diacs = s.diacs := by
  obtain ⟨w, h⟩ := s.wcTouch_eq o n; rw [h]
@[simp] theorem State.wcTouch_poison (o n : Nat) : (s.wcTouch o n).poison = s.poison := by
  obtain ⟨w, h⟩ := s.wcTouch_eq o n; rw [h]
@[simp] theorem State.wcTouch_insts (o n : Nat) : (s.wcTouch o n).insts = s.insts := by
  obtain ⟨w, h⟩ := s.wcTouch_eq o n; rw [h]
@[simp] theorem State.wcTouch_nextInst (o n : Nat) : (s.wcTouch o n).nextInst = s.nextInst := by
  obtain ⟨w, h⟩ := s.wcTouch_eq o n; rw [h]
@[simp] theorem State.wcTouch_host (o n : Nat) : (s.wcTouch o n).host = s.host := by
  obtain ⟨w, h⟩ := s.wcTouch_eq o n; rw [h]
@[simp] theorem State.wcTouch_ctxs (o n : Nat) : (s.wcTouch o n).ctxs = s.ctxs := by
  obtain ⟨w, h⟩ := s.wcTouch_eq o n; rw [h]
@[simp] theorem State.wcTouch_cores (o n : Nat) : (s.wcTouch o n).cores = s.cores := by
  obtain ⟨w, h⟩ := s.wcTouch_eq o n; rw [h]
@[simp] theorem State.wcTouch_wakes (o n : Nat) : (s.wcTouch o n).wakes = s.wakes := by
  obtain ⟨w, h⟩ := s.wcTouch_eq o n; rw [h]
@[simp] theorem State.wcTouch_tileq (o n : Nat) : (s.wcTouch o n).tileq = s.tileq := by
  obtain ⟨w, h⟩ := s.wcTouch_eq o n; rw [h]
@[simp] theorem State.wcTouch_passBase (o n : Nat) : (s.wcTouch o n).passBase = s.passBase := by
  obtain ⟨w, h⟩ := s.wcTouch_eq o n; rw [h]
@[simp] theorem State.wcTouch_mcores (o n : Nat) : (s.wcTouch o n).mcores = s.mcores := by
  obtain ⟨w, h⟩ := s.wcTouch_eq o n; rw [h]
@[simp] theorem State.wcTouch_tcm (o n : Nat) : (s.wcTouch o n).tcm = s.tcm := by
  obtain ⟨w, h⟩ := s.wcTouch_eq o n; rw [h]
@[simp] theorem State.wcTouch_hot (o n : Nat) : (s.wcTouch o n).hot = s.hot := by
  obtain ⟨w, h⟩ := s.wcTouch_eq o n; rw [h]
@[simp] theorem State.wcTouch_fab (o n : Nat) : (s.wcTouch o n).fab = s.fab := by
  obtain ⟨w, h⟩ := s.wcTouch_eq o n; rw [h]
@[simp] theorem State.wcTouch_mgr (o n : Nat) : (s.wcTouch o n).mgr = s.mgr := by
  obtain ⟨w, h⟩ := s.wcTouch_eq o n; rw [h]
@[simp] theorem State.wcTouch_clock (o n : Nat) : (s.wcTouch o n).clock = s.clock := by
  obtain ⟨w, h⟩ := s.wcTouch_eq o n; rw [h]
@[simp] theorem State.wcTouch_rst (o n : Nat) : (s.wcTouch o n).rst = s.rst := by
  obtain ⟨w, h⟩ := s.wcTouch_eq o n; rw [h]
@[simp] theorem State.wcTouch_stores (o n : Nat) : (s.wcTouch o n).stores = s.stores := by
  obtain ⟨w, h⟩ := s.wcTouch_eq o n; rw [h]
@[simp] theorem State.wcTouch_pow (o n : Nat) : (s.wcTouch o n).pow = s.pow := by
  obtain ⟨w, h⟩ := s.wcTouch_eq o n; rw [h]
@[simp] theorem State.wcTouch_sec (o n : Nat) : (s.wcTouch o n).sec = s.sec := by
  obtain ⟨w, h⟩ := s.wcTouch_eq o n; rw [h]
@[simp] theorem State.wcTouch_log (o n : Nat) : (s.wcTouch o n).log = s.log := by
  obtain ⟨w, h⟩ := s.wcTouch_eq o n; rw [h]
@[simp] theorem State.wcTouch_freeCtr (o n : Nat) : (s.wcTouch o n).freeCtr = s.freeCtr := by
  obtain ⟨w, h⟩ := s.wcTouch_eq o n; rw [h]

/-! `wrPhys` writes mem, poison, wc. -/

@[simp] theorem State.wrPhys_pending (a : Nat) (bs : List Byte) : (s.wrPhys a bs).pending = s.pending := by
  obtain ⟨p, w, h⟩ := s.wrPhys_eq a bs; rw [h]
@[simp] theorem State.wrPhys_regs (a : Nat) (bs : List Byte) : (s.wrPhys a bs).regs = s.regs := by
  obtain ⟨p, w, h⟩ := s.wrPhys_eq a bs; rw [h]
@[simp] theorem State.wrPhys_diacs (a : Nat) (bs : List Byte) : (s.wrPhys a bs).diacs = s.diacs := by
  obtain ⟨p, w, h⟩ := s.wrPhys_eq a bs; rw [h]
@[simp] theorem State.wrPhys_insts (a : Nat) (bs : List Byte) : (s.wrPhys a bs).insts = s.insts := by
  obtain ⟨p, w, h⟩ := s.wrPhys_eq a bs; rw [h]
@[simp] theorem State.wrPhys_nextInst (a : Nat) (bs : List Byte) : (s.wrPhys a bs).nextInst = s.nextInst := by
  obtain ⟨p, w, h⟩ := s.wrPhys_eq a bs; rw [h]
@[simp] theorem State.wrPhys_host (a : Nat) (bs : List Byte) : (s.wrPhys a bs).host = s.host := by
  obtain ⟨p, w, h⟩ := s.wrPhys_eq a bs; rw [h]
@[simp] theorem State.wrPhys_ctxs (a : Nat) (bs : List Byte) : (s.wrPhys a bs).ctxs = s.ctxs := by
  obtain ⟨p, w, h⟩ := s.wrPhys_eq a bs; rw [h]
@[simp] theorem State.wrPhys_cores (a : Nat) (bs : List Byte) : (s.wrPhys a bs).cores = s.cores := by
  obtain ⟨p, w, h⟩ := s.wrPhys_eq a bs; rw [h]
@[simp] theorem State.wrPhys_wakes (a : Nat) (bs : List Byte) : (s.wrPhys a bs).wakes = s.wakes := by
  obtain ⟨p, w, h⟩ := s.wrPhys_eq a bs; rw [h]
@[simp] theorem State.wrPhys_tileq (a : Nat) (bs : List Byte) : (s.wrPhys a bs).tileq = s.tileq := by
  obtain ⟨p, w, h⟩ := s.wrPhys_eq a bs; rw [h]
@[simp] theorem State.wrPhys_passBase (a : Nat) (bs : List Byte) : (s.wrPhys a bs).passBase = s.passBase := by
  obtain ⟨p, w, h⟩ := s.wrPhys_eq a bs; rw [h]
@[simp] theorem State.wrPhys_mcores (a : Nat) (bs : List Byte) : (s.wrPhys a bs).mcores = s.mcores := by
  obtain ⟨p, w, h⟩ := s.wrPhys_eq a bs; rw [h]
@[simp] theorem State.wrPhys_tcm (a : Nat) (bs : List Byte) : (s.wrPhys a bs).tcm = s.tcm := by
  obtain ⟨p, w, h⟩ := s.wrPhys_eq a bs; rw [h]
@[simp] theorem State.wrPhys_hot (a : Nat) (bs : List Byte) : (s.wrPhys a bs).hot = s.hot := by
  obtain ⟨p, w, h⟩ := s.wrPhys_eq a bs; rw [h]
@[simp] theorem State.wrPhys_fab (a : Nat) (bs : List Byte) : (s.wrPhys a bs).fab = s.fab := by
  obtain ⟨p, w, h⟩ := s.wrPhys_eq a bs; rw [h]
@[simp] theorem State.wrPhys_mgr (a : Nat) (bs : List Byte) : (s.wrPhys a bs).mgr = s.mgr := by
  obtain ⟨p, w, h⟩ := s.wrPhys_eq a bs; rw [h]
@[simp] theorem State.wrPhys_clock (a : Nat) (bs : List Byte) : (s.wrPhys a bs).clock = s.clock := by
  obtain ⟨p, w, h⟩ := s.wrPhys_eq a bs; rw [h]
@[simp] theorem State.wrPhys_rst (a : Nat) (bs : List Byte) : (s.wrPhys a bs).rst = s.rst := by
  obtain ⟨p, w, h⟩ := s.wrPhys_eq a bs; rw [h]
@[simp] theorem State.wrPhys_stores (a : Nat) (bs : List Byte) : (s.wrPhys a bs).stores = s.stores := by
  obtain ⟨p, w, h⟩ := s.wrPhys_eq a bs; rw [h]
@[simp] theorem State.wrPhys_pow (a : Nat) (bs : List Byte) : (s.wrPhys a bs).pow = s.pow := by
  obtain ⟨p, w, h⟩ := s.wrPhys_eq a bs; rw [h]
@[simp] theorem State.wrPhys_sec (a : Nat) (bs : List Byte) : (s.wrPhys a bs).sec = s.sec := by
  obtain ⟨p, w, h⟩ := s.wrPhys_eq a bs; rw [h]
@[simp] theorem State.wrPhys_log (a : Nat) (bs : List Byte) : (s.wrPhys a bs).log = s.log := by
  obtain ⟨p, w, h⟩ := s.wrPhys_eq a bs; rw [h]
@[simp] theorem State.wrPhys_freeCtr (a : Nat) (bs : List Byte) : (s.wrPhys a bs).freeCtr = s.freeCtr := by
  obtain ⟨p, w, h⟩ := s.wrPhys_eq a bs; rw [h]

/-! `jnlAppend` writes mem, regs. -/

@[simp] theorem State.jnlAppend_pending (n : Nat) (g : Region) (k t : Nat) : (s.jnlAppend n g k t).pending = s.pending := rfl
@[simp] theorem State.jnlAppend_diacs (n : Nat) (g : Region) (k t : Nat) : (s.jnlAppend n g k t).diacs = s.diacs := rfl
@[simp] theorem State.jnlAppend_poison (n : Nat) (g : Region) (k t : Nat) : (s.jnlAppend n g k t).poison = s.poison := rfl
@[simp] theorem State.jnlAppend_wc (n : Nat) (g : Region) (k t : Nat) : (s.jnlAppend n g k t).wc = s.wc := rfl
@[simp] theorem State.jnlAppend_insts (n : Nat) (g : Region) (k t : Nat) : (s.jnlAppend n g k t).insts = s.insts := rfl
@[simp] theorem State.jnlAppend_nextInst (n : Nat) (g : Region) (k t : Nat) : (s.jnlAppend n g k t).nextInst = s.nextInst := rfl
@[simp] theorem State.jnlAppend_host (n : Nat) (g : Region) (k t : Nat) : (s.jnlAppend n g k t).host = s.host := rfl
@[simp] theorem State.jnlAppend_ctxs (n : Nat) (g : Region) (k t : Nat) : (s.jnlAppend n g k t).ctxs = s.ctxs := rfl
@[simp] theorem State.jnlAppend_cores (n : Nat) (g : Region) (k t : Nat) : (s.jnlAppend n g k t).cores = s.cores := rfl
@[simp] theorem State.jnlAppend_wakes (n : Nat) (g : Region) (k t : Nat) : (s.jnlAppend n g k t).wakes = s.wakes := rfl
@[simp] theorem State.jnlAppend_tileq (n : Nat) (g : Region) (k t : Nat) : (s.jnlAppend n g k t).tileq = s.tileq := rfl
@[simp] theorem State.jnlAppend_passBase (n : Nat) (g : Region) (k t : Nat) : (s.jnlAppend n g k t).passBase = s.passBase := rfl
@[simp] theorem State.jnlAppend_mcores (n : Nat) (g : Region) (k t : Nat) : (s.jnlAppend n g k t).mcores = s.mcores := rfl
@[simp] theorem State.jnlAppend_tcm (n : Nat) (g : Region) (k t : Nat) : (s.jnlAppend n g k t).tcm = s.tcm := rfl
@[simp] theorem State.jnlAppend_hot (n : Nat) (g : Region) (k t : Nat) : (s.jnlAppend n g k t).hot = s.hot := rfl
@[simp] theorem State.jnlAppend_fab (n : Nat) (g : Region) (k t : Nat) : (s.jnlAppend n g k t).fab = s.fab := rfl
@[simp] theorem State.jnlAppend_mgr (n : Nat) (g : Region) (k t : Nat) : (s.jnlAppend n g k t).mgr = s.mgr := rfl
@[simp] theorem State.jnlAppend_clock (n : Nat) (g : Region) (k t : Nat) : (s.jnlAppend n g k t).clock = s.clock := rfl
@[simp] theorem State.jnlAppend_rst (n : Nat) (g : Region) (k t : Nat) : (s.jnlAppend n g k t).rst = s.rst := rfl
@[simp] theorem State.jnlAppend_stores (n : Nat) (g : Region) (k t : Nat) : (s.jnlAppend n g k t).stores = s.stores := rfl
@[simp] theorem State.jnlAppend_pow (n : Nat) (g : Region) (k t : Nat) : (s.jnlAppend n g k t).pow = s.pow := rfl
@[simp] theorem State.jnlAppend_sec (n : Nat) (g : Region) (k t : Nat) : (s.jnlAppend n g k t).sec = s.sec := rfl
@[simp] theorem State.jnlAppend_log (n : Nat) (g : Region) (k t : Nat) : (s.jnlAppend n g k t).log = s.log := rfl
@[simp] theorem State.jnlAppend_freeCtr (n : Nat) (g : Region) (k t : Nat) : (s.jnlAppend n g k t).freeCtr = s.freeCtr := rfl

/-! `jnlWait` writes regs, log, host. -/

@[simp] theorem State.jnlWait_pending (n : Nat) : (s.jnlWait n).pending = s.pending := State.raise_pending _ _ _
@[simp] theorem State.jnlWait_mem (n : Nat) : (s.jnlWait n).mem = s.mem := State.raise_mem _ _ _
@[simp] theorem State.jnlWait_diacs (n : Nat) : (s.jnlWait n).diacs = s.diacs := State.raise_diacs _ _ _
@[simp] theorem State.jnlWait_poison (n : Nat) : (s.jnlWait n).poison = s.poison := State.raise_poison _ _ _
@[simp] theorem State.jnlWait_wc (n : Nat) : (s.jnlWait n).wc = s.wc := State.raise_wc _ _ _
@[simp] theorem State.jnlWait_insts (n : Nat) : (s.jnlWait n).insts = s.insts := State.raise_insts _ _ _
@[simp] theorem State.jnlWait_nextInst (n : Nat) : (s.jnlWait n).nextInst = s.nextInst := State.raise_nextInst _ _ _
@[simp] theorem State.jnlWait_ctxs (n : Nat) : (s.jnlWait n).ctxs = s.ctxs := State.raise_ctxs _ _ _
@[simp] theorem State.jnlWait_cores (n : Nat) : (s.jnlWait n).cores = s.cores := State.raise_cores _ _ _
@[simp] theorem State.jnlWait_wakes (n : Nat) : (s.jnlWait n).wakes = s.wakes := State.raise_wakes _ _ _
@[simp] theorem State.jnlWait_tileq (n : Nat) : (s.jnlWait n).tileq = s.tileq := State.raise_tileq _ _ _
@[simp] theorem State.jnlWait_passBase (n : Nat) : (s.jnlWait n).passBase = s.passBase := State.raise_passBase _ _ _
@[simp] theorem State.jnlWait_mcores (n : Nat) : (s.jnlWait n).mcores = s.mcores := State.raise_mcores _ _ _
@[simp] theorem State.jnlWait_tcm (n : Nat) : (s.jnlWait n).tcm = s.tcm := State.raise_tcm _ _ _
@[simp] theorem State.jnlWait_hot (n : Nat) : (s.jnlWait n).hot = s.hot := State.raise_hot _ _ _
@[simp] theorem State.jnlWait_fab (n : Nat) : (s.jnlWait n).fab = s.fab := State.raise_fab _ _ _
@[simp] theorem State.jnlWait_mgr (n : Nat) : (s.jnlWait n).mgr = s.mgr := State.raise_mgr _ _ _
@[simp] theorem State.jnlWait_clock (n : Nat) : (s.jnlWait n).clock = s.clock := State.raise_clock _ _ _
@[simp] theorem State.jnlWait_rst (n : Nat) : (s.jnlWait n).rst = s.rst := State.raise_rst _ _ _
@[simp] theorem State.jnlWait_stores (n : Nat) : (s.jnlWait n).stores = s.stores := State.raise_stores _ _ _
@[simp] theorem State.jnlWait_pow (n : Nat) : (s.jnlWait n).pow = s.pow := State.raise_pow _ _ _
@[simp] theorem State.jnlWait_sec (n : Nat) : (s.jnlWait n).sec = s.sec := State.raise_sec _ _ _
@[simp] theorem State.jnlWait_freeCtr (n : Nat) : (s.jnlWait n).freeCtr = s.freeCtr := State.raise_freeCtr _ _ _

/-! `setDiac` writes mem, diacs. -/

@[simp] theorem State.setDiac_pending (n a : Nat) (w : Word) : (s.setDiac n a w).pending = s.pending := by
  unfold State.setDiac; split
  · split <;> rfl
  · rfl
@[simp] theorem State.setDiac_regs (n a : Nat) (w : Word) : (s.setDiac n a w).regs = s.regs := by
  unfold State.setDiac; split
  · split <;> rfl
  · rfl
@[simp] theorem State.setDiac_poison (n a : Nat) (w : Word) : (s.setDiac n a w).poison = s.poison := by
  unfold State.setDiac; split
  · split <;> rfl
  · rfl
@[simp] theorem State.setDiac_wc (n a : Nat) (w : Word) : (s.setDiac n a w).wc = s.wc := by
  unfold State.setDiac; split
  · split <;> rfl
  · rfl
@[simp] theorem State.setDiac_insts (n a : Nat) (w : Word) : (s.setDiac n a w).insts = s.insts := by
  unfold State.setDiac; split
  · split <;> rfl
  · rfl
@[simp] theorem State.setDiac_nextInst (n a : Nat) (w : Word) : (s.setDiac n a w).nextInst = s.nextInst := by
  unfold State.setDiac; split
  · split <;> rfl
  · rfl
@[simp] theorem State.setDiac_host (n a : Nat) (w : Word) : (s.setDiac n a w).host = s.host := by
  unfold State.setDiac; split
  · split <;> rfl
  · rfl
@[simp] theorem State.setDiac_ctxs (n a : Nat) (w : Word) : (s.setDiac n a w).ctxs = s.ctxs := by
  unfold State.setDiac; split
  · split <;> rfl
  · rfl
@[simp] theorem State.setDiac_cores (n a : Nat) (w : Word) : (s.setDiac n a w).cores = s.cores := by
  unfold State.setDiac; split
  · split <;> rfl
  · rfl
@[simp] theorem State.setDiac_wakes (n a : Nat) (w : Word) : (s.setDiac n a w).wakes = s.wakes := by
  unfold State.setDiac; split
  · split <;> rfl
  · rfl
@[simp] theorem State.setDiac_tileq (n a : Nat) (w : Word) : (s.setDiac n a w).tileq = s.tileq := by
  unfold State.setDiac; split
  · split <;> rfl
  · rfl
@[simp] theorem State.setDiac_passBase (n a : Nat) (w : Word) : (s.setDiac n a w).passBase = s.passBase := by
  unfold State.setDiac; split
  · split <;> rfl
  · rfl
@[simp] theorem State.setDiac_mcores (n a : Nat) (w : Word) : (s.setDiac n a w).mcores = s.mcores := by
  unfold State.setDiac; split
  · split <;> rfl
  · rfl
@[simp] theorem State.setDiac_tcm (n a : Nat) (w : Word) : (s.setDiac n a w).tcm = s.tcm := by
  unfold State.setDiac; split
  · split <;> rfl
  · rfl
@[simp] theorem State.setDiac_hot (n a : Nat) (w : Word) : (s.setDiac n a w).hot = s.hot := by
  unfold State.setDiac; split
  · split <;> rfl
  · rfl
@[simp] theorem State.setDiac_fab (n a : Nat) (w : Word) : (s.setDiac n a w).fab = s.fab := by
  unfold State.setDiac; split
  · split <;> rfl
  · rfl
@[simp] theorem State.setDiac_mgr (n a : Nat) (w : Word) : (s.setDiac n a w).mgr = s.mgr := by
  unfold State.setDiac; split
  · split <;> rfl
  · rfl
@[simp] theorem State.setDiac_clock (n a : Nat) (w : Word) : (s.setDiac n a w).clock = s.clock := by
  unfold State.setDiac; split
  · split <;> rfl
  · rfl
@[simp] theorem State.setDiac_rst (n a : Nat) (w : Word) : (s.setDiac n a w).rst = s.rst := by
  unfold State.setDiac; split
  · split <;> rfl
  · rfl
@[simp] theorem State.setDiac_stores (n a : Nat) (w : Word) : (s.setDiac n a w).stores = s.stores := by
  unfold State.setDiac; split
  · split <;> rfl
  · rfl
@[simp] theorem State.setDiac_pow (n a : Nat) (w : Word) : (s.setDiac n a w).pow = s.pow := by
  unfold State.setDiac; split
  · split <;> rfl
  · rfl
@[simp] theorem State.setDiac_sec (n a : Nat) (w : Word) : (s.setDiac n a w).sec = s.sec := by
  unfold State.setDiac; split
  · split <;> rfl
  · rfl
@[simp] theorem State.setDiac_log (n a : Nat) (w : Word) : (s.setDiac n a w).log = s.log := by
  unfold State.setDiac; split
  · split <;> rfl
  · rfl
@[simp] theorem State.setDiac_freeCtr (n a : Nat) (w : Word) : (s.setDiac n a w).freeCtr = s.freeCtr := by
  unfold State.setDiac; split
  · split <;> rfl
  · rfl

/-- Preparing a granule writes memory, Diacritics, poison, write combining and registers; nothing else. -/
theorem State.openGranule_eq (n : Nat) (g : Region) (k : Nat) (b : Bool) :
    ∃ m d p w r, s.openGranule n g k b = { s with mem := m, diacs := d, poison := p, wc := w, regs := r } := by
  unfold State.openGranule; dsimp only
  by_cases h : (!s.running n || s.tagLast g k == s.openStep n g) = true
  · rw [if_pos h]; exact ⟨_, _, _, _, _, rfl⟩
  · rw [if_neg h]
    by_cases h1 : g.kind = 1
    · rw [if_pos h1]; exact ⟨_, _, _, _, _, rfl⟩
    · rw [if_neg h1]
      by_cases hb : b = true
      · rw [if_pos hb]; exact ⟨_, _, _, _, _, rfl⟩
      · rw [if_neg hb]
        obtain ⟨p, w, hw⟩ := s.wrPhys_eq (g.bankAddr (s.openStep n g % s.banks n) k) (memRead s.mem (g.bankAddr ((s.openStep n g - 1) % s.banks n) k) 1024)
        rw [hw]; exact ⟨_, _, _, _, _, rfl⟩

/-- A write within a granule writes the same stores; nothing else. -/
theorem State.wrPiece_eq (n : Option Nat) (a : Nat) (bs : List Byte) :
    ∃ m d p w r, s.wrPiece n a bs = { s with mem := m, diacs := d, poison := p, wc := w, regs := r } := by
  have hp : ∃ m d p w r, s.wrPhys a bs = { s with mem := m, diacs := d, poison := p, wc := w, regs := r } := by
    obtain ⟨p, w, h⟩ := s.wrPhys_eq a bs
    exact ⟨_, s.diacs, p, w, s.regs, h⟩
  unfold State.wrPiece
  split
  · exact ⟨_, _, _, _, _, rfl⟩
  · exact ⟨_, _, _, _, _, rfl⟩
  · split
    · exact hp
    · split
      · exact hp
      · rename_i n _ g _
        dsimp only
        obtain ⟨m, d, p, w, r, h⟩ := s.openGranule_eq n g ((a - g.base) / 1024) (bs.length == 1024)
        obtain ⟨p', w', h'⟩ := State.wrPhys_eq (s.openGranule n g ((a - g.base) / 1024) (bs.length == 1024))
          (State.physRead (s.openGranule n g ((a - g.base) / 1024) (bs.length == 1024)) (some n) a) bs
        rw [h']
        exact ⟨_, d, p', w', r, by rw [h]⟩


/-! `openGranule` writes mem, diacs, poison, wc, regs. -/

@[simp] theorem State.openGranule_pending (n : Nat) (g : Region) (k : Nat) (b : Bool) : (s.openGranule n g k b).pending = s.pending := by
  obtain ⟨m, d, p, w, r, h⟩ := s.openGranule_eq n g k b; rw [h]
@[simp] theorem State.openGranule_insts (n : Nat) (g : Region) (k : Nat) (b : Bool) : (s.openGranule n g k b).insts = s.insts := by
  obtain ⟨m, d, p, w, r, h⟩ := s.openGranule_eq n g k b; rw [h]
@[simp] theorem State.openGranule_nextInst (n : Nat) (g : Region) (k : Nat) (b : Bool) : (s.openGranule n g k b).nextInst = s.nextInst := by
  obtain ⟨m, d, p, w, r, h⟩ := s.openGranule_eq n g k b; rw [h]
@[simp] theorem State.openGranule_host (n : Nat) (g : Region) (k : Nat) (b : Bool) : (s.openGranule n g k b).host = s.host := by
  obtain ⟨m, d, p, w, r, h⟩ := s.openGranule_eq n g k b; rw [h]
@[simp] theorem State.openGranule_ctxs (n : Nat) (g : Region) (k : Nat) (b : Bool) : (s.openGranule n g k b).ctxs = s.ctxs := by
  obtain ⟨m, d, p, w, r, h⟩ := s.openGranule_eq n g k b; rw [h]
@[simp] theorem State.openGranule_cores (n : Nat) (g : Region) (k : Nat) (b : Bool) : (s.openGranule n g k b).cores = s.cores := by
  obtain ⟨m, d, p, w, r, h⟩ := s.openGranule_eq n g k b; rw [h]
@[simp] theorem State.openGranule_wakes (n : Nat) (g : Region) (k : Nat) (b : Bool) : (s.openGranule n g k b).wakes = s.wakes := by
  obtain ⟨m, d, p, w, r, h⟩ := s.openGranule_eq n g k b; rw [h]
@[simp] theorem State.openGranule_tileq (n : Nat) (g : Region) (k : Nat) (b : Bool) : (s.openGranule n g k b).tileq = s.tileq := by
  obtain ⟨m, d, p, w, r, h⟩ := s.openGranule_eq n g k b; rw [h]
@[simp] theorem State.openGranule_passBase (n : Nat) (g : Region) (k : Nat) (b : Bool) : (s.openGranule n g k b).passBase = s.passBase := by
  obtain ⟨m, d, p, w, r, h⟩ := s.openGranule_eq n g k b; rw [h]
@[simp] theorem State.openGranule_mcores (n : Nat) (g : Region) (k : Nat) (b : Bool) : (s.openGranule n g k b).mcores = s.mcores := by
  obtain ⟨m, d, p, w, r, h⟩ := s.openGranule_eq n g k b; rw [h]
@[simp] theorem State.openGranule_tcm (n : Nat) (g : Region) (k : Nat) (b : Bool) : (s.openGranule n g k b).tcm = s.tcm := by
  obtain ⟨m, d, p, w, r, h⟩ := s.openGranule_eq n g k b; rw [h]
@[simp] theorem State.openGranule_hot (n : Nat) (g : Region) (k : Nat) (b : Bool) : (s.openGranule n g k b).hot = s.hot := by
  obtain ⟨m, d, p, w, r, h⟩ := s.openGranule_eq n g k b; rw [h]
@[simp] theorem State.openGranule_fab (n : Nat) (g : Region) (k : Nat) (b : Bool) : (s.openGranule n g k b).fab = s.fab := by
  obtain ⟨m, d, p, w, r, h⟩ := s.openGranule_eq n g k b; rw [h]
@[simp] theorem State.openGranule_mgr (n : Nat) (g : Region) (k : Nat) (b : Bool) : (s.openGranule n g k b).mgr = s.mgr := by
  obtain ⟨m, d, p, w, r, h⟩ := s.openGranule_eq n g k b; rw [h]
@[simp] theorem State.openGranule_clock (n : Nat) (g : Region) (k : Nat) (b : Bool) : (s.openGranule n g k b).clock = s.clock := by
  obtain ⟨m, d, p, w, r, h⟩ := s.openGranule_eq n g k b; rw [h]
@[simp] theorem State.openGranule_rst (n : Nat) (g : Region) (k : Nat) (b : Bool) : (s.openGranule n g k b).rst = s.rst := by
  obtain ⟨m, d, p, w, r, h⟩ := s.openGranule_eq n g k b; rw [h]
@[simp] theorem State.openGranule_stores (n : Nat) (g : Region) (k : Nat) (b : Bool) : (s.openGranule n g k b).stores = s.stores := by
  obtain ⟨m, d, p, w, r, h⟩ := s.openGranule_eq n g k b; rw [h]
@[simp] theorem State.openGranule_pow (n : Nat) (g : Region) (k : Nat) (b : Bool) : (s.openGranule n g k b).pow = s.pow := by
  obtain ⟨m, d, p, w, r, h⟩ := s.openGranule_eq n g k b; rw [h]
@[simp] theorem State.openGranule_sec (n : Nat) (g : Region) (k : Nat) (b : Bool) : (s.openGranule n g k b).sec = s.sec := by
  obtain ⟨m, d, p, w, r, h⟩ := s.openGranule_eq n g k b; rw [h]
@[simp] theorem State.openGranule_log (n : Nat) (g : Region) (k : Nat) (b : Bool) : (s.openGranule n g k b).log = s.log := by
  obtain ⟨m, d, p, w, r, h⟩ := s.openGranule_eq n g k b; rw [h]
@[simp] theorem State.openGranule_freeCtr (n : Nat) (g : Region) (k : Nat) (b : Bool) : (s.openGranule n g k b).freeCtr = s.freeCtr := by
  obtain ⟨m, d, p, w, r, h⟩ := s.openGranule_eq n g k b; rw [h]

/-! `wrPiece` writes mem, diacs, poison, wc, regs. -/

@[simp] theorem State.wrPiece_pending (n : Option Nat) (a : Nat) (bs : List Byte) : (s.wrPiece n a bs).pending = s.pending := by
  obtain ⟨m, d, p, w, r, h⟩ := s.wrPiece_eq n a bs; rw [h]
@[simp] theorem State.wrPiece_insts (n : Option Nat) (a : Nat) (bs : List Byte) : (s.wrPiece n a bs).insts = s.insts := by
  obtain ⟨m, d, p, w, r, h⟩ := s.wrPiece_eq n a bs; rw [h]
@[simp] theorem State.wrPiece_nextInst (n : Option Nat) (a : Nat) (bs : List Byte) : (s.wrPiece n a bs).nextInst = s.nextInst := by
  obtain ⟨m, d, p, w, r, h⟩ := s.wrPiece_eq n a bs; rw [h]
@[simp] theorem State.wrPiece_host (n : Option Nat) (a : Nat) (bs : List Byte) : (s.wrPiece n a bs).host = s.host := by
  obtain ⟨m, d, p, w, r, h⟩ := s.wrPiece_eq n a bs; rw [h]
@[simp] theorem State.wrPiece_ctxs (n : Option Nat) (a : Nat) (bs : List Byte) : (s.wrPiece n a bs).ctxs = s.ctxs := by
  obtain ⟨m, d, p, w, r, h⟩ := s.wrPiece_eq n a bs; rw [h]
@[simp] theorem State.wrPiece_cores (n : Option Nat) (a : Nat) (bs : List Byte) : (s.wrPiece n a bs).cores = s.cores := by
  obtain ⟨m, d, p, w, r, h⟩ := s.wrPiece_eq n a bs; rw [h]
@[simp] theorem State.wrPiece_wakes (n : Option Nat) (a : Nat) (bs : List Byte) : (s.wrPiece n a bs).wakes = s.wakes := by
  obtain ⟨m, d, p, w, r, h⟩ := s.wrPiece_eq n a bs; rw [h]
@[simp] theorem State.wrPiece_tileq (n : Option Nat) (a : Nat) (bs : List Byte) : (s.wrPiece n a bs).tileq = s.tileq := by
  obtain ⟨m, d, p, w, r, h⟩ := s.wrPiece_eq n a bs; rw [h]
@[simp] theorem State.wrPiece_passBase (n : Option Nat) (a : Nat) (bs : List Byte) : (s.wrPiece n a bs).passBase = s.passBase := by
  obtain ⟨m, d, p, w, r, h⟩ := s.wrPiece_eq n a bs; rw [h]
@[simp] theorem State.wrPiece_mcores (n : Option Nat) (a : Nat) (bs : List Byte) : (s.wrPiece n a bs).mcores = s.mcores := by
  obtain ⟨m, d, p, w, r, h⟩ := s.wrPiece_eq n a bs; rw [h]
@[simp] theorem State.wrPiece_tcm (n : Option Nat) (a : Nat) (bs : List Byte) : (s.wrPiece n a bs).tcm = s.tcm := by
  obtain ⟨m, d, p, w, r, h⟩ := s.wrPiece_eq n a bs; rw [h]
@[simp] theorem State.wrPiece_hot (n : Option Nat) (a : Nat) (bs : List Byte) : (s.wrPiece n a bs).hot = s.hot := by
  obtain ⟨m, d, p, w, r, h⟩ := s.wrPiece_eq n a bs; rw [h]
@[simp] theorem State.wrPiece_fab (n : Option Nat) (a : Nat) (bs : List Byte) : (s.wrPiece n a bs).fab = s.fab := by
  obtain ⟨m, d, p, w, r, h⟩ := s.wrPiece_eq n a bs; rw [h]
@[simp] theorem State.wrPiece_mgr (n : Option Nat) (a : Nat) (bs : List Byte) : (s.wrPiece n a bs).mgr = s.mgr := by
  obtain ⟨m, d, p, w, r, h⟩ := s.wrPiece_eq n a bs; rw [h]
@[simp] theorem State.wrPiece_clock (n : Option Nat) (a : Nat) (bs : List Byte) : (s.wrPiece n a bs).clock = s.clock := by
  obtain ⟨m, d, p, w, r, h⟩ := s.wrPiece_eq n a bs; rw [h]
@[simp] theorem State.wrPiece_rst (n : Option Nat) (a : Nat) (bs : List Byte) : (s.wrPiece n a bs).rst = s.rst := by
  obtain ⟨m, d, p, w, r, h⟩ := s.wrPiece_eq n a bs; rw [h]
@[simp] theorem State.wrPiece_stores (n : Option Nat) (a : Nat) (bs : List Byte) : (s.wrPiece n a bs).stores = s.stores := by
  obtain ⟨m, d, p, w, r, h⟩ := s.wrPiece_eq n a bs; rw [h]
@[simp] theorem State.wrPiece_pow (n : Option Nat) (a : Nat) (bs : List Byte) : (s.wrPiece n a bs).pow = s.pow := by
  obtain ⟨m, d, p, w, r, h⟩ := s.wrPiece_eq n a bs; rw [h]
@[simp] theorem State.wrPiece_sec (n : Option Nat) (a : Nat) (bs : List Byte) : (s.wrPiece n a bs).sec = s.sec := by
  obtain ⟨m, d, p, w, r, h⟩ := s.wrPiece_eq n a bs; rw [h]
@[simp] theorem State.wrPiece_log (n : Option Nat) (a : Nat) (bs : List Byte) : (s.wrPiece n a bs).log = s.log := by
  obtain ⟨m, d, p, w, r, h⟩ := s.wrPiece_eq n a bs; rw [h]
@[simp] theorem State.wrPiece_freeCtr (n : Option Nat) (a : Nat) (bs : List Byte) : (s.wrPiece n a bs).freeCtr = s.freeCtr := by
  obtain ⟨m, d, p, w, r, h⟩ := s.wrPiece_eq n a bs; rw [h]

/-! `wr` writes mem, diacs, poison, wc, regs. -/

theorem State.wr_keeps {β : Type} (f : State → β) (hf : ∀ (s : State) n a bs, f (s.wrPiece n a bs) = f s) (n : Option Nat) (a : Nat)
    (bs : List Byte) : f (s.wr n a bs) = f s := by
  unfold State.wr
  generalize granPieces a bs.length = l
  induction l generalizing s with
  | nil => rfl
  | cons p t ih => rw [List.foldl_cons, ih, hf]

@[simp] theorem State.wr_pending (n : Option Nat) (a : Nat) (bs : List Byte) : (s.wr n a bs).pending = s.pending := s.wr_keeps State.pending State.wrPiece_pending n a bs
@[simp] theorem State.wr_insts (n : Option Nat) (a : Nat) (bs : List Byte) : (s.wr n a bs).insts = s.insts := s.wr_keeps State.insts State.wrPiece_insts n a bs
@[simp] theorem State.wr_nextInst (n : Option Nat) (a : Nat) (bs : List Byte) : (s.wr n a bs).nextInst = s.nextInst := s.wr_keeps State.nextInst State.wrPiece_nextInst n a bs
@[simp] theorem State.wr_host (n : Option Nat) (a : Nat) (bs : List Byte) : (s.wr n a bs).host = s.host := s.wr_keeps State.host State.wrPiece_host n a bs
@[simp] theorem State.wr_ctxs (n : Option Nat) (a : Nat) (bs : List Byte) : (s.wr n a bs).ctxs = s.ctxs := s.wr_keeps State.ctxs State.wrPiece_ctxs n a bs
@[simp] theorem State.wr_cores (n : Option Nat) (a : Nat) (bs : List Byte) : (s.wr n a bs).cores = s.cores := s.wr_keeps State.cores State.wrPiece_cores n a bs
@[simp] theorem State.wr_wakes (n : Option Nat) (a : Nat) (bs : List Byte) : (s.wr n a bs).wakes = s.wakes := s.wr_keeps State.wakes State.wrPiece_wakes n a bs
@[simp] theorem State.wr_tileq (n : Option Nat) (a : Nat) (bs : List Byte) : (s.wr n a bs).tileq = s.tileq := s.wr_keeps State.tileq State.wrPiece_tileq n a bs
@[simp] theorem State.wr_passBase (n : Option Nat) (a : Nat) (bs : List Byte) : (s.wr n a bs).passBase = s.passBase := s.wr_keeps State.passBase State.wrPiece_passBase n a bs
@[simp] theorem State.wr_mcores (n : Option Nat) (a : Nat) (bs : List Byte) : (s.wr n a bs).mcores = s.mcores := s.wr_keeps State.mcores State.wrPiece_mcores n a bs
@[simp] theorem State.wr_tcm (n : Option Nat) (a : Nat) (bs : List Byte) : (s.wr n a bs).tcm = s.tcm := s.wr_keeps State.tcm State.wrPiece_tcm n a bs
@[simp] theorem State.wr_hot (n : Option Nat) (a : Nat) (bs : List Byte) : (s.wr n a bs).hot = s.hot := s.wr_keeps State.hot State.wrPiece_hot n a bs
@[simp] theorem State.wr_fab (n : Option Nat) (a : Nat) (bs : List Byte) : (s.wr n a bs).fab = s.fab := s.wr_keeps State.fab State.wrPiece_fab n a bs
@[simp] theorem State.wr_mgr (n : Option Nat) (a : Nat) (bs : List Byte) : (s.wr n a bs).mgr = s.mgr := s.wr_keeps State.mgr State.wrPiece_mgr n a bs
@[simp] theorem State.wr_clock (n : Option Nat) (a : Nat) (bs : List Byte) : (s.wr n a bs).clock = s.clock := s.wr_keeps State.clock State.wrPiece_clock n a bs
@[simp] theorem State.wr_rst (n : Option Nat) (a : Nat) (bs : List Byte) : (s.wr n a bs).rst = s.rst := s.wr_keeps State.rst State.wrPiece_rst n a bs
@[simp] theorem State.wr_stores (n : Option Nat) (a : Nat) (bs : List Byte) : (s.wr n a bs).stores = s.stores := s.wr_keeps State.stores State.wrPiece_stores n a bs
@[simp] theorem State.wr_pow (n : Option Nat) (a : Nat) (bs : List Byte) : (s.wr n a bs).pow = s.pow := s.wr_keeps State.pow State.wrPiece_pow n a bs
@[simp] theorem State.wr_sec (n : Option Nat) (a : Nat) (bs : List Byte) : (s.wr n a bs).sec = s.sec := s.wr_keeps State.sec State.wrPiece_sec n a bs
@[simp] theorem State.wr_log (n : Option Nat) (a : Nat) (bs : List Byte) : (s.wr n a bs).log = s.log := s.wr_keeps State.log State.wrPiece_log n a bs
@[simp] theorem State.wr_freeCtr (n : Option Nat) (a : Nat) (bs : List Byte) : (s.wr n a bs).freeCtr = s.freeCtr := s.wr_keeps State.freeCtr State.wrPiece_freeCtr n a bs

end Sys2Proof.Machine
end

