-- ==== Sys2Proof/Laws/Ops.lean ====
section
/-! SUPPORT. What the shared operations over registers, contexts, descriptors, the event log and the stores do, once each. -/
namespace Sys2Proof.Machine
variable (s : State)

/-! ## The outcome of a command -/

theorem act_eq_next {c : Instr} {t u : State} : act c t = .next u ↔ c.wf = true ∧ t = u := by
  unfold act; split <;> simp [*]

theorem act_of_wf {c : Instr} (h : c.wf = true) (t : State) : act c t = .next t := by simp [act, h]

/-- A step with a command in front runs it on the queue's rest. -/
theorem step_cons {c : Instr} {l : List Instr} (h : s.pending = c :: l) : step s = exec c { s with pending := l } := by
  unfold step; rw [h]

theorem step_nil (h : s.pending = []) : step s = .next (tick s) := by unfold step; rw [h]

/-! ## Registers -/

theorem State.reg_setReg (off : Nat) (v : Word) (o : Nat) : (s.setReg off v).reg o = if o = off then v else s.reg o := by
  unfold State.reg State.setReg
  dsimp only
  rw [find?_sput]
  by_cases h : o = off <;> simp [h]

@[simp] theorem State.reg_setReg_same (off : Nat) (v : Word) : (s.setReg off v).reg off = v := by simp [State.reg_setReg]

theorem State.regsKept_setReg (off : Nat) (v : Word) : s.RegsKept (s.setReg off v) [off] := by
  intro o ho
  rw [State.reg_setReg, if_neg (by simpa using ho)]

theorem State.regsKept_setF (off lo w x : Nat) : s.RegsKept (s.setF off lo w x) [off] := s.regsKept_setReg off _

theorem State.reg_setF (off lo w x o : Nat) : (s.setF off lo w x).reg o = if o = off then setFld (s.reg off) lo w x else s.reg o :=
  s.reg_setReg off _ o

/-- A field just set by the hardware. -/
theorem State.rf_setF_same {off lo w x : Nat} (hw : lo + w ≤ 32) : (s.setF off lo w x).rf off lo w = x % 2 ^ w := by
  simp [State.rf, State.reg_setF, fld_setFld _ hw]

/-- Another field of the same register. -/
theorem State.rf_setF_of_disjoint {off lo w x lo' w' : Nat} (hw : lo + w ≤ 32) (h : lo' + w' ≤ lo ∨ lo + w ≤ lo') :
    (s.setF off lo w x).rf off lo' w' = s.rf off lo' w' := by
  simp [State.rf, State.reg_setF, fld_setFld_of_disjoint _ hw h]

/-- A field of another register. -/
theorem State.rf_setF_of_ne {off lo w x o lo' w' : Nat} (h : o ≠ off) : (s.setF off lo w x).rf o lo' w' = s.rf o lo' w' := by
  simp [State.rf, State.reg_setF, h]

theorem State.rf_lt (off lo w : Nat) : s.rf off lo w < 2 ^ w := fld_lt ..

/-- Registers that agree answer the same fields. -/
theorem State.RegsKept.rf {s t : State} {l : List Nat} (h : s.RegsKept t l) {off : Nat} (ho : off ∉ l) (lo w : Nat) :
    t.rf off lo w = s.rf off lo w := by
  rw [State.rf, State.rf, h off ho]

theorem State.RegsKept.trans {s t u : State} {l m : List Nat} (h : s.RegsKept t l) (g : t.RegsKept u m) : s.RegsKept u (l ++ m) := by
  intro o ho
  rw [List.mem_append, not_or] at ho
  rw [g o ho.2, h o ho.1]

theorem State.jobState_setJobState (n v : Nat) : (s.setJobState n v).jobState n = v % 8 := s.rf_setF_same (by omega)

theorem State.jobState_setJobState_of_ne {n m : Nat} (v : Nat) (h : m ≠ n) : (s.setJobState n v).jobState m = s.jobState m :=
  s.rf_setF_of_ne (by unfold ctxOff; omega)

theorem State.dropRegs_reg {p : Nat → Bool} {o : Nat} (h : p o = false) : (s.dropRegs p).reg o = s.reg o := by
  unfold State.reg State.dropRegs
  have : (s.regs.filter fun e => !p e.1).find? (fun e => e.1 == o) = s.regs.find? fun e => e.1 == o := by
    rw [List.find?_filter]
    congr 1
    funext e
    by_cases he : e.1 = o
    · simp [he, h]
    · simp [he]
  rw [this]

/-! ## Contexts and cores -/

theorem State.ctx_modCtx (n m : Nat) (f : Ctx → Ctx) (h : n < s.ctxs.length) : (s.modCtx n f).ctx m = if m = n then f (s.ctx m) else s.ctx m := by
  simp only [State.ctx, State.modCtx, getD_modNth]
  simp [h]

theorem State.core_modCore (c d : Nat) (f : Core → Core) (h : c < s.cores.length) :
    (s.modCore c f).core d = if d = c then f (s.core d) else s.core d := by
  simp only [State.core, State.modCore, getD_modNth]
  simp [h]

theorem State.sized_iff : s.sized = true ↔ s.ctxs.length = 16 ∧ s.cores.length = 32 := by simp [State.sized]

@[simp] theorem State.sized_modCtx (n : Nat) (f : Ctx → Ctx) : (s.modCtx n f).sized = s.sized := by simp [State.sized, State.modCtx]
@[simp] theorem State.sized_modCore (c : Nat) (f : Core → Core) : (s.modCore c f).sized = s.sized := by simp [State.sized, State.modCore]

/-! ## Descriptors in flight -/

/-- The descriptor of a number, after another was stored: itself if it was there, else as before. -/
theorem State.inst?_setInst (x : Inst) (i : Nat) :
    (s.setInst x).inst? i = if i = x.id then (s.inst? i).map (fun _ => x) else s.inst? i := by
  unfold State.inst? State.setInst
  dsimp only
  induction s.insts with
  | nil => simp
  | cons y t ih =>
    by_cases hy : y.id = x.id
    · by_cases hi : i = x.id
      · subst hi; simp [hy]
      · rw [if_neg hi] at ih ⊢
        simp only [List.map_cons, hy, beq_self_eq_true, if_true, List.find?_cons, beq_false_of_ne (Ne.symm hi)]
        exact ih
    · by_cases hi : i = x.id
      · rw [if_pos hi] at ih ⊢
        subst hi
        simp only [List.map_cons, beq_false_of_ne hy, Bool.false_eq_true, if_false, List.find?_cons]
        exact ih
      · rw [if_neg hi] at ih ⊢
        simp only [List.map_cons, beq_false_of_ne hy, Bool.false_eq_true, if_false, List.find?_cons]
        split <;> simp_all

/-- A descriptor whose status is formed has ended with it. -/
theorem State.ended_finish {x y : Inst} (h : s.inst? x.id = some y) (status detail : Nat) (cnt : Counters) :
    (s.finish x status detail cnt).Ended x.id status detail := by
  have : (s.finish x status detail cnt).inst? x.id =
      some { x with phase := .done, status := status, detail := detail, cnt := cnt, endTs := s.clock.fab, wait := none } := by
    unfold State.finish
    rw [State.inst?_setInst, if_pos rfl, h]
    rfl
  exact ⟨_, this, rfl, rfl, rfl⟩

theorem State.inst?_finish_of_ne {x : Inst} {i : Nat} (h : i ≠ x.id) (status detail : Nat) (cnt : Counters) :
    (s.finish x status detail cnt).inst? i = s.inst? i := by
  unfold State.finish
  rw [State.inst?_setInst, if_neg h]

/-! ## The event log (R806) -/

theorem State.logEv_log (t j : Nat) (ws : List Nat) : ∃ r, (s.logEv t j ws).log.next = s.log.next + 1 ∧
    (s.logEv t j ws).log.recs = (s.log.recs ++ [(s.log.next, r)]).drop ((s.log.recs ++ [(s.log.next, r)]).length - 2048) ∧
    fld (r.getD 0 0#32) 0 16 = t % 2 ^ 16 ∧ ∀ k < 4, (r.getD (4 + k) 0#32).toNat = ws.getD k 0 % 2 ^ 32 := by
  refine ⟨[BitVec.ofNat 32 (t + severity t * 2 ^ 16 + j % 4096 * 2 ^ 18 + s.rf 0x10048 0 1 * 2 ^ 30), BitVec.ofNat 32 s.log.next,
    BitVec.ofNat 32 s.clock.cal, BitVec.ofNat 32 (s.clock.cal / 2 ^ 32)] ++ (List.range 4).map fun k => BitVec.ofNat 32 (ws.getD k 0), ?_⟩
  unfold State.logEv
  dsimp only
  rw [State.raise_log]
  refine ⟨rfl, by dsimp only, ?_, ?_⟩
  · simp only [List.cons_append, List.getD_cons_zero, fld, bits, BitVec.toNat_ofNat]
    generalize s.rf 0x10048 0 1 = e
    generalize severity t = v
    generalize j % 4096 = i
    rw [Nat.pow_zero, Nat.div_one, Nat.mod_mod_of_dvd _ (Nat.pow_dvd_pow 2 (by omega : 16 ≤ 32)),
      show t + v * 2 ^ 16 + i * 2 ^ 18 + e * 2 ^ 30 = t + 2 ^ 16 * (v + i * 2 ^ 2 + e * 2 ^ 14) by ring, Nat.add_mul_mod_self_left]
  · intro k hk
    simp only [List.cons_append, List.nil_append]
    interval_cases k <;> simp [List.range_succ]

/-- Writing a record is exactly one record of its type and words. -/
theorem State.logged_logEv (t j : Nat) (ws : List Nat) (ht : t < 2 ^ 16) : s.Logged (s.logEv t j ws) t ws := by
  obtain ⟨r, h1, h2, h3, h4⟩ := s.logEv_log t j ws
  refine ⟨h1, r, ?_, by rw [h3, Nat.mod_eq_of_lt ht], h4⟩
  rw [h2, List.getLast?_drop]
  simp

/-- The log stays within its ring of 2,048, numbers below the next. -/
theorem State.logOk_logEv (h : s.logOk = true) (t j : Nat) (ws : List Nat) : (s.logEv t j ws).logOk = true := by
  obtain ⟨r, h1, h2, -, -⟩ := s.logEv_log t j ws
  simp only [State.logOk, Bool.and_eq_true, decide_eq_true_eq, List.all_eq_true] at *
  rw [h1, h2]
  refine ⟨by simp; omega, fun e he => ?_⟩
  have := List.mem_of_mem_drop he
  rcases List.mem_append.1 this with h' | h'
  · have := h.2 e h'; omega
  · simp only [List.mem_singleton] at h'; subst h'; simp

/-! ## The stores keep their canonical form -/

theorem State.memOk_iff : s.memOk = true ↔ Memory.wf s.mem = true ∧ Memory.wf s.diacs = true := by simp [State.memOk]

/-- Two states with the same memory and Diacritics have the same form. -/
theorem State.memOk_congr {s t : State} (h1 : t.mem = s.mem) (h2 : t.diacs = s.diacs) : t.memOk = s.memOk := by
  simp [State.memOk, h1, h2]

variable {s}

theorem State.memOk_wrPhys (h : s.memOk = true) (a : Nat) (bs : List Byte) : (s.wrPhys a bs).memOk = true := by
  rw [State.memOk_iff] at *
  obtain ⟨p, w, e⟩ := s.wrPhys_eq a bs
  rw [e]
  refine ⟨?_, h.2⟩
  dsimp only
  split
  · exact h.1
  · exact Memory.wf_memWrite h.1 _ _

theorem State.memOk_setDiacPhys (h : s.memOk = true) (a : Nat) (w : Word) : (s.setDiacPhys a w).memOk = true := by
  rw [State.memOk_iff] at *
  exact ⟨h.1, Memory.wf_memWrite h.2 _ _⟩

theorem State.memOk_setTags (h : s.memOk = true) (g : Region) (k l p : Nat) : (s.setTags g k l p).memOk = true := by
  rw [State.memOk_iff] at *
  exact ⟨Memory.wf_memWrite h.1 _ _, h.2⟩

theorem State.memOk_setDiac (h : s.memOk = true) (n a : Nat) (w : Word) : (s.setDiac n a w).memOk = true := by
  unfold State.setDiac
  split
  · split
    · rw [State.memOk_iff] at *
      exact ⟨Memory.wf_memWrite h.1 _ _, h.2⟩
    · exact h
  · exact memOk_setDiacPhys h _ _

theorem State.memOk_jnlAppend (h : s.memOk = true) (n : Nat) (g : Region) (k t : Nat) : (s.jnlAppend n g k t).memOk = true := by
  rw [State.memOk_iff] at *
  exact ⟨Memory.wf_memWrite h.1 _ _, h.2⟩

theorem State.memOk_openGranule (h : s.memOk = true) (n : Nat) (g : Region) (k : Nat) (b : Bool) : (s.openGranule n g k b).memOk = true := by
  unfold State.openGranule; dsimp only
  by_cases h0 : (!s.running n || s.tagLast g k == s.openStep n g) = true
  · rw [if_pos h0]; exact h
  · rw [if_neg h0]
    apply memOk_setTags
    by_cases h1 : g.kind = 1
    · rw [if_pos h1]; exact memOk_jnlAppend h _ _ _ _
    · rw [if_neg h1]
      by_cases hb : b = true
      · rw [if_pos hb]; exact h
      · rw [if_neg hb]
        exact (State.memOk_congr rfl rfl).trans (memOk_setDiacPhys (memOk_wrPhys h _ _) _ _)

theorem State.memOk_wrPiece (h : s.memOk = true) (n : Option Nat) (a : Nat) (bs : List Byte) : (s.wrPiece n a bs).memOk = true := by
  unfold State.wrPiece
  split
  · exact h
  · exact h
  · split
    · exact memOk_wrPhys h _ _
    · split
      · exact memOk_wrPhys h _ _
      · exact memOk_wrPhys (memOk_openGranule h _ _ _ _) _ _

/-- Writing bytes as a descriptor, a core or a peer keeps the canonical form. -/
theorem State.memOk_wr (h : s.memOk = true) (n : Option Nat) (a : Nat) (bs : List Byte) : (s.wr n a bs).memOk = true := by
  unfold State.wr
  generalize granPieces a bs.length = l
  induction l generalizing s with
  | nil => exact h
  | cons p t ih => exact ih (memOk_wrPiece h _ _ _)

/-- A write of a piece that no checkpoint region redirects stores its bytes at their address. -/
theorem State.mem_wrPiece_plain {n : Option Nat} {a : Nat} (bs : List Byte) (hr : ∀ k, n = some k → s.regionAt k a = none)
    (h1 : ∀ o, s.place a ≠ .reg o) (h2 : s.place a ≠ .none) :
    (s.wrPiece n a bs).mem = if bs.isEmpty then s.mem else memWrite s.mem a bs := by
  have e : s.wrPiece n a bs = s.wrPhys a bs := by
    unfold State.wrPiece
    split
    · exact absurd ‹_› (h1 _)
    · exact absurd ‹_› h2
    · split
      · rfl
      · rw [hr _ rfl]
  obtain ⟨p, w, h⟩ := s.wrPhys_eq a bs
  rw [e, h]

/-- Memory and Diacritics unchanged: the stores are kept. -/
theorem State.storesKept_of_eq {t : State} (h1 : t.mem = s.mem) (h2 : t.diacs = s.diacs) (h3 : t.poison = s.poison) : s.StoresKept t :=
  ⟨fun a => by rw [h1], fun a => by unfold State.diacPhys; rw [h2], h3⟩

theorem State.StoresKept.trans {t u : State} (h : s.StoresKept t) (g : t.StoresKept u) : s.StoresKept u :=
  ⟨fun a => (g.1 a).trans (h.1 a), fun a => (g.2.1 a).trans (h.2.1 a), g.2.2.trans h.2.2⟩

/-- A Diacritic just stored reads back, and those of other granules are as before. -/
theorem State.diacPhys_setDiacPhys (h : s.memOk = true) (a b : Nat) (w : Word) :
    (s.setDiacPhys a w).diacPhys b = if b / 1024 = a / 1024 then w else s.diacPhys b := by
  have hw := ((State.memOk_iff s).1 h).2
  have hl := leBytes_length 4 w.toNat
  unfold State.diacPhys State.setDiacPhys
  dsimp only
  split
  · rename_i e
    rw [e]
    have := memRead_memWrite_same hw (4 * (a / 1024)) (leBytes 4 w.toNat)
    rw [hl] at this
    rw [this, leNat_leBytes]
    apply BitVec.eq_of_toNat_eq
    have := w.isLt
    simp only [BitVec.toNat_ofNat]
    omega
  · rw [memRead_memWrite_of_disjoint hw (by rw [hl]; omega)]

end Sys2Proof.Machine
end

