-- ==== Sys2Proof/Laws/Shared.lean ====
section
/-! SUPPORT. Which parts of the state the shared operations over semaphores, packets and endings of descriptors can change, once each. -/
namespace Sys2Proof.Machine
variable (s : State)

/-! ## Semaphores -/

theorem State.restartRunOn_eq (owner : Word) : ∃ c, s.restartRunOn owner = { s with ctxs := c } := by
  unfold State.restartRunOn
  refine ite_keeps (P := fun t : State => ∃ c, t = { s with ctxs := c }) ⟨s.ctxs, rfl⟩ ?_
  generalize s.ctxsOf (fld owner 0 12) = l
  induction l generalizing s with
  | nil => exact ⟨s.ctxs, rfl⟩
  | cons n t ih =>
    obtain ⟨c, h⟩ := ih (s.modCtx n fun c => { c with runOn := 0 })
    exact ⟨c, by rw [List.foldl_cons, h]; rfl⟩

theorem State.raise_eq (fn v : Nat) : ∃ r h, s.raise fn v = { s with host := { s.host with raised := r, held := h } } := by
  unfold State.raise; dsimp only
  exact ite_keeps (P := fun t : State => ∃ r h, t = { s with host := { s.host with raised := r, held := h } }) ⟨_, _, rfl⟩ ⟨_, _, rfl⟩

/-- A record changes the log and the interrupts raised or held, nothing else. -/
theorem State.logEv_eq (t j : Nat) (ws : List Nat) :
    ∃ l r h, s.logEv t j ws = { s with log := l, host := { s.host with raised := r, held := h } } := by
  have key : ∀ l, ∃ r h, State.raise { s with log := l } 0 0 = { s with log := l, host := { s.host with raised := r, held := h } } :=
    fun l => State.raise_eq { s with log := l } 0 0
  obtain ⟨r, h, e⟩ := key _
  exact ⟨_, r, h, e⟩

theorem State.liftSeal_eq (g : Ring) : ∃ r l h, s.liftSeal g = { s with regs := r, log := l, host := h } := by
  unfold State.liftSeal
  by_cases h1 : g.isSealed ∧ s.semVal g.c g.empty = g.slots
  · rw [if_pos h1]
    by_cases h2 : s.semVal g.c g.full = 0 ∧ g.head = g.tail
    · rw [if_pos h2]; exact ⟨_, s.log, s.host, rfl⟩
    · rw [if_neg h2]
      obtain ⟨l, r, h, e⟩ := (s.setF (ringOff g.c g.r 28) 1 1 1).logEv_eq 0x0303 (s.jobId g.ctx) [g.c + 32 * g.r]
      rw [e]; exact ⟨_, l, _, rfl⟩
  · rw [if_neg h1]; exact ⟨s.regs, s.log, s.host, rfl⟩

/-- A semaphore that takes a value changes registers, wake wires, Run-On counts, the log and interrupts, nothing else. -/
theorem State.semPut_eq (u i v : Nat) :
    ∃ r w c l h, s.semPut u i v = { s with regs := r, wakes := w, ctxs := c, log := l, host := h } := by
  by_cases h0 : s.semVal u i = v
  · unfold State.semPut; rw [if_pos h0]; exact ⟨_, _, _, _, _, rfl⟩
  · have key : ∀ r w job, ∃ c, State.restartRunOn { s with regs := r, wakes := w } job = { s with regs := r, wakes := w, ctxs := c } :=
      fun r w job => State.restartRunOn_eq { s with regs := r, wakes := w } job
    have seal_ : ∀ r w c g, ∃ r' l h, State.liftSeal { s with regs := r, wakes := w, ctxs := c } g =
        { s with regs := r', wakes := w, ctxs := c, log := l, host := h } :=
      fun r w c g => State.liftSeal_eq { s with regs := r, wakes := w, ctxs := c } g
    unfold State.semPut State.setReg; rw [if_neg h0]; dsimp only
    obtain ⟨c, hc⟩ := key (sput (semOff u i) (BitVec.ofNat 32 v) s.regs)
      (if s.wakes.contains (u, i / 64) = true then s.wakes else s.wakes ++ [(u, i / 64)]) ((State.reg { s with
        regs := sput (semOff u i) (BitVec.ofNat 32 v) s.regs
        wakes := if s.wakes.contains (u, i / 64) = true then s.wakes else s.wakes ++ [(u, i / 64)] } (ownerOff u (i / 64))))
    rw [hc]
    split
    · rename_i g _
      obtain ⟨r, l, h, e⟩ := seal_ _ _ c g
      exact ⟨r, _, c, l, h, e⟩
    · exact ⟨_, _, c, s.log, s.host, rfl⟩

/-- Putting the value a semaphore already has changes nothing. -/
theorem State.semPut_self {u i v : Nat} (h : s.semVal u i = v) : s.semPut u i v = s := by
  unfold State.semPut; rw [if_pos h]

/-! ## Packets (R597, R602, R605) -/

theorem State.putSend_eq (f : SendFlow) : ∃ g, s.putSend f = { s with fab := { s.fab with send := g } } := by
  unfold State.putSend
  exact ite_keeps (P := fun t : State => ∃ g, t = { s with fab := { s.fab with send := g } }) ⟨_, rfl⟩ ⟨_, rfl⟩

/-- A sequenced packet changes its send flow and the outbox. -/
theorem State.sendSeq_eq (o : Option Nat) (die : Nat) (p : Packet) :
    ∃ g b, s.sendSeq o die p = { s with fab := { s.fab with send := g, outbox := b } } := by
  unfold State.sendSeq; dsimp only
  generalize sealPkt _ = q
  generalize SendFlow.mk _ _ _ _ = f
  obtain ⟨g, h⟩ := s.putSend_eq f
  exact ⟨g, _, by rw [h]; rfl⟩

theorem State.sendRaw_eq (p : Packet) : ∃ b, s.sendRaw p = { s with fab := { s.fab with outbox := b } } := ⟨_, rfl⟩

theorem State.sendCtrl_eq (d t : Nat) (ws : List Nat) :
    ∃ g b, s.sendCtrl d t ws = { s with fab := { s.fab with send := g, outbox := b } } := s.sendSeq_eq _ _ _

theorem State.openGroup_eq (d : Nat) (lane : Option (Nat × Nat)) : ∃ f, (s.openGroup d lane).1 = { s with fab := f } := by
  unfold State.openGroup; dsimp only
  generalize ({ s.sendFlow d with group := s.nextGroup d } : SendFlow) = f
  obtain ⟨g, h⟩ := s.putSend_eq f
  exact ⟨_, by rw [h]⟩

/-- Joining a count group changes the fabric's state and descriptors, nothing else. -/
theorem State.joinGroup_eq (x : Inst) (d : Nat) : ∃ f i, (s.joinGroup x d).1 = { s with fab := f, insts := i } := by
  have key : ∀ lane, ∃ f i, ((s.openGroup d lane).1.modInst x.id fun y => { y with cgroup := some (d, (s.openGroup d lane).2) }) =
      { s with fab := f, insts := i } := by
    intro lane
    obtain ⟨f, h⟩ := s.openGroup_eq d lane
    exact ⟨f, _, by unfold State.modInst; rw [h]⟩
  unfold State.joinGroup
  split
  · exact ⟨s.fab, s.insts, rfl⟩
  · split
    · split
      · exact ⟨s.fab, s.insts, rfl⟩
      · exact key none
    · split
      · exact ⟨s.fab, _, rfl⟩
      · exact key _

/-- A data packet of a descriptor changes the fabric's state and descriptors, nothing else. -/
theorem State.sendFor_eq (x : Inst) (p : Packet) : ∃ f i, s.sendFor x p = { s with fab := f, insts := i } := by
  unfold State.sendFor; dsimp only
  obtain ⟨f, i, h⟩ := s.joinGroup_eq ((s.inst? x.id).getD x) p.dst
  generalize s.joinGroup ((s.inst? x.id).getD x) p.dst = jg at h ⊢
  obtain ⟨t, n⟩ := jg
  dsimp only at h ⊢
  subst h
  generalize hu : (if n = 0 then _ else State.modGroup _ p.dst n _) = u
  have hu' : ∃ f', u = { s with fab := f', insts := i } := by
    rw [← hu]
    exact ite_keeps (P := fun t : State => ∃ f', t = { s with fab := f', insts := i }) ⟨_, rfl⟩ ⟨_, rfl⟩
  obtain ⟨f', rfl⟩ := hu'
  obtain ⟨g, b, e⟩ := State.sendSeq_eq { s with fab := f', insts := i } (some ((s.inst? x.id).getD x).id) (queueDie ((s.inst? x.id).getD x).queue)
    { p with group := n, job := ((s.inst? x.id).getD x).job }
  exact ⟨_, i, e⟩

/-- Sending as many packets as there is room for changes the fabric's state and descriptors, nothing else. -/
theorem State.sendSome_eq (x : Inst) : ∀ (l : List Packet) (k : Nat) (s : State), ∃ f i, (s.sendSome x l k).1 = { s with fab := f, insts := i }
  | [], _, s => ⟨s.fab, s.insts, rfl⟩
  | p :: t, k, s => by
    unfold State.sendSome
    by_cases h : (s.laneRoom x && s.storeRoom (queueDie x.queue) p && s.sendRoom p.dst 1 && s.groupRoom ((s.inst? x.id).getD x) p.dst) = true
    · rw [if_pos h]
      obtain ⟨f, i, e⟩ := s.sendFor_eq x p
      obtain ⟨f', i', e'⟩ := State.sendSome_eq x t (k + 1) (s.sendFor x p)
      exact ⟨f', i', by rw [e', e]⟩
    · rw [if_neg h]; exact ⟨s.fab, s.insts, rfl⟩

theorem State.sendSignal_eq (x : Inst) (d u k inc : Nat) (g : Option Nat) : ∃ f, s.sendSignal x d u k inc g = { s with fab := f } := by
  unfold State.sendSignal; dsimp only
  generalize { mkPkt .signal d x.job 0 0 (k + u * 2 ^ 13) _ with group := g.getD 0 } = p
  obtain ⟨a, b, e⟩ := (s.modGroup d (g.getD 0) fun g => { g with lane := none }).sendSeq_eq (some x.id) (queueDie x.queue) p
  exact ⟨_, e⟩

theorem State.sendCounted_eq (x : Inst) : ∃ f i, s.sendCounted x = { s with fab := f, insts := i } := by
  have key : ∀ f n, ∃ f' i, (State.sendSignal { s with fab := f } x x.sigDev x.sigUnit x.sigIndex x.sigInc (some n)).modInst x.id
      (fun y => { y with sigSent := true }) = { s with fab := f', insts := i } := by
    intro f n
    obtain ⟨f', e⟩ := State.sendSignal_eq { s with fab := f } x x.sigDev x.sigUnit x.sigIndex x.sigInc (some n)
    rw [e]; exact ⟨f', _, rfl⟩
  unfold State.sendCounted
  split
  · exact ⟨s.fab, s.insts, rfl⟩
  · cases x.cgroup with
    | some g => exact key s.fab g.2
    | none =>
      obtain ⟨f, e⟩ := s.openGroup_eq x.sigDev none
      dsimp only
      rw [e]; exact key f _

/-- The end of a descriptor changes descriptors and the fabric's state (its counted SIGNAL, its cancelled group), nothing else. -/
theorem State.endInst_eq (x : Inst) (st d : Nat) (c : Counters) : ∃ f i, s.endInst x st d c = { s with fab := f, insts := i } := by
  unfold State.endInst; dsimp only
  have h0 : ∀ y, ∃ i, s.finish y st d c = { s with insts := i } := fun y => ⟨_, rfl⟩
  obtain ⟨i, h⟩ := h0 ((s.inst? x.id).getD x)
  rw [h]
  split
  · exact ⟨s.fab, i, rfl⟩
  · split
    · obtain ⟨f, j, e⟩ := State.sendCounted_eq { s with insts := i } ((s.inst? x.id).getD x)
      exact ⟨f, j, e⟩
    · split
      · split
        · rename_i d n _
          obtain ⟨a, b, e⟩ := State.sendSeq_eq { s with insts := i } (some ((s.inst? x.id).getD x).id) (queueDie ((s.inst? x.id).getD x).queue)
            { mkPkt .cgCancel d ((s.inst? x.id).getD x).job 0 0 0 [] with group := n }
          exact ⟨_, i, e⟩
        · exact ⟨s.fab, i, rfl⟩
      · exact ⟨s.fab, i, rfl⟩

/-- E_ACCESS ends a descriptor and leaves at most one record (R796). -/
theorem State.endDeny_eq (x : Inst) (a : Nat) :
    ∃ f i l h, s.endDeny x a = { s with fab := f, insts := i, log := l, host := h } := by
  obtain ⟨f, i, e⟩ := s.endInst_eq x 0xF 0 {}
  simp only [State.endDeny, e]
  split
  · exact ⟨f, i, _, _, rfl⟩
  · obtain ⟨l, r, h, e'⟩ := State.logEv_eq { s with fab := f, insts := i } 0x0101 (State.jobId { s with fab := f, insts := i } x.ctx)
      [x.ctx, a % 2 ^ 32, a / 2 ^ 32]
    exact ⟨f, i, l, _, e'⟩

end Sys2Proof.Machine
end

