-- ==== Sys2Proof/Laws/Engine.lean ====
section
/-! SUPPORT. What numeric flags, counters, Diacritics of outputs and the end of an engine's descriptor can change. -/
namespace Sys2Proof.Machine
variable (s : State)

/-- A numeric flag changes registers, the contexts' own flags, and interrupts (R442 to R447). -/
theorem State.raiseFlag_eq (n b lg : Nat) : ∃ r c h, s.raiseFlag n b lg = { s with regs := r, ctxs := c, host := h } := by
  have key : ∀ (r : List (Nat × Word)) c fn v, ∃ h, State.raise { s with regs := r, ctxs := c } fn v = { s with regs := r, ctxs := c, host := h } := by
    intro r c fn v
    obtain ⟨a, b, e⟩ := State.raise_eq { s with regs := r, ctxs := c } fn v
    exact ⟨_, e⟩
  let P := fun t : State => ∃ r c h, t = { s with regs := r, ctxs := c, host := h }
  have kept : ∀ c, P { s with ctxs := c } := fun c => ⟨s.regs, c, s.host, rfl⟩
  unfold State.raiseFlag; dsimp only
  refine ite_keeps (P := P) (ite_keeps (P := P) ⟨_, _, s.host, rfl⟩ (kept _)) (ite_keeps (P := P) ?_ ⟨_, _, s.host, rfl⟩)
  obtain ⟨h, e⟩ := key _ _ _ _
  exact ⟨_, _, h, e⟩

theorem State.noteCounts_eq (n lg : Nat) (k : Counters) : ∃ r c h, s.noteCounts n lg k = { s with regs := r, ctxs := c, host := h } := by
  have key : ∀ (b : Nat) (p : Prop) [Decidable p] (t : State), (∃ r c h, t = { s with regs := r, ctxs := c, host := h }) →
      ∃ r c h, (if p then t.raiseFlag n b lg else t) = { s with regs := r, ctxs := c, host := h } := by
    intro b p _ t ht
    split
    · obtain ⟨r, c, h, rfl⟩ := ht
      obtain ⟨r', c', h', e⟩ := State.raiseFlag_eq { s with regs := r, ctxs := c, host := h } n b lg
      exact ⟨r', c', h', e⟩
    · exact ht
  unfold State.noteCounts; dsimp only
  exact key 4 _ _ (key 0 _ _ ⟨s.regs, _, s.host, rfl⟩)

/-- The end of an engine's descriptor changes flags, contexts' counters, interrupts, descriptors and the fabric's state, nothing else. -/
theorem State.endEngine_eq (x : Inst) (st d : Nat) (k : Counters) (lg : Nat) :
    ∃ r c h f i, s.endEngine x st d k lg = { s with regs := r, ctxs := c, host := h, fab := f, insts := i } := by
  unfold State.endEngine
  obtain ⟨r, c, h, e⟩ := s.noteCounts_eq x.ctx lg k
  rw [e]
  obtain ⟨f, i, e'⟩ := State.endInst_eq { s with regs := r, ctxs := c, host := h } x st d k
  exact ⟨r, c, h, f, i, e'⟩

/-- A Diacritic stored changes memory (host granules) or the Diacritics, nothing else. -/
theorem State.setDiac_eq (n a : Nat) (w : Word) : ∃ m d, s.setDiac n a w = { s with mem := m, diacs := d } := by
  unfold State.setDiac
  split
  · split
    · exact ⟨_, s.diacs, rfl⟩
    · exact ⟨s.mem, s.diacs, rfl⟩
  · exact ⟨s.mem, _, rfl⟩

theorem State.renew_eq (x : Inst) (g : Gran) : ∃ m d, s.renew x g = { s with mem := m, diacs := d } := by
  unfold State.renew
  split
  · exact ⟨s.mem, s.diacs, rfl⟩
  · exact s.setDiac_eq _ _ _

variable {s}

theorem State.memOk_renew (h : s.memOk = true) (x : Inst) (g : Gran) : (s.renew x g).memOk = true := by
  unfold State.renew
  split
  · exact h
  · exact memOk_setDiac h _ _ _

theorem State.memOk_putCars (h : s.memOk = true) (x : Inst) (l : List (Nat × Nat × Nat × Word)) : (s.putCars x l).memOk = true := by
  unfold State.putCars
  induction l generalizing s with
  | nil => exact h
  | cons c t ih =>
    refine ih ?_
    dsimp only
    split
    · exact memOk_setDiac h _ _ _
    · exact h

theorem State.memOk_endInst (h : s.memOk = true) (x : Inst) (st d : Nat) (k : Counters) : (s.endInst x st d k).memOk = true := by
  obtain ⟨f, i, e⟩ := s.endInst_eq x st d k
  rw [e]; exact h

theorem State.memOk_endEngine (h : s.memOk = true) (x : Inst) (st d : Nat) (k : Counters) (lg : Nat) :
    (s.endEngine x st d k lg).memOk = true := by
  obtain ⟨r, c, g, f, i, e⟩ := s.endEngine_eq x st d k lg
  rw [e]; exact h

theorem State.memOk_semPut (h : s.memOk = true) (u i v : Nat) : (s.semPut u i v).memOk = true := by
  obtain ⟨r, w, c, l, g, e⟩ := s.semPut_eq u i v
  rw [e]; exact h

/-! ## Traps, sensor events and prefetched operands -/

/-- A trap of a core moves the free counter on and changes the cores, of either complex, nothing else. -/
theorem State.trapAt_eq (c : Nat) (t : Trap) (store : Bool) (v : Nat) :
    ∃ k m, s.trapAt c t store v = { s with cores := k, mcores := m, freeCtr := s.freeCtr + 1 } := by
  unfold State.trapAt; dsimp only
  exact ite_keeps (P := fun u : State => ∃ k m, u = { s with cores := k, mcores := m, freeCtr := s.freeCtr + 1 })
    ⟨_, s.mcores, rfl⟩ ⟨s.cores, _, rfl⟩

/-- A sensor event adds at most one message. -/
theorem State.sensorEvent_eq (id v : Nat) : ∃ r, s.sensorEvent id v = { s with sec := { s.sec with replies := r } } := by
  unfold State.sensorEvent
  exact ite_keeps (P := fun u : State => ∃ r, u = { s with sec := { s.sec with replies := r } }) ⟨_, rfl⟩ ⟨s.sec.replies, rfl⟩

/-- A descriptor that waits for a prefetch leaves the state as it is, or ends with the prefetch's status. -/
theorem State.prefetchHolds_eq {t : State} {x : Inst} {l : List Nat} (h : s.prefetchHolds x l = some t) :
    t = s ∨ ∃ st d, t = s.endInst x st d {} := by
  unfold State.prefetchHolds at h
  split at h
  · cases h
  · split at h
    · cases h
    · split at h
      · exact .inr ⟨_, _, (Option.some.inj h).symm⟩
      · split at h
        · exact .inl (Option.some.inj h).symm
        · cases h
      · cases h

@[simp] theorem State.crossDie_regs (d : Nat) : (s.crossDie d).regs = s.regs := rfl
@[simp] theorem State.crossDie_insts (d : Nat) : (s.crossDie d).insts = s.insts := rfl
@[simp] theorem State.crossDie_fab (d : Nat) : (s.crossDie d).fab = s.fab := rfl
@[simp] theorem State.crossDie_mem (d : Nat) : (s.crossDie d).mem = s.mem := rfl
@[simp] theorem State.crossDie_pending (d : Nat) : (s.crossDie d).pending = s.pending := rfl

/-- An expert descriptor finds its operands where its words say (R451). -/
theorem State.stagedBase_expert (x : Inst) (b : Nat) (h : x.expert = true) : s.stagedBase x b = b := by
  simp [State.stagedBase, h]

end Sys2Proof.Machine
end

