-- ==== Sys2Proof/Tests/Slice0.lean ====
section
/-! SUPPORT. Small tests of the model, and for each obligation with hypotheses a state and operands that meet them. -/
namespace Sys2Proof.Tests
open Sys2Proof Sys2Proof.Machine

/-! ## Small states -/

def put (s : State) (l : List (Nat × Nat)) : State := l.foldl (fun s e => s.setReg e.1 (BitVec.ofNat 32 e.2)) s

/-- A READY device with twelve stacks of 1 MiB in all, host memory up. -/
def up : State :=
  put { State.reset with
    rst := { State.reset.rst with phase := .ready, aodUp := true, stacksIn := List.range 12 }
    host := { State.reset.host with trained := [0], busMaster := true } }
    [(0x10, 12 * 2 ^ 24), (0x20, 1), (0x2F0000, 1)]

/-- Context 0 runs job 5 with expert descriptors: every cluster, 1 MiB of HBM from offset 0, 1 MiB of host memory. -/
def act0 : State :=
  put up [(ctxOff 0 4, 2), (ctxOff 0 8, 0x1005), (ctxOff 0 0x48, 1), (ctxOff 0 0x4C, 15), (ctxOff 0 0x88, 1), (ctxOff 0 0x90, 2 ^ 32 - 1)]

/-- Bank 0 of cluster 0 belongs to job 5, semaphore 3 holds 7. -/
def sem0 : State := put act0 [(ownerOff 0 0, 0x1005), (semOff 0 3, 7)]

/-- A descriptor of context 0 with its words: opcode and job first. -/
def desc (op : Nat) (ph : Phase) (l : List (Nat × Nat)) : Inst :=
  let ws := l.foldl (fun ws e => modNth (fun _ => BitVec.ofNat 32 e.2) e.1 ws) (BitVec.ofNat 32 (op + 5 * 2 ^ 16) :: List.replicate 15 0#32)
  { Inst.fresh 0 0 0 0 false ws with phase := ph }

def withI (s : State) (x : Inst) : State := { s with insts := [x], nextInst := 1 }

/-- Registers, memory, descriptors and log agree. -/
def same (s t : State) : Bool := t.regs == s.regs && t.mem == s.mem && t.insts == s.insts && t.log == s.log

/-- A command answers a next state of which the test holds. -/
def after (o : Host.Outcome State Fault Refusal) (p : State → Bool) : Bool :=
  match o with | .next t => p t | .fault _ => false | .refused _ => false


set_option Elab.async false

/-! ## Well-formedness: each check refuses a command -/

def p0 : Packet := mkPkt .write 0 0 0 0 0 []
def badPackets : List Packet :=
  [{ p0 with dst := 65536 }, { p0 with src := 65536 }, { p0 with job := 4096 }, { p0 with tc := 4 }, { p0 with vc := 2 }, { p0 with epoch := 2 },
   { p0 with hopLimit := 32 }, { p0 with group := 65536 }, { p0 with addr := 2 ^ 48 }, { p0 with seqFloor := 2 ^ 24 }, { p0 with arg := 2 ^ 32 },
   { p0 with payload := List.replicate 513 0#8 }, { p0 with seq := 2 ^ 24 }, { p0 with kind := .reserved 3 }, { p0 with kind := .reserved 16 }]
theorem test_wf_packet : p0.wf = true ∧ (badPackets.all fun p => !p.wf) = true := by decide +kernel
theorem test_wf_packets : (([.write, .readReq, .readRsp, .signal, .semOp, .diac, .dense, .sparse, .digest, .expq, .expr, .sumcmp, .parityPacket, .ack, .nack,
    .cgCancel, .peerUnreachable, .linkState, .admitMsg, .heartbeat, .timeReq, .timeRsp, .stepDone, .fullStop, .rollback, .deltasDone, .parityStop, .resume,
    .rankTable, .warmNotice, .rejoin, .joinReceived, .rankRecord, .packetForward 0 none] : List (Packet → Instr)).all fun c =>
      (c p0).wf && !(c { p0 with dst := 65536 }).wf) = true := by decide +kernel
/-- Each has one operand that names nothing: a requester, a page, an offset, a width, a value. -/
theorem test_wf_doorbells : (([.sqTailDb (.vf 16) 0 0 4 0, .sqTailDb .pf 1024 0 4 0, .sqTailDb (.vf 0) 64 0 4 0, .sqTailDb .mgmt 0 0 4 0, .sqTailDb (.core 0) 0 0 4 0,
    .sqTailDb .pf 0 4096 4 0, .sqTailDb .pf 0 0 9 0, .sqTailDb .pf 0 0 1 256, .cqHeadDb (.vf 16) 0 0 4 0, .cqHeadDb .pf 1024 0 4 0, .cqHeadDb .pf 0 4096 4 0,
    .cqHeadDb .pf 0 0 9 0, .cqHeadDb .pf 0 0 1 256, .ctrHeadDb (.vf 16) 0 0, .ctrHeadDb (.vf 1) 0 0, .ctrHeadDb .pf 16 0, .ctrHeadDb .pf 0 (2 ^ 32),
    .descriptorFetch 1024 false, .cqCoalTimer 1024, .rearmStart 16 0, .rearmStart 0 256, .bar4Access .mgmt 0 1 none, .bar4Access (.vf 16) 0 1 none,
    .bar4Access .pf (2 ^ 39) 1 none, .bar4Access .pf 0 4097 none, .bar4Access .pf 0 1 (some [])] : List Instr).all fun c => !c.wf) = true := by decide +kernel
theorem test_wf_fabric : (([.windowComplete 4096 0 false, .windowComplete 0 (2 ^ 20) false, .packetForward 4 none p0, .packetForward 0 (some 64) p0, .ackSend 65536,
    .resendTimeout 65536 0, .resendTimeout 0 (2 ^ 24), .busyResend 65536 0, .busyResend 0 (2 ^ 24), .creditReturnTimer 64, .flowEviction 65536,
    .linkTrainingStart 64, .linkTrainingEnd 64 true 0 0, .linkTrainingEnd 0 true 256 0, .linkTrainingEnd 0 true 0 65536, .linkFailed 64 0, .linkSignalLoss 64,
    .retrain (.vf 16) 0, .retrain .pf 64, .linkEnable (.vf 16) 0 true, .linkEnable .pf 64 true, .memberSuspect 64, .tGrace 64] : List Instr).all fun c => !c.wf) = true := by
  decide +kernel
theorem test_wf_cores : (([.gemm 0 [⟨9, 0, 0, 0, 0, false, true⟩], .semWake 36 0, .semWake 0 128, .waiterLend 3824, .poolOffer 32, .runOnFire 16, .semInstruction 32 0 0 0 0,
    .semInstruction 0 32 0 0 0, .semInstruction 0 0 8 0 0, .vstab 32 0 0, .vissue 32 0, .vwait 32 0, .vwait 0 32, .scw 32 0 0, .scw 0 32 0, .scr 32 0 0, .scr 0 32 0,
    .scr 0 0 32, .cacheInvalidate 32 0 0, .cacheInvalidate 0 (2 ^ 64) 0, .cacheInvalidate 0 0 (2 ^ 32), .coreRemoteAccess 36 0 (.load 4),
    .coreRemoteAccess 0 (2 ^ 64) (.load 4)] : List Instr).all fun c => !c.wf) = true := by decide +kernel
theorem test_wf_contexts : (([.bind, .start, .quiesce, .abort, .release, .arm, .disarm] : List (Fn → Nat → Instr)).all fun c =>
      (c (.vf 1) 1).wf && !(c (.vf 16) 16).wf && !(c (.vf 1) 2).wf && !(c .pf 16).wf) = true ∧
    (([(fun f q => .sqEnable f q 1), (fun f q => .sqDisable f q 0), (fun f q => .cqEnable f q 1), (fun f q => .cqDisable f q 0), .fetchErrClear] : List (Fn → Nat → Instr)).all fun c =>
      (c (.vf 1) 64).wf && !(c (.vf 16) 1024).wf && !(c (.vf 1) 63).wf && !(c .pf 1024).wf) = true ∧
    (([.flr 16, .ringEnable (.vf 16) 0 0 0, .ringEnable .pf 32 0 0, .ringEnable .pf 0 64 0, .ringEnable .pf 0 0 16, .step0Write (.vf 16) 16 0, .step0Write .pf 16 0,
      .step0Write (.vf 1) 0 0] : List Instr).all fun c => !c.wf) = true := by decide +kernel
theorem test_wf_registers : (([.lexHotEn (.vf 16) 0 0, .lexHotEn .pf 8 0, .semBankOwnerWrite (.vf 16) 0 0 0, .semBankOwnerWrite .pf 36 0 0, .semBankOwnerWrite .pf 0 128 0,
    .debugSemWrite (.vf 16) 0 0 0, .debugSemWrite .pf 36 0 0, .debugSemWrite .pf 0 8192 0, .dbgChallenge (.vf 16), .submit (.vf 16) 0 0, .submit .pf 4 0, .submit .pf 0 2,
    .drop (.vf 16), .go (.vf 16) 0 0, .go .pf 4 0, .go .pf 0 32, .marginRun (.vf 16) 0 0, .marginRun .pf 12 0, .marginRunEnd 12 0 0, .marginRunEnd 0 64 0,
    .marginRunEnd 0 0 64, .evlogSel (.vf 16) 0, .evlogSel .pf (2 ^ 32), .fabricTimeLoRead (.vf 16), .calLoRead (.vf 16), .broadcastWrite (.vf 16) 0x2000000 0,
    .broadcastWrite .pf 0x1FFFFFF 0, .broadcastWrite .pf 0x3000000 0, .broadcastRead (.vf 16) 0x2000000, .broadcastRead .pf 0x3000000, .registerWrite (.vf 16) 0 0,
    .registerWrite (.core 32) 0 0, .registerWrite .pf 0x4000000 0] : List Instr).all fun c => !c.wf) = true := by decide +kernel
def o0 : ColdObs := ⟨[], none, true, [], [], [], []⟩
theorem test_wf_resets : o0.wf = true ∧ (([.perst 2 true, .debugReset (.vf 16) 0 0, .debugReset .pf 2 0, .debugReset .pf 0 32, .controlCoreLockup 32, .clusterReset 32,
    .coldRelease { o0 with tileFails := [(32, 0)] }, .coldRelease { o0 with tileFails := [(0, 9)] }, .coldRelease { o0 with otherFail := some (7, 0) },
    .coldRelease { o0 with otherFail := some (0, 256) }, .coldRelease { o0 with stackFails := [12] }, .coldRelease { o0 with laneRepairs := [(12, 1)] }, .coldRelease { o0 with linkFails := [64] },
    .coldRelease { o0 with peers := [(64, 0, 0)] }, .coldRelease { o0 with peers := [(0, 256, 0)] }, .coldRelease { o0 with peers := [(0, 0, 65536)] },
    .pcieLinkTraining 2 true] : List Instr).all fun c => !c.wf) = true := by decide +kernel
theorem test_wf_power : (([.clusterSleep 32, .dieDeep 2, .ioDieLight 4, .ioDieDeep 4, .dieWake 2, .wakeEvent (.lane 0xEF), .wakeEvent (.semaphore 36 0),
    .wakeEvent (.semaphore 0 128), .wakeEvent (.packet 32), .wakeEvent (.management 38), .patrolScrub 0 false (2 ^ 47) .clean, .channelRetrain 12 0 0 0, .channelRetrain 0 64 0 0,
    .tempReport 12 0, .tempReport 0 256, .getCertificate 8 0 0, .challenge 8 (List.replicate 32 0), .challenge 0 [], .getMeasurements 256 (List.replicate 32 0),
    .getMeasurements 0 [], .setEventReceiver 256, .endpointId 256] : List Instr).all fun c => !c.wf) = true := by decide +kernel
/-- No row of the table gives bits: a word spells no command and changes no queue. -/
theorem test_no_words : Sys2Proof.decodeTableWord 32 7 = none ∧ (up.withFetchWord 32 7) = up := by exact ⟨rfl, rfl⟩
/-! ## Block, doorbells, fetch, completion, semaphores -/

theorem test_empty_queue : State.reset.pending = [] ∧ State.reset.rst.clockHeld = false ∧
    (tick State.reset).clock.fab = 40 ∧ (tick State.reset).clock.now = 40 := by decide +kernel
theorem test_empty_queue_held :
    let s := { State.reset with rst := { State.reset.rst with clockHeld := true } }
    s.pending = [] ∧ s.rst.clockHeld = true ∧ (tick s).clock.fab = 0 := by decide +kernel

theorem test_sized_and_forms : State.reset.sized = true ∧ State.reset.memOk = true ∧ Memory.wf State.reset.tcm = true ∧ State.reset.logOk = true := by decide +kernel

/-- Ring 70 (context 1) and CQ 70 enabled with 64 entries. -/
def rings : State := put up [(ctxOff 1 4, 2), (sqOff 70 8, 0x10606), (cqOff 70 8, 0x10006)]

theorem test_doorbell_good : Instr.wf (.sqTailDb (.vf 1) 6 0 4 63) = true ∧ rings.ready = true ∧ pageRing (.vf 1) 6 = 70 ∧
    63 < rings.sqSize 70 ∧ rings.sqEnabled 70 = true ∧ 63 < rings.cqSize 70 ∧ rings.cqEnabled 70 = true ∧
    Instr.wf (.sqTailDb (.vf 1) 6 8 4 63) = true ∧
    after (exec (.sqTailDb (.vf 1) 6 0 4 63) rings) (fun t => t.sqTail 70 == 63) = true ∧
    after (exec (.cqHeadDb (.vf 1) 6 8 4 63) rings) (fun t => t.cqHead 70 == 63) = true := by decide +kernel
theorem test_doorbell_bad : Instr.wf (.sqTailDb .pf 1023 4092 8 64) = true ∧ up.ready = true ∧ up.sqEnabled 1023 = false ∧
    after (exec (.sqTailDb .pf 1023 4092 8 64) up) (fun t => t.rf (sqOff 1023 0x14) 0 1 == 1 && t.log.recs.length == 1) = true := by decide +kernel
theorem test_doorbell_not_ready : State.reset.ready = false ∧ Instr.wf (.ctrHeadDb .pf 0 1) = true ∧ Fn.isHost .pf = true ∧
    after (exec (.sqTailDb .pf 0 0 4 1) State.reset) (fun t => same State.reset t) = true := by decide +kernel
theorem test_ctr_head : Instr.wf (.ctrHeadDb (.vf 15) 15 65535) = true ∧ up.ready = true ∧ up.sized = true ∧
    after (exec (.ctrHeadDb (.vf 15) 15 65535) up) (fun t => (t.ctx 15).ctrHead == 65535) = true := by decide +kernel

/-- Ring 0 with one entry, completion ring 0 empty. -/
def fetch0 : State := put act0 [(sqOff 0 8, 0x10006), (sqOff 0 0xC, 63), (cqOff 0 8, 0x10006)]
theorem test_fetch : fetch0.fetchable 0 = true ∧ fetch0.hostUp = true ∧
    after (exec (.descriptorFetch 0 true) fetch0) (fun t => t.sqHead 0 == 0 && t.insts.length == 1 && (t.cqs 0).reserved == 1) = true ∧
    after (exec (.descriptorFetch 0 false) fetch0) (fun t => t.sqHead 0 == 63 && t.rf (sqOff 0 0x14) 1 1 == 1) = true := by decide +kernel

/-- A FENCE at the head of its lane; the words give the header's WAIT. -/
def atHead (l : List (Nat × Nat)) : State := withI sem0 { desc 0x0C .queued l with queue := 0xEC }
def atHeadOk (l : List (Nat × Nat)) : Bool :=
  let s := atHead l
  match s.inst? 0 with
  | none => false
  | some x => x.phase == .queued && s.unitAwake x.queue && (s.ahead x).all (fun y => y.phase.begun) && !s.fenced x && !s.stepOpen x.ctx &&
      !s.epiUnread x && (s.stateCheck x).isNone && s.semOwned 0 3 x.job && (s.ringOf 0 3).isNone

/-- WAIT fields of word 2: semaphore 3 of cluster 0, mode. -/
def waitWord (mode : Nat) : Nat × Nat := (2, 3 + mode * 2 ^ 20)

theorem test_start_without_wait : atHeadOk [] = true ∧
    after (exec (.descriptorAccessStart 0) (atHead [])) (fun t => (t.inst? 0).any fun y => y.phase == .started) = true := by decide +kernel
theorem test_start_wait_ge : atHeadOk [waitWord 1, (3, 7)] = true ∧
    after (exec (.descriptorAccessStart 0) (atHead [waitWord 1, (3, 7)])) (fun t => t.semVal 0 3 == 7 && (t.inst? 0).any fun y => y.phase == .started) = true := by decide +kernel
theorem test_start_acquire : atHeadOk [waitWord 2, (3, 7)] = true ∧
    after (exec (.descriptorAccessStart 0) (atHead [waitWord 2, (3, 7)])) (fun t => t.semVal 0 3 == 0 && (t.inst? 0).any fun y => y.phase == .started) = true := by decide +kernel
theorem test_start_sleeps : atHeadOk [waitWord 1, (3, 8)] = true ∧
    after (exec (.descriptorAccessStart 0) (atHead [waitWord 1, (3, 8)])) (fun t => (t.inst? 0).any fun y => y.phase == .waiting) = true := by decide +kernel

/-- A basic QUANT of a gradient of layer group 9, whose activation set the step has off-loaded, as its only one. -/
def backS : State :=
  let x := { desc 4 .queued [(14, 9 * 2 ^ 24), (15, 2 * 2 ^ 22)] with queue := 0x60 }
  (withI sem0 x).modCtx 0 fun c => { c with layers := [9], ofl := [⟨9, 1, hbmBase, 7, hbmBase + 2 ^ 19, 1, 64, 1024, none, none⟩] }
theorem test_start_prefetches : backS.sized = true ∧ (backS.ctx 0).ofl ≠ [] ∧ (backS.ctx 0).backs.contains 9 = false ∧
    (match backS.inst? 0 with
      | some x => x.phase == .queued && x.waitMode == 0 && x.gradLg == some 9 && backS.unitAwake x.queue && (backS.ahead x).isEmpty && !backS.fenced x &&
          !backS.epiUnread x && (backS.stateCheck x).isNone
      | none => false) = true ∧
    after (exec (.descriptorAccessStart 0) backS) (fun t => (t.ctx 0).backs == [9] && t.nextInst == 2 &&
      (t.insts.drop 1).map (fun y => (y.opcode, y.moveKind, y.sq)) == [(1, 2, 1024)]) = true := by decide +kernel

/-- An ended FENCE of ring 0 whose completion goes to entry 63 of CQ 0. -/
def ended0 : State :=
  withI (put act0 [(cqOff 0 8, 0x10006), (cqOff 0 0x10, 63)]) { desc 0x0C .done [(1, 0xABCD)] with endTs := 2 ^ 32, startTs := 0 }
theorem test_completion : ended0.memOk = true ∧ ended0.sized = true ∧ ended0.hostUp = true ∧ ended0.cqEnabled 0 = true ∧
    (match ended0.inst? 0 with | some x => !ended0.packetsOut x && x.opcode != 0x10 && x.parent.isNone && !x.sigOn && x.phase == .done | none => false) = true ∧
    after (exec (.completionRecord 0) ended0) (fun t => t.cqTail 0 == 0 && (t.inst? 0).isNone &&
      memRead t.mem (hostBit + 16 * 63) 8 == [0xCD#8, 0xAB#8, 0#8, 0#8, 0#8, 0#8, 0#8, 0x90#8]) = true := by decide +kernel

/-- CQ 64 (VF 1) counts one completion since stamp 0 and holds it at most 2 µs; the time is 2 µs. -/
def coal0 : State :=
  let s := put up [(cqOff 64 8, 0x310006), (cqOff 64 0x14, 0x20005)]
  { s with host := { s.host with cqs := [⟨64, true, 0, 1, some 0⟩] }, clock := { s.clock with now := 2000 } }
theorem test_coalescing : (coal0.cqs 64).timer = some 0 ∧ coal0.cqEnabled 64 = true ∧ coal0.rf (cqOff 64 0x14) 16 16 = 2 ∧
    coal0.clock.now = 2000 ∧ coal0.rf (cqOff 64 8) 31 1 = 0 ∧ coal0.host.msixOff = [] ∧ coal0.host.masked = [] ∧
    after (exec (.cqCoalTimer 64) coal0) (fun t => t.host.raised == [⟨2, 3⟩] && (t.cqs 64).timer.isNone) = true := by decide +kernel

/-- A queued re-arm of handle 9 whose predecessor ended with a stage. -/
def rearm0 (stage : Nat) : State := withI up { desc 1 .rearm [(6, 2 ^ 31 + 9)] with stage := stage, queue := 0xA8 }
theorem test_rearm_ok : ((rearm0 1).insts.find? fun z => z.phase == .rearm && z.ctx == 0 && z.handle == some 9).isSome = true ∧
    after (exec (.rearmStart 0 9) (rearm0 1)) (fun t => (t.inst? 0).any fun y => y.phase == .queued && y.stage == 0) = true := by decide +kernel
theorem test_rearm_failed : ((rearm0 2).insts.find? fun z => z.phase == .rearm && z.ctx == 0 && z.handle == some 9).isSome = true ∧
    after (exec (.rearmStart 0 9) (rearm0 2)) (fun t => (t.inst? 0).any fun y => y.phase == .done && y.status == 0xC) = true := by decide +kernel

/-- A started SEM on semaphore 3 of cluster 0 in lane 0xEC: operation, number, and more words. -/
def semD (sop n : Nat) (l : List (Nat × Nat) := []) : Inst :=
  { desc 0x0B .started ([(6, sop), (7, 3), (9, n)] ++ l) with queue := 0xEC }
def semS (sop n : Nat) : State := withI sem0 (semD sop n)

theorem test_sem_add_saturates : (semD 0 (2 ^ 32 - 7)).semLocal sem0 = true ∧ sem0.semOwned 0 3 5 = true ∧ (semD 0 0).job = 5 ∧
    ((semS 0 (2 ^ 32 - 7)).semOf 0 0).isSome = true ∧
    after (exec (.semAdd 0) (semS 0 (2 ^ 32 - 7))) (fun t => t.semVal 0 3 == 2 ^ 32 - 1 && t.log.recs.length == 1 &&
      (t.inst? 0).any fun y => y.phase == .done && y.status == 0) = true := by decide +kernel
theorem test_sem_sub_underflows : ((semS 1 8).semOf 0 1).isSome = true ∧ (semS 1 8).ringForbids 0 3 (semD 1 8).port false = false ∧
    after (exec (.semSub 0) (semS 1 8)) (fun t => t.semVal 0 3 == 0 && (t.inst? 0).any fun y => y.status == 0xB) = true := by decide +kernel
theorem test_sem_set : ((semS 4 0).semOf 0 4).isSome = true ∧
    after (exec (.semSet 0) (semS 4 0)) (fun t => t.semVal 0 3 == 0 && t.wakes.contains (0, 0) && (t.inst? 0).any fun y => y.phase == .done) = true := by
  decide +kernel
theorem test_sem_wait_ge : ((semS 2 7).semOf 0 2).isSome = true ∧ ((semS 2 8).semOf 0 2).isSome = true ∧
    after (exec (.semWaitGe 0) (semS 2 7)) (fun t => t.semVal 0 3 == 7 && (t.inst? 0).any fun y => y.phase == .done && y.status == 0) = true ∧
    after (exec (.semWaitGe 0) (semS 2 8)) (fun t => (t.inst? 0).any fun y => y.phase == .waiting) = true := by decide +kernel
theorem test_sem_acquire : ((semS 3 7).semOf 0 3).isSome = true ∧ (semS 3 7).ringOf 0 3 = none ∧
    after (exec (.semAcquire 0) (semS 3 7)) (fun t => t.semVal 0 3 == 0 && (t.inst? 0).any fun y => y.phase == .done) = true := by decide +kernel

/-- An enabled ring 2 of cluster 0, FULL semaphore 3, EMPTY semaphore 4, four slots, with `full` and `empty` slots;
producer port 9, consumer port 0xEC0. -/
def slots (full empty head tail : Nat) : State :=
  put sem0 [(ringOff 0 2 4, 4 + 2 ^ 16), (ringOff 0 2 8, 3 + 4 * 2 ^ 12), (ringOff 0 2 12, 9 + 0xEC0 * 2 ^ 12), (ringOff 0 2 16, 1),
    (ringOff 0 2 20, head), (ringOff 0 2 24, tail), (semOff 0 3, full), (semOff 0 4, empty)]

theorem test_ring_acquire :
    let s := withI (slots 2 2 7 9) (semD 3 2)
    (s.semOf 0 3).isSome = true ∧ (match s.ringOf 0 3 with | some (g, full) => full && g.cons == (semD 3 2).port | none => false) = true ∧
    after (exec (.semAcquire 0) s) (fun t => t.semVal 0 3 == 0 && (t.reg (ringOff 0 2 20)).toNat == 9 &&
      (t.inst? 0).any fun y => y.phase == .done && y.status == 0) = true := by decide +kernel
theorem test_ring_acquire_sleeps :
    let s := withI (slots 2 2 7 9) (semD 3 3)
    (s.semOf 0 3).isSome = true ∧ s.ringForbids 0 3 (semD 3 3).port true = false ∧ s.semVal 0 3 = 2 ∧
    after (exec (.semAcquire 0) s) (fun t => t.semVal 0 3 == 2 && (t.inst? 0).any fun y => y.phase == .waiting) = true := by decide +kernel

theorem test_sem_read :
    let s := withI sem0 (semD 5 0 [(10, 0x10), (11, 0x100)])
    let x := semD 5 0 [(10, 0x10), (11, 0x100)]
    s.memOk = true ∧ (s.semOf 0 5).isSome = true ∧ x.semLocal s = true ∧ s.isOwn (x.a64 10) = true ∧ s.mayAcc x 1 (x.a64 10) 4 = true ∧
    locOf (x.a64 10) = 0x10000000010 ∧ isHost (locOf (x.a64 10)) = false ∧ s.regionAt 0 (locOf (x.a64 10)) = none ∧
    after (exec (.semRead 0) s) (fun t => memRead t.mem 0x10000000010 4 == [7#8, 0#8, 0#8, 0#8] && (t.inst? 0).any fun y => y.status == 0) = true := by
  decide +kernel

/-- An RSEAL of ring 2 of cluster 0. -/
def rsealD : Inst := { desc 0x0B .started [(6, 6), (7, 2)] with queue := 0xEC }
theorem test_rseal_waits : ((withI (slots 1 3 0 1) rsealD).semOf 0 6).isSome = true ∧
    after (exec (.rseal 0) (withI (slots 1 3 0 1) rsealD)) (fun t => (t.ring 0 2).isSealed && (t.inst? 0).any fun y => y.status == 0) = true := by decide +kernel
theorem test_rseal_lifts : ((withI (slots 0 4 6 6) rsealD).semOf 0 6).isSome = true ∧
    after (exec (.rseal 0) (withI (slots 0 4 6 6) rsealD)) (fun t => !(t.ring 0 2).isSealed && (t.ring 0 2).head == 0 && (t.ring 0 2).tail == 0) = true := by decide +kernel
theorem test_rseal_differs : ((withI (slots 0 4 6 5) rsealD).semOf 0 6).isSome = true ∧
    after (exec (.rseal 0) (withI (slots 0 4 6 5) rsealD)) (fun t => (t.ring 0 2).isSealed && t.rf (ringOff 0 2 28) 1 1 == 1 && t.log.recs.length == 1) = true := by decide +kernel

theorem test_sem_put : sem0.semVal 0 3 = 7 ∧ (sem0.semPut 0 3 (2 ^ 32 - 1)).semVal 0 3 = 2 ^ 32 - 1 ∧
    (sem0.semPut 0 3 0).wakes.contains (0, 0) = true := by decide +kernel

/-- A descriptor asleep on semaphore 3 of cluster 0, whose bank's wire has fired. -/
def asleep0 (x : Inst) (n : Nat) : State :=
  let s := withI sem0 { x with phase := .waiting, wait := some ⟨0, 3, n, false⟩ }
  { s with wakes := [(0, 0)] }
theorem test_wake_sem : (asleep0 { semD 2 7 with waited := true } 7).waitersOn 0 0 = [((semD 2 7).port, .desc 0)] ∧
    (asleep0 { semD 2 7 with waited := true } 7).wakes.contains (0, 0) = true ∧
    after (exec (.semWake 0 0) (asleep0 { semD 2 7 with waited := true } 7)) (fun t => (t.inst? 0).any fun y => y.phase == .done && y.status == 0) = true := by
  decide +kernel
theorem test_wake_header :
    after (exec (.semWake 0 0) (asleep0 { desc 0x0C .waiting [] with queue := 0xEC } 7)) (fun t => (t.inst? 0).any fun y => y.phase == .started) = true := by
  decide +kernel
theorem test_wake_too_early : (asleep0 (semD 2 8) 8).stepOpen 0 = false ∧
    after (exec (.semWake 0 0) (asleep0 (semD 2 8) 8)) (fun t => (t.inst? 0).any fun y => y.phase == .waiting && !t.wakes.contains (0, 0)) = true := by
  decide +kernel
theorem test_wake_core :
    let s := { sem0.modCore 1 (fun k => { k with waiting := some (31, ⟨0, 3, 7, false⟩, 0, false) }) with wakes := [(0, 0)] }
    s.sized = true ∧ s.waitersOn 0 0 = [(16, .core 1)] ∧ (s.core 1).waiting = some (31, ⟨0, 3, 7, false⟩, 0, false) ∧
    swf 0#32 (s.core 1).x = true ∧
    after (exec (.semWake 0 0) s) (fun t => (t.core 1).waiting.isNone && sget 0#32 (t.core 1).x 31 == 7#32) = true := by decide +kernel
/-! ## Contexts, rings, registers -/

/-- Context 2 of an otherwise idle device in a state, bound to job 9. -/
def ctx2 (st : Nat) : State := put up [(ctxOff 2 4, st), (ctxOff 2 8, 9)]

/-- A waiting descriptor of context 2. -/
def work2 : Inst := { desc 0x0C .queued [] with ctx := 2, sq := 128, queue := 0xEC }

theorem test_bind : Instr.wf (.bind .pf 2) = true ∧ up.reaches .pf = true ∧ up.jobState 2 = 0 ∧ (ctx2 5).jobState 2 ≠ 0 ∧ isPf (.vf 2) = false ∧
    up.reaches (.vf 2) = true ∧ Instr.wf (.bind (.vf 2) 2) = true ∧
    after (exec (.bind .pf 2) up) (fun t => t.jobState 2 == 1) = true ∧
    after (exec (.bind .pf 2) (ctx2 5)) (fun t => t.jobState 2 == 5 && t.rf (ctxOff 2 4) 3 1 == 1) = true ∧
    after (exec (.bind (.vf 2) 2) up) (fun t => same up t) = true := by decide +kernel
theorem test_start : jobFn (.vf 2) 2 = true ∧ (ctx2 1).jobState 2 = 1 ∧ (ctx2 1).startOk 2 = true ∧ (ctx2 0).jobState 2 ≠ 1 ∧
    after (exec (.start (.vf 2) 2) (ctx2 1)) (fun t => t.jobState 2 == 2) = true ∧
    after (exec (.start (.vf 2) 2) (ctx2 0)) (fun t => t.jobState 2 == 0 && t.rf (ctxOff 2 4) 3 1 == 1) = true := by decide +kernel
theorem test_quiesce : (ctx2 2).jobState 2 = 2 ∧ (withI (ctx2 2) work2).insts.any (fun x => x.ctx == 2 && x.sq != 1024) = true ∧
    after (exec (.quiesce (.vf 2) 2) (withI (ctx2 2) work2)) (fun t => t.jobState 2 == 3) = true ∧
    after (exec (.quiesce .pf 2) (ctx2 2)) (fun t => t.jobState 2 == 1) = true ∧
    after (exec (.quiesce .pf 2) (ctx2 4)) (fun t => t.jobState 2 == 4 && t.rf (ctxOff 2 4) 3 1 == 1) = true := by decide +kernel
theorem test_abort : (ctx2 3).jobState 2 = 3 ∧ (ctx2 1).jobState 2 = 1 ∧
    after (exec (.abort .mgmt 2) (withI (ctx2 3) work2)) (fun t => t.jobState 2 == 1 && t.insts.all fun y => y.phase == .done && y.status == 0xC) = true ∧
    after (exec (.abort .mgmt 2) (ctx2 1)) (fun t => t.jobState 2 == 1 && t.rf (ctxOff 2 4) 3 1 == 1) = true := by decide +kernel
theorem test_release : (ctx2 5).jobState 2 = 5 ∧ (ctx2 2).jobState 2 = 2 ∧ Instr.wf (.release .pf 2) = true ∧
    after (exec (.release .pf 2) (put (ctx2 5) [(sqOff 130 8, 0x10006)])) (fun t => t.jobState 2 == 0 && t.jobId 2 == 0 && !t.sqEnabled 130) = true ∧
    after (exec (.release .pf 2) (ctx2 2)) (fun t => t.jobState 2 == 2 && t.rf (ctxOff 2 4) 3 1 == 1) = true := by decide +kernel
theorem test_flr : Instr.wf (.release .pf 15) = true ∧
    after (exec (.flr 2) (withI (ctx2 2) work2)) (fun t => t.jobState 2 == 0 && t.insts.all fun y => y.phase == .done) = true := by decide +kernel

theorem test_sq_rings : Instr.wf (.sqEnable (.vf 1) 64 0x10506#32) = true ∧ up.reaches (.vf 1) = true ∧ ringFn (.vf 1) 64 = true ∧
    up.sqEnabled 64 = false ∧ rings.sqEnabled 70 = true ∧ rings.cqEnabled 70 = true ∧
    after (exec (.sqEnable (.vf 1) 64 0x10506#32) up) (fun t => t.sqEnabled 64 && t.cqOf 64 == 69 && t.sqSize 64 == 64) = true ∧
    after (exec (.sqEnable (.vf 1) 70 0x10506#32) rings) (fun t => same rings t) = true ∧
    after (exec (.sqDisable (.vf 1) 70 0#32) rings) (fun t => !t.sqEnabled 70 && t.cqOf 70 == 70) = true ∧
    after (exec (.fetchErrClear (.vf 1) 70) (put rings [(sqOff 70 0x14, 2)])) (fun t => t.rf (sqOff 70 0x14) 1 1 == 0) = true := by decide +kernel
theorem test_cq_rings : up.cqEnabled 1023 = false ∧ Instr.wf (.cqEnable .pf 1023 0x10010#32) = true ∧
    after (exec (.cqEnable .pf 1023 0x10010#32) up) (fun t => t.cqEnabled 1023 && t.cqSize 1023 == 65536 && (t.cqs 1023).phase) = true ∧
    after (exec (.cqDisable .pf 70 0#32) rings) (fun t => !t.cqEnabled 70) = true := by decide +kernel

/-- A register with every access code of the model at once. -/
def codes : RegRow := ⟨"", 0, [], .any, [⟨0, 4, .ro, 0⟩, ⟨4, 4, .rw, 0⟩, ⟨8, 4, .rw1c, 0⟩, ⟨12, 4, .ctr, 0⟩, ⟨16, 4, .rwl, 0⟩]⟩
theorem test_access_codes : rowWrite codes 0xFFFFF#32 0x53A5#32 true = 0xF0CAF#32 ∧ rowWrite codes 0xFFFFF#32 0xA0000#32 false = 0xAFF0F#32 := by decide +kernel
theorem test_find_rows : (findRow 0x20).isSome = true ∧ (findRow 0x20018).isSome = true ∧ (findRow 0x20024).isSome = true ∧ (findRow 0x2002C).isSome = true := by
  decide +kernel

theorem test_register_write : up.reaches .pf = true ∧ Instr.wf (.registerWrite .pf 0x20000 1500#32) = true ∧
    (findRow 0x20000).any (fun r => up.mayWrite .pf r.writer 0x20000) = true ∧ (findRow 0x20004).any (fun r => !up.mayWrite .pf r.writer 0x20004) = true ∧
    up.unmapped 0x1FFFFFC = true ∧
    after (exec (.registerWrite .pf 0x20000 1500#32) up) (fun t => (t.reg 0x20000).toNat == 1500) = true ∧
    after (exec (.registerWrite .pf 0x20004 1500#32) up) (fun t => same up t) = true ∧
    after (exec (.registerWrite .pf 0x1FFFFFC 1#32) up) (fun t => t.rf globalStatus 4 1 == 1) = true := by decide +kernel

/-- TILE_MAP of cluster 0 differs from the others'. -/
def differ : State := put up [(clusterOff 0 0x104, 1)]
theorem test_broadcast_read : Instr.wf (.broadcastRead .pf 0x2000104) = true ∧ up.reaches .pf = true ∧ bcastFn .pf = true ∧ bcastMapped 0x2000104 = true ∧
    (up.bcastSel 0x2000104).length = 32 ∧ ((differ.bcastSel 0x2000104).tail.find? fun q => differ.regVal .pf q.2 != 1#32).any (fun q => q.1 == 1) = true ∧
    after (exec (.broadcastRead .pf 0x2000104) up) (fun t => t.rf globalStatus 2 1 == 0) = true ∧
    after (exec (.broadcastRead .pf 0x2000104) differ) (fun t => t.rf globalStatus 2 1 == 1 && t.rf globalStatus 16 9 == 1) = true := by decide +kernel
theorem test_broadcast_empty : bcastMapped 0x2800104 = true ∧ up.bcastSel 0x2800104 = [] ∧
    after (exec (.broadcastRead .pf 0x2800104) up) (fun t => t.rf globalStatus 3 1 == 1 && t.host.lastRead == some (.pf, leBytes 4 0, false)) = true ∧
    after (exec (.broadcastWrite .pf 0x2800104 1#32) up) (fun t => t.rf globalStatus 3 1 == 1) = true := by decide +kernel
theorem test_broadcast_write : bcastMapped 0x2802000 = true ∧
    (put up [(0x100, 16)]).bcastSel 0x2802000 = [(4, clusterOff 4 0x2000)] ∧ canonOff (clusterOff 4 0x2000) = clusterOff 4 0x2000 ∧
    after (exec (.broadcastWrite .pf 0x2802000 0x400#32) (put up [(0x100, 16)])) (fun t => (t.ring 4 0).base == 0x400) = true := by decide +kernel

theorem test_bar4_write : Instr.wf (.bar4Access .pf 0x100 2 (some [1#8, 2#8])) = true ∧ up.ready = true ∧ up.memOk = true ∧
    up.bar4Off .pf 0x100 2 = some 0x100 ∧ up.bar4Ok .pf 0x100 2 = true ∧ 0x100 + 2 ≤ up.dataBytes ∧ up.poisonPhys (hbmBase + 0x100) 2 = false ∧
    after (exec (.bar4Access .pf 0x100 2 (some [1#8, 2#8])) up) (fun t => memRead t.mem (hbmBase + 0x100) 2 == [1#8, 2#8]) = true ∧
    after (exec (.bar4Access .pf 0x100 2 none) up) (fun t => t.host.lastRead == some (.pf, [0#8, 0#8], false)) = true := by decide +kernel
theorem test_bar4_outside : act0.bar4Off (.vf 0) (2 ^ 20) 1 = some (2 ^ 20) ∧ act0.bar4Ok (.vf 0) (2 ^ 20) 1 = false ∧
    act0.bar4Ok (.vf 0) (2 ^ 20 - 1) 1 = true ∧
    after (exec (.bar4Access (.vf 0) (2 ^ 20) 1 (some [9#8])) act0) (fun t => t.mem == [] && t.log.recs.length == 1) = true ∧
    after (exec (.bar4Access (.vf 0) (2 ^ 20) 1 none) act0) (fun t => t.host.lastRead == some (.vf 0, [0#8], false)) = true := by decide +kernel

def timed0 : State := { up with clock := { up.clock with fab := 5 * 2 ^ 32 + 7, cal := 6 * 2 ^ 32 + 8 } }
theorem test_time_reads : Fn.wf (.core 31) = true ∧ timed0.reaches (.core 31) = true ∧ swf 0#32 timed0.host.latches = true ∧ latchIx .pf ≠ latchIx (.core 31) ∧
    after (exec (.fabricTimeLoRead (.core 31)) timed0) (fun t => (t.regVal (.core 31) 0x34).toNat == 5 && (t.regVal .pf 0x34).toNat == 0) = true ∧
    after (exec (.calLoRead .pf) timed0) (fun t => (t.regVal .pf 0x10044).toNat == 6 && t.host.lastRead == some (.pf, leBytes 4 8, false)) = true := by decide +kernel
def logged0 : State := up.logEv 0x0304 5 [7]
theorem test_event_log_select : Instr.wf (.evlogSel .pf 1) = true ∧ after (exec (.evlogSel .pf 1) logged0) (fun t => t.reg 0x10130 == 7#32) = true ∧
    after (exec (.evlogSel .pf 2) logged0) (fun t => t.reg 0x10120 == 0#32) = true := by decide +kernel

theorem test_bank_owner : Instr.wf (.semBankOwnerWrite .pf 0 0 0x1006#32) = true ∧ sem0.unitFitted 0 = true ∧ 0 < semCount 0 / 64 ∧
    sem0.bankWaited 0 0 = false ∧ (withI sem0 { semD 2 8 with phase := .waiting, wait := some ⟨0, 3, 8, false⟩ }).bankWaited 0 0 = true ∧
    sem0.reg (ownerOff 0 0) ≠ BitVec.ofNat 32 (fld 0x1006#32 0 13) ∧ sem0.reg (ownerOff 0 0) = BitVec.ofNat 32 (fld 0x1005#32 0 13) ∧
    after (exec (.semBankOwnerWrite (.vf 0) 0 0 0x1006#32) sem0) (fun t => same sem0 t) = true ∧
    after (exec (.semBankOwnerWrite .pf 0 0 0x1006#32) sem0) (fun t => t.semVal 0 3 == 0 && t.rf (ownerOff 0 0) 0 13 == 0x1006 && t.wakes.contains (0, 0)) = true ∧
    after (exec (.semBankOwnerWrite .pf 0 0 0x1005#32) sem0) (fun t => same sem0 t) = true ∧
    after (exec (.semBankOwnerWrite .pf 0 0 0#32) (withI sem0 { semD 2 8 with phase := .waiting, wait := some ⟨0, 3, 8, false⟩ }))
      (fun t => t.semVal 0 3 == 7 && t.log.recs.length == 1) = true := by decide +kernel

/-- A debugger of level 1 is granted. -/
def debug0 : State := put sem0 [(0x30004, 1)]
theorem test_debug_sem : debug0.granted ≠ 0 ∧ debug0.ready = true ∧ ((List.range 16).any fun n => debug0.jobState n == 4) = false ∧
    Instr.wf (.debugSemWrite .pf 0 4095 9#32) = true ∧ 4095 < semCount 0 ∧ sem0.granted = 0 ∧
    ((List.range 16).any fun n => (put debug0 [(ctxOff 15 4, 4)]).jobState n == 4) = true ∧
    after (exec (.debugSemWrite .pf 0 4095 9#32) debug0) (fun t => t.semVal 0 4095 == 9 && t.wakes.contains (0, 63) &&
      t.log.recs.getLast?.any fun r => r.2.drop 4 == [4095#32, 0#32, 9#32, 1#32]) = true ∧
    after (exec (.debugSemWrite .pf 0 3 9#32) (put debug0 [(ctxOff 15 4, 4)])) (fun t => t.semVal 0 3 == 7 && t.log.recs.length == 1) = true ∧
    after (exec (.debugSemWrite .pf 0 3 9#32) sem0) (fun t => t.semVal 0 3 == 7 && t.log.recs.length == 1) = true := by decide +kernel

/-- Ring 63 of cluster 0, not enabled, three slots of 1 KiB, semaphores 3 and 4. -/
def ringCfg : State := put sem0 [(ringOff 0 63 4, 3 + 2 ^ 16), (ringOff 0 63 8, 3 + 4 * 2 ^ 12)]
theorem test_ring_enable : (ringCfg.ring 0 63).enabled = false ∧ ringCfg.ringOk (ringCfg.ring 0 63) 0 = true ∧ sem0.ringOk (sem0.ring 0 63) 0 = false ∧
    Instr.wf (.ringEnable .pf 0 63 0) = true ∧
    after (exec (.ringEnable .pf 0 63 0) ringCfg) (fun t => (t.ring 0 63).enabled && t.semVal 0 3 == 0 && t.semVal 0 4 == 3) = true ∧
    after (exec (.ringEnable .pf 0 63 0) sem0) (fun t => !(t.ring 0 63).enabled && t.rf (ringOff 0 63 28) 2 1 == 1) = true := by decide +kernel

theorem test_lex_hot_en : up.rf (lexOff 7 4) 12 1 = 0 ∧ Instr.wf (.lexHotEn .pf 7 0x1300#32) = true ∧
    after (exec (.lexHotEn .pf 7 0x1300#32) { up with hot := [(7, ⟨0, 0, 0, 0, 0#32, 0⟩), (6, ⟨0, 0, 0, 0, 0#32, 0⟩)] })
      (fun t => t.hot.length == 1 && t.rf (lexOff 7 4) 12 1 == 1 && t.rf (lexOff 7 4) 8 4 == 3) = true := by decide +kernel

/-- Context 0 with its recipe table at HBM offset 0. -/
def recipes : State := put act0 [(ctxOff 0 0x204, 0x100)]
theorem test_arm : jobFn (.vf 0) 0 = true ∧ Fn.ctxOk (.vf 0) 0 = true ∧ recipes.rcpPending 0 = false ∧ recipes.recipeBase 0 1 = some (hbmBase + 0x10000) ∧
    recipes.readable (some 0) (hbmBase + 0x10000) 64 = true ∧ (put recipes [(ctxOff 0 0x20C, 2)]).rcpPending 0 = true ∧
    after (exec (.arm (.vf 0) 0) { recipes with mem := [(hbmBase + 0x10008, 9#8)] }) (fun t => t.rcpPending 0 && (t.ctx 0).armTag == 9#32) = true ∧
    after (exec (.arm (.vf 0) 0) (put recipes [(ctxOff 0 0x20C, 2)])) (fun t => t.rf (ctxOff 0 0x20C) 2 1 == 1) = true ∧
    after (exec (.disarm (.vf 0) 0) (put recipes [(ctxOff 0 0x20C, 2)])) (fun t => !t.rcpPending 0) = true := by decide +kernel
theorem test_step0 : up.jobState 15 < 2 ∧ 2 ≤ act0.jobState 0 ∧
    after (exec (.step0Write .pf 15 77#32) up) (fun t => t.fsStep 15 == 77 && t.psStep 15 == 77 && t.reg (ctxOff 15 0x80C) == 77#32) = true ∧
    after (exec (.step0Write .pf 0 77#32) act0) (fun t => same act0 t) = true := by decide +kernel

theorem test_debug_auth : Instr.wf (.submit .pf 2 1) = true ∧ up.submitOk 2 1 = false ∧ 8 ≤ (put up [(0x30004, 0x80)]).rf 0x30004 4 4 ∧
    after (exec (.dbgChallenge .pf) up) (fun t => t.rf 0x30004 2 1 == 1 && t.sec.nonceCtr == 1) = true ∧
    after (exec (.submit .pf 2 1) (put up [(0x30004, 4)])) (fun t => t.rf 0x30004 2 1 == 0 && t.rf 0x30004 4 4 == 1 && t.granted == 0) = true ∧
    after (exec (.drop .pf) debug0) (fun t => t.granted == 0) = true := by decide +kernel

/-- Stack 0 is READY with scrub enabled. -/
def stack0 : State := put debug0 [(ctxOff 0 4, 0), (stackOff 0 0, 2 ^ 16 + 85 * 2 ^ 8), (stackOff 0 4, 3)]
theorem test_margin : 0 < stack0.stacks ∧ ((List.range 16).any fun n => decide (2 ≤ stack0.jobState n)) = false ∧ stack0.rf (stackOff 0 4) 0 3 = 3 ∧
    ((List.range 16).any fun n => decide (2 ≤ debug0.jobState n)) = true ∧ Instr.wf (.marginRun .pf 0 0x2F#32) = true ∧
    after (exec (.marginRun .pf 0 0x2F#32) stack0) (fun t => t.rf (stackOff 0 4) 0 3 == 5 && t.rf (stackOff 0 0x100) 0 7 == 0x2F) = true ∧
    after (exec (.marginRun .pf 0 0x2F#32) debug0) (fun t => t.log.recs.length == 1 && t.regs == debug0.regs) = true ∧
    after (exec (.marginRunEnd 0 63 3) { put stack0 [(stackOff 0 4, 5), (stackOff 0 0x100, 8)] with diacs := [(0, 1#8), (4 * (hbmBase / 1024), 1#8)] })
      (fun t => t.rf (stackOff 0 4) 0 3 == 3 && t.rf (stackOff 0 0x100) 16 6 == 8 && t.rf (stackOff 0 0x100) 24 6 == 3 && t.diacs == [(0, 1#8)]) = true := by
  decide +kernel

def scrub0 : State := { stack0 with stores := { stack0.stores with rowErrs := [((0, 0, 0, 0, 0), [1, 2, 3])] } }
theorem test_scrub : 0 < scrub0.dataBytes ∧ scrub0.stackNo (hbmMap 0 12).stack = 0 ∧ scrub0.rf (stackOff 0 0) 16 8 ≠ 0 ∧ max 1 scrub0.stacksOk = 12 ∧
    after (exec (.patrolScrub 4 false 0 .clean) scrub0) (fun t => same scrub0 t) = true ∧
    after (exec (.patrolScrub 4 false 0 .corrected) scrub0) (fun t => t.rf (stackOff 0 8) 0 32 == 1 && t.stores.remaps == [(0, 0, 0, 0, 0)]) = true ∧
    after (exec (.patrolScrub 4 false 0 .uncorrectable) scrub0) (fun t => t.poison == [hbmBase / 64] && t.rf (stackOff 0 0xC) 0 32 == 1) = true := by decide +kernel
theorem test_wc_flush_and_retrain : swf 0 stack0.stores.lanesRepaired = true ∧
    after (exec (.wcFlush 3) { up with wc := [⟨3, [0], 0⟩, ⟨4, [0], 0⟩], clock := { up.clock with now := 1000 } }) (fun t => t.wc.length == 1) = true ∧
    after (exec (.channelRetrain 0 63 2 1) stack0) (fun t => t.rf (stackOff 0 4) 0 3 == 6 && sget 0 t.stores.lanesRepaired 0 == 1 && t.log.recs.length == 1) = true ∧
    after (exec (.channelRetrain 0 63 1 1) stack0) (fun t => t.rf (stackOff 0 4) 0 3 == 3) = true := by decide +kernel

/-- An event receiver is registered. -/
def heard : State := { stack0 with sec := { stack0.sec with evReceiver := some 9 } }
theorem test_throttle : throttle 85 0 85 = 0 ∧ throttle 85 0 86 = 1 ∧ throttle 85 0 88 = 1 ∧ throttle 85 0 89 = 2 ∧ throttle 85 2 87 = 2 ∧ throttle 85 2 86 = 1 ∧
    throttle 85 1 85 = 1 ∧ throttle 85 1 83 = 0 ∧ throttle 85 3 20 = 3 ∧ throttle 85 0 105 = 3 ∧ heard.ready = true ∧ heard.sec.evReceiver.isSome = true ∧
    after (exec (.tempReport 0 86) heard) (fun t => t.sec.replies == [(26, [16#8, 86#8, 0#8, 0#8, 0#8])]) = true ∧
    after (exec (.tempReport 0 105) stack0) (fun t => t.rf (stackOff 0 4) 0 3 == 4 && t.log.recs.length == 2 && t.pow.refreshDouble == [0]) = true := by decide +kernel
/-! ## Reset -/

/-- Level and source of a device held in reset. -/
def heldIn (level source : Nat) (t : State) : Bool := t.rst.phase == .asserted && t.rst.level == level && t.rst.source == source

theorem test_reset_hypotheses : debug0.rst.phase = .ready ∧ debug0.ready = true ∧ debug0.rst.rstLow = false ∧ debug0.granted ≠ 0 ∧
    debug0.rst.clockHeld = false ∧ debug0.reaches .mgmt = true ∧ isPf .mgmt = true ∧ debug0.memOk = true := by decide +kernel
theorem test_power_on : after (exec (.powerOn true) debug0) (heldIn 3 0) = true := by decide +kernel
theorem test_brown_out : after (exec .brownOut3v3 debug0) (heldIn 3 1) = true := by decide +kernel
theorem test_reset_pins : after (exec (.rstL 999) debug0) (fun t => same debug0 t) = true ∧ after (exec (.wrstL 999) debug0) (fun t => same debug0 t) = true := by decide +kernel

/-- The watchdog has run out, for the first time or again. -/
def dog (last : Option Nat) : State :=
  { put up [(0x10010, 1000 + 2 ^ 16)] with rst := { up.rst with wdtLast := last }, clock := { up.clock with now := 20000000000 } }
theorem test_watchdog : (dog none).rf 0x10010 16 1 = 1 ∧ (dog none).rst.wdtStart + 1000000 * 1000 ≤ (dog none).clock.now ∧ (dog none).rst.wdtLast = none ∧
    (dog (some 10000000000)).clock.now ≤ 10000000000 + 10000000000 ∧ 9999999999 + 10000000000 < (dog (some 9999999999)).clock.now := by decide +kernel

/-- A level 2 reset in progress with a debugger's level still granted. -/
def inReset : State := { put up [(0x30004, 1)] with rst := { up.rst with phase := .asserted, level := 2, source := 3 } }
theorem test_absorbed : inReset.rst.phase ≠ .ready ∧ 2 ≤ inReset.rst.level ∧ inReset.reaches .pf = true ∧ inReset.granted ≠ 0 ∧
    after (exec .managementCoreLockup inReset) (fun t => t.regs == inReset.regs && t.log.recs.getLast?.any fun r => r.2.drop 4 == [0xB#32, 1#32, 0#32, 0#32]) = true ∧
    after (exec (.controlCoreLockup 7) inReset) (fun t => t.regs == inReset.regs && t.log.recs.getLast?.any fun r => r.2.drop 4 == [0xA#32, 0#32, 7#32, 0#32]) = true ∧
    inReset.rst.rstLow = false ∧ after (exec (.wrstL 5000) inReset) (fun t => t.regs == inReset.regs && t.log.recs.getLast?.any fun r => r.2.drop 4 == [4#32, 1#32, 0#32, 0#32]) = true ∧
    after (exec (.debugReset .pf 1 7) inReset) (fun t => t.log.recs.getLast?.any fun r => r.2.drop 4 == [8#32, 1#32, 0#32, 0#32]) = true := by decide +kernel

/-- A descriptor that cluster 0 executes. -/
def running0 : State := withI debug0 { desc 2 .started [] with queue := 0x20 }
theorem test_cluster_held : running0.insts.any (clusterWork 0) = true ∧
    after (exec (.controlCoreLockup 0) running0) (fun t => t.rst.clusterInReset == [0] && !t.insts.any (clusterWork 0)) = true ∧
    after (exec (.go .pf 0 0) running0) (fun t => t.rst.clusterInReset == [0] && (t.inst? 0).any fun y => y.status == 0xC) = true ∧
    after (exec (.debugReset .pf 0 0) running0) (fun t => t.rst.clusterInReset == [0]) = true := by decide +kernel
def held0 : State := { sem0 with rst := { up.rst with clusterInReset := [0, 31] }, mem := [(ssmBase 0, 1#8), (ssmBase 1, 2#8)] }
theorem test_cluster_reset : held0.rst.clusterInReset.contains 0 = true ∧
    after (exec (.clusterReset 0) held0) (fun t => t.rst.clusterInReset == [31] && t.semVal 0 3 == 0 && t.mem == [(ssmBase 1, 2#8)]) = true := by decide +kernel

theorem test_reset_release : ({ inReset with rst := { inReset.rst with rstLow := true } } : State).rst.phase = .asserted ∧
    State.mayRelease { inReset with rst := { inReset.rst with rstLow := false, wrstLow := false } } = true ∧
    after (exec .resetRelease { inReset with rst := { inReset.rst with rstLow := true } }) (fun t => t.rst.phase == .released && !t.rst.rstLow) = true := by decide +kernel
theorem test_power_on_release : State.reset.rst.level = 3 ∧ State.reset.rst.phase = .asserted ∧ State.reset.mayRelease = true ∧ State.reset.rst.aodUp = false ∧
    after (exec .powerOnRelease State.reset) (fun t => t.rst.aodUp && t.aodAnswers) = true := by decide +kernel

/-- A cold release that finds nothing wrong. -/
def clean : ColdObs := ⟨[], none, true, [], [], [], []⟩
/-- The state after power-on release, its flash as delivered. -/
def powered : State := { State.reset with rst := { State.reset.rst with aodUp := true } }
/-- No slot holds an image. -/
def blank : State := { powered with sec := { powered.sec with slotA := none } }
theorem test_cold_release_fails : clean.wf = true ∧ powered.mayRelease = true ∧ 2 ≤ powered.rst.level ∧ blank.bootPick = none ∧
    ({ clean with secretsClear := false } : ColdObs).wf = true ∧
    after (exec (.coldRelease { clean with secretsClear := false }) powered) (fun t => t.rst.phase == .failed && t.rst.faultL && t.rf globalStatus 1 1 == 1) = true := by
  decide +kernel
/-- Whether the image as delivered verifies is the standard's to say: where it does, it boots. -/
theorem test_boot_pick (h : Config.ecdsaVerify (Config.standardBytes 20) (Config.sha384 (Config.standardBytes 22)) (Config.standardBytes 21) = true) :
    powered.bootPick = some (Image.factory, false) := by
  have : powered.imageOk Image.factory = true := by
    simp [State.imageOk, powered, State.reset, Stores.reset, Image.factory, h]
  have a : (some Image.factory).filter powered.imageOk = some Image.factory := by simp [Option.filter, this]
  show (match (some Image.factory).filter powered.imageOk, (none : Option Image).filter powered.imageOk with
    | some i, _ => some (i, false) | none, some i => some (i, true) | none, none => none) = _
  rw [a]

/-- A warm reset that has released its pins; its image is Image.factory. -/
def warm : State := { powered with rst := { powered.rst with level := 1, phase := .released, source := 4 }, sec := { powered.sec with running := some Image.factory } }
theorem test_warm_release_hypotheses : warm.rst.level = 1 ∧ warm.rst.phase = .released ∧ warm.mayRelease = true ∧
    ({ warm with sec := { warm.sec with running := none } } : State).sec.running.filter warm.imageOk = none := by
  refine ⟨rfl, rfl, by decide +kernel, rfl⟩
theorem test_warm_release_image (h : Config.ecdsaVerify (Config.standardBytes 20) (Config.sha384 (Config.standardBytes 22)) (Config.standardBytes 21) = true) :
    (warm.sec.running.filter warm.imageOk).isSome = true := by
  have : warm.imageOk Image.factory = true := by simp [State.imageOk, warm, powered, State.reset, Stores.reset, Image.factory, h]
  simp [warm, Option.filter] at *
  simp [this]

/-- Coolant seen, flow 1.59 L/min. -/
def lowFlow : State := { up with pow := { up.pow with coolSeen := true, flow100 := 159, tin := some 20, tout := some 30 } }
theorem test_emergency : lowFlow.rst.phase = .ready ∧ lowFlow.emergencyNow .flow = true ∧ lowFlow.emergencyNow .inlet = false ∧
    after (exec (.emergencyPowerDown .inlet) lowFlow) (fun t => same lowFlow t) = true := by decide +kernel
theorem test_leak : after (exec (.leakL 19999) up) (fun t => same up t) = true ∧
    after (exec .leakLDeassert { up with rst := { up.rst with leakLow := true, leakHeld := true } }) (fun t => !t.rst.leakLow && t.rst.leakHeld) = true := by decide +kernel
theorem test_rails_and_ports : after (exec .p54vRestored { up with rst := { up.rst with rail54 := false } }) (fun t => t.rst.rail54) = true ∧
    after (exec .clockReturn { put up [(stackOff 11 4, 4)] with rst := { up.rst with clockHeld := true } }) (fun t => t.rf (stackOff 11 4) 0 3 == 3 && t.rst.refOk) = true ∧
    after (exec (.perst 0 true) up) (fun t => t.host.perst == [0] && t.host.trained == [] && !t.host.busMaster) = true ∧
    after (exec (.perst 1 false) up) (fun t => t.host.perst == [] && t.host.trained == [0]) = true ∧
    after (exec (.pcieLinkTraining 1 true) up) (fun t => t.host.trained == [0, 1]) = true ∧
    after (exec (.pcieLinkTraining 0 false) up) (fun t => t.host.trained == []) = true := by decide +kernel

/-! ## Power, clocks, management -/

theorem test_coolant : after (exec (.flowCount 16) up) (fun t => t.pow.flow100 == 160 && t.rf 0x2000C 0 12 == 1125 && t.rf 0x20020 0 12 == 160) = true ∧
    after (exec (.thermistorRead (some 41) none) { up with pow := { up.pow with coolSeen := true, flow100 := 320 } })
      (fun t => t.rf 0x20020 16 8 == 41 && t.rf 0x2000C 0 12 == 2150) = true ∧
    after (exec (.thermistorRead none (some 30)) { lowFlow with sec := { lowFlow.sec with evReceiver := some 9 } })
      (fun t => t.rf 0x20020 16 8 == 0 && t.sensor 40 == .failed && t.emergencyNow .inlet && t.sec.replies.contains (26, [40#8, 0#8, 0#8, 0#8, 0#8])) = true ∧
    lowFlow.ready = true ∧ lowFlow.emergencyNow .inlet = false := by decide +kernel

/-- CCLK and issue limit of a state. -/
def clk (c i : Nat) : State := { up with pow := { up.pow with cclk := c, slowIssue := i } }
theorem test_slow_loop : (up.limits.foldl min 2250000) = 2250000 ∧
    after (exec (.slowLoop 2251 0 0 60) (clk 225 0)) (fun t => t.pow.cclk == 200 && t.pow.slowIssue == 0) = true ∧
    after (exec (.slowLoop 2251 0 0 60) (clk 200 2)) (fun t => t.pow.cclk == 200 && t.pow.slowIssue == 2) = true ∧
    after (exec (.slowLoop 2138 0 0 60) (clk 225 0)) (fun t => t.pow.cclk == 225) = true ∧
    after (exec (.slowLoop 2137 0 0 60) (clk 225 1)) (fun t => t.pow.cclk == 225 && t.pow.slowIssue == 0) = true ∧
    after (exec (.slowLoop 2137 0 0 60) (clk 1800 0)) (fun t => t.pow.cclk == 1800) = true ∧
    after (exec (.slowLoop 0 0 0 60) { up with pow := { up.pow with grantNext := some 1200 } }) (fun t => t.rf 0x20008 0 12 == 1200 && t.pow.grantNext.isNone) = true := by
  decide +kernel
/-- The clamp is on; peaks have been low since stamp 0; the time. -/
def clamped (now : Nat) : State := { up with pow := { up.pow with clamp := true, clampBelow := some 0 }, clock := { up.clock with now := now } }
theorem test_fast_clamp : up.pow.clamp = false ∧ up.pow.cclk < 2048 ∧
    after (exec (.fastClamp 2351) up) (fun t => t.pow.clamp && t.rf 0x20018 0 32 == 1 && t.rf 0x20014 11 2 == 1) = true ∧
    after (exec (.fastClamp 2350) up) (fun t => same up t) = true ∧
    after (exec (.clampRelease 2249) (clamped 100000)) (fun t => !t.pow.clamp && t.rf 0x20014 11 2 == 0) = true ∧
    after (exec (.clampRelease 2249) (clamped 99999)) (fun t => t.pow.clamp && t.pow.clampBelow == some 0) = true ∧
    after (exec (.clampRelease 2250) (clamped 100000)) (fun t => t.pow.clamp && t.pow.clampBelow.isNone) = true := by decide +kernel

/-- An idle device at a time, with sleeping units. -/
def idle (now : Nat) (a : List Nat) (d : List Nat) (w : List Nat) : State :=
  { up with pow := { up.pow with asleep := a, deepDies := d, wakes := w }, clock := { up.clock with now := now } }
theorem test_cluster_sleep : (idle 100000 [] [] []).clusterIdle 31 = true ∧ (idle 100000 [] [] []).waitersSlept 31 = true ∧ (idle 100000 [] [] []).ready = true ∧ (idle 100000 [] [] []).activeSince 31 + 100000 ≤ 100000 ∧
    (withI (idle 100000 [] [] []) { desc 2 .queued [] with queue := 0x3F }).insts.any (fun x => clusterQueue 31 x.queue) = true ∧
    after (exec (.clusterSleep 31) (idle 100000 [] [] [])) (fun t => t.pow.asleep == [31]) = true ∧
    after (exec (.clusterSleep 31) (withI (idle 100000 [] [] []) { desc 2 .queued [] with queue := 0x3F })) (fun t => t.pow.asleep == []) = true := by decide +kernel
theorem test_die_sleep : (upto 16 16).all (fun k => (idle 1000000 (upto 16 16) [] []).pow.asleep.contains k) = true ∧
    after (exec (.dieDeep 1) (idle 1000000 (upto 16 16) [] [])) (fun t => t.pow.deepDies == [1]) = true ∧
    1 < up.ioDies ∧ after (exec (.ioDieLight 1) (idle 100000 [] [] [])) (fun t => t.pow.ioLight == [1]) = true ∧
    ((upto 16 16).any fun l => up.linkState l == 1 || up.linkState l == 2) = false ∧ up.host.trained.contains 1 = false ∧
    up.ioBusy 1 = false ∧ after (exec (.ioDieDeep 1) up) (fun t => t.pow.ioDeep == [1]) = true ∧
    (withI up { desc 0xB .started [] with queue := 0xD1 }).ioBusy 1 = true := by decide +kernel
theorem test_wakes : after (exec (.wakeEvent (.lane 0x7F)) (idle 0 [31] [] [])) (fun t => t.pow.asleep == []) = true ∧
    after (exec (.wakeEvent (.lane 0x7F)) (idle 0 [31] [1] [])) (fun t => t.pow.wakes.contains 33 && t.pow.wakes.contains 31) = true ∧
    after (exec (.dieWake 1) (idle 0 [30, 31] [1] [31, 33])) (fun t => t.pow.deepDies == [] && t.pow.asleep == [30] && t.pow.wakes == []) = true := by decide +kernel
/-- A descriptor has slept 1 µs on semaphore 3 of cluster 0. -/
theorem test_waiter_keeps_cluster : (withI (idle 1000 [] [] []) { semD 2 8 with phase := .waiting, wait := some ⟨0, 3, 8, false⟩ }).waitersSlept 0 = false ∧
    (withI (idle 2000 [] [] []) { semD 2 8 with phase := .waiting, wait := some ⟨0, 3, 8, false⟩ }).waitersSlept 0 = true := by decide +kernel
def sleepy : State := { withI (idle 2000 [] [] []) { semD 2 8 with phase := .waiting, wait := some ⟨0, 3, 8, false⟩ } with nextInst := 1 }
theorem test_lend_and_offer : sleepy.insts.any (fun x => x.waits && x.wait.isSome && x.port == 0xEC0 && !x.lends) = true ∧ 0xEC0 < 3824 ∧
    swf 0 sleepy.pow.poolOffers = true ∧
    after (exec (.waiterLend 0xEC0) sleepy) (fun t => t.pow.lent == [0xEC0] && t.insts.all fun x => x.lends) = true ∧
    after (exec (.poolOffer 31) (withI up { desc 2 .queued [] with queue := 0x3F })) (fun t => sget 0 t.pow.poolOffers 31 == 0) = true := by decide +kernel

/-- The time master is LOCKED and a minute has passed; the calendar stands at 5, true time at 3 seconds. -/
def calm (cal : Nat) : State :=
  { put up [(dieOff 0 0x38020, 1)] with clock := { up.clock with now := 60000000000, fab := 3000000000, cal := cal } }
theorem test_calendar : (calm 5).rst.phase = .ready ∧ (calm 5).rf (dieOff 0 0x38020) 0 1 = 1 ∧
    after (exec (.setDateTime 1) (calm 5)) (fun t => t.clock.cal == 32768 && t.clock.calHold == 0 && t.rf 0x10048 0 1 == 1) = true ∧
    after (exec (.setDateTime 1) (calm 40000)) (fun t => t.clock.cal == 40000 && t.clock.calHold == 7232) = true ∧
    after (exec (.setDateTime 1) State.reset) (fun t => t.clock.cal == 0) = true ∧
    after (exec .calendarCorrection (calm 5)) (fun t => t.clock.cal == 98304) = true ∧
    after (exec .calendarCorrection (calm 98305)) (fun t => t.clock.cal == 98305 && t.clock.calHold == 1) = true := by decide +kernel

theorem test_aod : up.aodAnswers = true ∧ State.reset.aodAnswers = false ∧ (List.replicate 32 0#8 : List Byte).length = 32 := by decide +kernel
theorem test_spdm : after (exec .getVersion up) (fun t => t.sec.replies.length == 1) = true ∧ after (exec .getVersion State.reset) (fun t => t.sec.replies.length == 0) = true ∧
    after (exec (.getCertificate 7 0 16) up) (fun t => (t.sec.replies.map Prod.fst) == [0]) = true := by refine ⟨rfl, rfl, rfl⟩
theorem test_sensors : 11 < up.stacks ∧ ({ up with stores := { up.stores with variant := 6 } } : State).stacks ≤ 11 ∧ up.sensor 7 = .measured ∧
    after (exec (.getSensorReading 27) (put up [(stackOff 11 4, 77 * 2 ^ 8)])) (fun t => t.sec.replies == [(20, [0#8, 77#8, 0#8, 0#8, 0#8])]) = true ∧
    after (exec (.getSensorReading 40) lowFlow) (fun t => t.sec.replies == [(20, [0#8, 20#8, 0#8, 0#8, 0#8])]) = true ∧
    after (exec (.getSensorReading 40) { up with pow := { up.pow with thermSeen := true, tin := none } }) (fun t => t.sec.replies == [(20, [3#8])]) = true ∧
    after (exec (.setEventReceiver 255) up) (fun t => t.sec.evReceiver == some 255) = true ∧ after (exec (.endpointId 9) up) (fun t => t.sec.eid == 9) = true := by
  decide +kernel

/-- An update is in progress. -/
def updating : State := { up with sec := { up.sec with update := some [1#8] } }
/-- An update whose fuses accept no key. -/
def refusing : State := { updating with stores := { updating.stores with keyDigests := [] } }
theorem test_update_chunks : up.sec.update = none ∧ up.sec.updateOk = false ∧ updating.sec.update = some [1#8] ∧
    after (exec (.firmwareUpdate true 2 [7#8]) up) (fun t => t.sec.update == some [0#8, 0#8, 7#8] && t.sec.replies == [(24, [0#8])]) = true ∧
    after (exec (.firmwareUpdate true 2 [7#8]) updating) (fun t => t.sec.update == some [1#8] && t.sec.replies == [(24, [1#8])]) = true ∧
    after (exec .activateFirmware { up with sec := { up.sec with updateOk := true } }) (fun t => t.sec.activeB) = true := by decide +kernel
theorem test_update_refused : refusing.imageOk (imageOf [1#8]) = false := rfl
/-- Where the standard's verification accepts a file and a fuse holds its key's digest, the image is good. -/
theorem test_update_accepted (h : Config.ecdsaVerify (Config.imageHeader [1#8]).2.2.1 (Config.sha384 [1#8]) (Config.imageHeader [1#8]).2.2.2 = true) :
    ({ updating with stores := { updating.stores with keyDigests := [Config.sha384 (Config.imageHeader [1#8]).2.2.1] } } : State).imageOk (imageOf [1#8]) = true := by
  simp [State.imageOk, imageOf, updating, up, put, State.setReg, State.reset, Stores.reset, h]
/-- Where the standard's verification accepts, a SUBMIT of a challenged nonce by a key of the fuses passes its checks. -/
def asked : State := put { up with stores := { up.stores with debugDigests := [Config.sha384 (up.regRange 0x30080 97)] } } [(0x30004, 4)]
theorem test_submit_granted (h : Config.ecdsaVerify (asked.regRange 0x30080 97) (Config.sha384 (asked.regRange 0x30040 48 ++ asked.regRange 0x30010 8 ++ leBytes 1 1))
    (asked.regRange 0x30100 96) = true) : asked.submitOk 1 0 = true := by
  have h1 : asked.regRange 0x30080 97 = up.regRange 0x30080 97 := by decide +kernel
  have h2 : asked.rf 0x30004 2 1 = 1 ∧ asked.clock.now < asked.sec.nonceAt + 60000000000 ∧ asked.rf 0x30004 4 4 < 8 := by decide +kernel
  have h3 : asked.stores.debugDigests = [Config.sha384 (up.regRange 0x30080 97)] := rfl
  rw [h1] at h
  simp only [State.submitOk, h2.1, h3, h1]
  simp [h2.2]
  exact h

/-! ## Engines -/

/-- The checks that WorkPlain asks of work, computed. -/
def plainB (s : State) (x : Inst) (w : Work) : Bool :=
  (s.workDenied x w).isNone && !s.workHostDown w && (s.runChunks x [] w.chunks).2.2.isNone &&
  s.jnlRoom x.ctx ((w.allOuts).map fun o => (locOf o.a, o.bs.length)) &&
  (w.allOuts.all fun o => s.isOwn o.a && decide (0x4000000 ≤ locOf o.a) &&
    (granPieces (locOf o.a) o.bs.length).all fun p => (s.regionAt x.ctx p.1).isNone && s.place p.1 != .none) &&
  ((w.chunks ++ [w.fin]).all fun c => (c.ren.all fun g => s.isOwn g.a && !isHost (locOf g.a)) && c.car.all fun k => s.isOwn k.1 && !isHost (locOf k.1))

theorem workPlain_of_plainB {s : State} {x : Inst} {w : Work} (h : plainB s x w = true) : s.WorkPlain x w := by
  simp only [plainB, Bool.and_eq_true, Bool.not_eq_true', List.all_eq_true, Option.isNone_iff_eq_none, decide_eq_true_eq, bne_iff_ne, ne_eq] at h
  obtain ⟨⟨⟨⟨⟨h1, h2⟩, h3⟩, h4⟩, h5⟩, h6⟩ := h
  exact ⟨⟨h1, h2, h3, h4, fun o ho => (h5 o ho).1, fun c hc => ⟨fun g hg => ((h6 c hc).1 g hg).1, fun k hk => ((h6 c hc).2 k hk).1⟩⟩,
    fun o ho => (h5 o ho).2, fun c hc => ⟨fun g hg => ((h6 c hc).1 g hg).2, fun k hk => ((h6 c hc).2 k hk).2⟩⟩

/-- The descriptor has ended with a status and DETAIL. -/
def endedB (t : State) (i status detail : Nat) : Bool := (t.inst? i).any fun y => y.phase == .done && y.status == status && y.detail == detail
/-- The descriptor ended OK and memory is what writing the work's outputs gives. -/
def wroteB (s : State) (x : Inst) (w : Work) (t : State) : Bool :=
  endedB t x.id 0 w.detail && t.mem == w.allOuts.foldl (fun m o => memWrite m (locOf o.a) o.bs) s.mem

/-- HBM starts with the bytes 1 to 4 at offset 0x400. -/
def bytes0 (s : State) : State := { s with mem := [(hbmBase + 0x400, 1#8), (hbmBase + 0x401, 2#8), (hbmBase + 0x402, 3#8), (hbmBase + 0x403, 4#8)] }
def mover (l : List (Nat × Nat)) : Inst := { desc 1 .started l with queue := 0xA8 }
def overlap : Inst := mover [(7, 0x400), (8, 0x100), (9, 0x402), (10, 0x100), (11, 4)]
theorem test_move_overlap : let s := withI (bytes0 act0) overlap
    let x := overlap
    let w : Work := ⟨[(x.a64 7, x.w 11)], s.copyChunks x x.moveCfg (x.a64 7) (x.a64 9) (x.w 11), Chunk.empty, 255, 0, 0⟩
    s.memOk = true ∧ x.phase = .started ∧ x.opcode = 1 ∧ x.moveKind = 0 ∧ x.moveDiac = 0 ∧ x.srcRing = false ∧ x.dstRing = false ∧ s.interjects x = false ∧
    s.regions x.ctx = [] ∧ s.mayAcc x 0 (x.a64 7) (x.w 11) = true ∧ (s.want x [(x.a64 7, x.w 11)]).isNone = true ∧ plainB s x w = true ∧
    after (exec (.move 0) s) (fun t => endedB t 0 0 0 && memRead t.mem (hbmBase + 0x402) 4 == [1#8, 2#8, 3#8, 4#8] && memByte t.mem (hbmBase + 0x401) == 2#8) = true := by
  decide +kernel
theorem test_fence_ends : let s := withI act0 { desc 0xC .started [] with queue := 0xEC }
    after (exec (.fence 0) s) (fun t => endedB t 0 0 0) = true := by decide +kernel
/-- A PLAN of two records: a FENCE and a MOVE that lacks its expert bit's words; its block is at hand. -/
def planned : State :=
  withI act0 { desc 0xE .started [(6, 0x40000000), (8, 2)] with
    queue := 0xEC, block := leBytes 64 (0x0C + 5 * 2 ^ 16) ++ leBytes 64 (2 + 5 * 2 ^ 16) }
theorem test_plan : let s := planned
    let x := (s.inst? 0).getD (desc 0 .done [])
    s.memOk = true ∧ x.phase = .started ∧ x.opcode = 0xE ∧ x.stage = 0 ∧ x.block.length = 64 * x.f 8 0 9 ∧ (∀ ws ∈ x.records, wd ws 0 % 256 ≠ 0x0E) ∧
    after (exec (.plan 0) s) (fun t => t.insts.map Inst.id == [0, 1, 2] && (t.insts.map fun y => wd y.words 0) == [5 * 2 ^ 16 + 0xE, 5 * 2 ^ 16 + 0xC, 5 * 2 ^ 16 + 0x2002] &&
      (t.inst? 0).any fun y => y.stage == 2) = true := by decide +kernel
/-- A DUMP into a buffer that holds no header. -/
def dumping : State := withI sem0 { desc 0xF .started [(7, 0x2000), (8, 0x100), (9, 63)] with queue := 0xEC }
theorem test_dump : let s := dumping
    let x := (s.inst? 0).getD (desc 0 .done [])
    let d := s.dumpBytes (some 5) false 63
    let w : Work := ⟨[], [{ Chunk.empty with outs := outAt (x.a64 7) d.1 }], Chunk.empty, 0, if d.2 then 1 else 0, 0⟩
    x.phase = .started ∧ x.opcode = 0xF ∧ bit (x.w 6) 0 = false ∧ x.job = 5 ∧ s.mayAcc x 1 (x.a64 7) (x.w 9) = true ∧ s.hostUp = true ∧ plainB s x w = true ∧
    after (exec (.dump 0) s) (fun t => wroteB s x w t && d.2) = true := by decide +kernel

/-- An Except that answers a value. -/
def okB {α β : Type} [BEq β] (e : Except α β) (b : β) : Bool := match e with | .ok a => a == b | .error _ => false
/-- Bytes at an HBM offset. -/
def hbm (s : State) (off : Nat) (bs : List Nat) : State :=
  { s with mem := (bs.zipIdx).foldl (fun m b => memWrite m (hbmBase + off + b.2) [BitVec.ofNat 8 b.1]) s.mem }
/-- An HBM offset as a 64-bit address in words `k` and `k + 1`. -/
def at_ (k off : Nat) : List (Nat × Nat) := [(k, off), (k + 1, 0x100)]

/-- An offset in the SSM of cluster 0 as a 64-bit address in words `k` and `k + 1`. -/
def inSsm (k off : Nat) : List (Nat × Nat) := [(k, (ssmBase 0 + off) % 2 ^ 32), (k + 1, (ssmBase 0 + off) / 2 ^ 32)]

/-- A table of four BF16 rows of 16 bytes, all at HBM offset 0x1000; rows 2 and 0 begin with 9 and 7; the list at 0x800
asks for row 2, no row, row 2; the data at 0x2000 begins with 1, 2, 3 in its three rows. -/
def tableAt : List Nat := [hbmBase + 0x1000, 0, 4, 4 + 0xA * 2 ^ 6, 77, 1]
def lexS : State :=
  hbm (hbm (hbm (put act0 [(lexOff 0 4, 0x1001)]) 0x800 [2, 0, 0, 0, 255, 255, 255, 255, 2]) 0x1000 ([7] ++ List.replicate 31 0 ++ [9])) 0x2000
    ([1] ++ List.replicate 15 0 ++ [2] ++ List.replicate 15 0 ++ [3])
def lexD (op : Nat) (l : List (Nat × Nat)) : Inst :=
  { desc 5 .started ([(6, op), (9, 3), (12, 99)] ++ at_ 7 0x800 ++ at_ 10 0x2000 ++ l) with queue := 0x90, slot := tableAt }
def lexWs : List (List Req) := [[⟨0, none, some 2⟩, ⟨1, none, none⟩, ⟨2, none, some 2⟩]]

theorem test_gather : let s := withI lexS (lexD 0 (inSsm 10 0x1000))
    let x := lexD 0 (inSsm 10 0x1000)
    let w := s.gatherWork x lexWs
    s.memOk = true ∧ x.phase = .started ∧ x.opcode = 5 ∧ s.inTurn x = true ∧ x.lexOp = 0 ∧ x.outFmt = 0 ∧ bit (x.w 15) 31 = false ∧ okB (s.lexOpen x true []) lexWs = true ∧
    plainB s x w = true ∧ (s.hotHit x none 2).isNone = true ∧
    after (exec (.gather 0) s) (fun t => wroteB s x w t && memByte t.mem (ssmBase 0 + 0x1000) == 9#8 && memByte t.mem (ssmBase 0 + 0x1010) == 0#8 &&
      memByte t.mem (ssmBase 0 + 0x1020) == 9#8) = true := by decide +kernel
theorem test_scatter_last_wins : let s := withI lexS (lexD 1 [])
    let x := lexD 1 []
    let w := s.scatterWork x lexWs
    x.lexOp = 1 ∧ x.table.scaled = false ∧ okB (s.lexOpen x false x.scatterData) lexWs = true ∧ plainB s x w = true ∧
    after (exec (.scatter 0) s) (fun t => wroteB s x w t && memByte t.mem (hbmBase + 0x1020) == 3#8 && memByte t.mem (hbmBase + 0x1000) == 7#8) = true := by
  decide +kernel
/-- A SCATTER_ADD whose home, device 0 itself, has answered exponent 127. -/
def addD : Inst := { lexD 2 [(6, 2 + 2 ^ 14), (14, 3)] with slot := tableAt ++ [0, 127, 0, 0, 0x3000] }
theorem test_scatter_add : let s := withI lexS addD
    let x := addD
    x.lexOp = 2 ∧ s.hostDown [(x.a64 7, x.idxLen), x.addData] = false ∧
    okB (s.lexOpen x false [x.addData]) lexWs = true ∧ (s.homesReady x (s.addHomes lexWs)).isNone = true ∧
    (s.runPieces x (x.addWork lexWs)).2.2.isNone = true ∧ (s.runPieces x (x.addWork lexWs)).1.length = lexWs.length ∧ x.progress = 0 ∧ x.sigOn = false ∧ bit (x.w 15) 31 = false ∧
    (s.addPkts x lexWs true).length = 2 ∧ (s.sendSome x (s.addPkts x lexWs true) 0).2 = (s.addPkts x lexWs true).length ∧
    after (exec (.scatterAdd 0) s) (fun t => endedB t 0 0 0 && (t.outTo 0).length == 2) = true := by decide +kernel
theorem test_hot_load : let s := withI lexS (lexD 3 [])
    let x := lexD 3 []
    let g := (s.hotFill x lexWs).1
    x.lexOp = 3 ∧ s.hotMine x = true ∧ okB (s.lexOpen x false []) lexWs = true ∧ (s.workDenied x (s.hotWork x lexWs)).isNone = true ∧
    s.workHostDown (s.hotWork x lexWs) = false ∧ plainB g x (s.hotWork x lexWs) = true ∧ g.memOk = true ∧ g.hot.length = 1 ∧
    after (exec (.hotLoad 0) s) (fun t => wroteB g x (s.hotWork x lexWs) t && t.hot == g.hot) = true := by decide +kernel
/-- The directory holds row 2 of slot 0. -/
def hotS : State := { withI lexS (lexD 4 []) with hot := [(0, ⟨0, 2, 1, 0, 0#32, 0⟩)] }
theorem test_hot_invalidate : let s := hotS
    (lexD 4 []).lexOp = 4 ∧ s.hotMine (lexD 4 []) = true ∧ bit ((lexD 4 []).w 6) 16 = false ∧
    after (exec (.hotInvalidate 0) s) (fun t => endedB t 0 0 0 && t.hot.isEmpty) = true ∧
    after (exec (.hotInvalidate 0) (withI (put s [(lexOff 0 12, 2)]) (lexD 4 [(6, 4 + 2 ^ 16)]))) (fun t => endedB t 0 0 0 && t.rf (lexOff 0 12) 0 24 == 0) = true := by
  decide +kernel

/-- A 64-byte operand block from its words. -/
def blockOf (n : Nat) (l : List (Nat × Nat)) : List Byte :=
  (l.foldl (fun ws e => modNth (fun _ => e.2) e.1 ws) (List.replicate (n / 4) 0)).flatMap (leBytes 4)
/-- The descriptor's fields and block meet Begun. -/
def begunB (s : State) (x : Inst) (n : Nat) : Bool := s.inst? x.id == some x && x.phase == .started && s.inTurn x && x.block.length == n

/-- A DISPATCH on BF16 rows at HBM offset 0x1000, tables at offset 0x4000 of cluster 0's SSM, output at 0x8000. -/
def dispD (op e t row cap : Nat) : Inst :=
  { desc 6 .started [(0, 6 + 2 ^ 11 + 5 * 2 ^ 16), (6, op + 1 * 2 ^ 7 + (e - 1) * 2 ^ 11), (9, t), (10, cap), (12, row)] with
    queue := 0xA0, block := blockOf 64 (at_ 0 0x1000 ++ [(2, 10 * 2 ^ 24)] ++ inSsm 3 0x4000 ++ [(5, 50)] ++ inSsm 6 0x8000 ++ [(8, 60 + 10 * 2 ^ 24)]) }
/-- Logits of token 0: 1, 0; of token 1: 0, 2. -/
def routeS : State := withI (hbm act0 0x1000 [0x80, 0x3F, 0, 0, 0, 0, 0, 0x40]) (dispD 0 2 2 0 2)
theorem test_route : let s := routeS
    let x := dispD 0 2 2 0 2
    begunB s x 64 = true ∧ x.opcode = 6 ∧ x.dBlockBad = none ∧ x.dOp = 0 ∧ (s.want x x.routeUse.2).isNone = true ∧ plainB s x (s.routeWork x) = true ∧
    after (exec (.route 0) s) (fun t => wroteB s x (s.routeWork x) t && memRead t.mem (ssmBase 0 + 0x4400) 16 == leBytes 4 0 ++ leBytes 4 0xFFFFFFFF ++ leBytes 4 1 ++ leBytes 4 0xFFFFFFFF &&
      memRead t.mem (ssmBase 0 + 0x4800) 8 == leBytes 4 1 ++ leBytes 4 1) = true := by decide +kernel
/-- One expert with one slot; its row table names row 0. -/
def permS : State := withI (hbm act0 0x1000 [1, 2, 3, 4, 5, 6, 7, 8]) (dispD 1 1 1 4 1)
theorem test_permute : let s := permS
    let x := dispD 1 1 1 4 1
    begunB s x 64 = true ∧ x.dBlockBad = none ∧ x.dOp = 1 ∧ (s.want x [s.combineTab x, s.permuteTab x]).isNone = true ∧
    (s.want x (s.combineTab x :: s.permuteTab x :: s.permuteRows x)).isNone = true ∧ plainB s x (s.permuteWork x) = true ∧
    after (exec (.permute 0) s) (fun t => wroteB s x (s.permuteWork x) t &&
      memRead t.mem (ssmBase 0 + 0x8000) 8 == [1#8, 2#8, 3#8, 4#8, 5#8, 6#8, 7#8, 8#8]) = true := by decide +kernel
/-- One token, one entry: expert 0 slot 0 with weight 2; the expert's row begins with 1. -/
def combS : State :=
  let s := withI (hbm act0 0x1000 [0x80, 0x3F]) (dispD 2 1 1 4 1)
  { s with mem := memWrite s.mem (ssmBase 0 + 0x4000) (leBytes 8 0x4000) }
theorem test_combine : let s := combS
    let x := dispD 2 1 1 4 1
    begunB s x 64 = true ∧ x.dBlockBad = none ∧ x.dOp = 2 ∧ (s.want x [s.combineTab x]).isNone = true ∧
    (s.want x (s.combineTab x :: s.combineRows x)).isNone = true ∧ plainB s x (s.combineWork x) = true ∧
    after (exec (.combine 0) s) (fun t => wroteB s x (s.combineWork x) t && memRead t.mem (ssmBase 0 + 0x8000) 4 == [0#8, 0x40#8, 0#8, 0#8]) = true := by
  decide +kernel

/-- Slots are given in either order, and a full expert turns requests away. -/
theorem test_slots : (assignSlots [some ([0], [1]), some ([0], [1]), none, some ([1], [1])] 1 2 1 1).count = [1, 1] ∧
    (assignSlots [some ([0], [1]), some ([0], [1]), none, some ([1], [1])] 1 2 1 1).demand = [2, 1] ∧
    (∀ p, some p ∈ [some (([0], [1]) : List Nat × List Nat), none, some ([1], [1])] → ∀ i ∈ p.1, i < 2) := by
  refine ⟨by decide +kernel, by decide +kernel, ?_⟩
  intro p hp i hi
  simp at hp
  rcases hp with rfl | rfl <;> simp at hi <;> omega

/-- A stream of BF16 rows of one element in cluster 0's SSM: `n` rows from `base`. -/
def streamWords (base n : Nat) : List Nat := [base + 10 * 2 ^ 24, 2 ^ 24, 0, 0, 1 + 2 ^ 16, n + 2 ^ 16, 2, 2, 2 * n, 0, 0, 0]
/-- A SCAN of two positions; it writes its final state at offset 0x3000. -/
def scanD : Inst :=
  { desc 7 .started [(0, 7 + 2 ^ 11 + 5 * 2 ^ 16), (6, 2 ^ 10), (10, 2), (11, 2), (13, 0x3000)] with
    queue := 0x98, block := (streamWords 0x1000 2 ++ streamWords 0x1400 2 ++ streamWords 0 2 ++ streamWords 0x2000 2).flatMap (leBytes 4) }
/-- Coefficients 1 and 1, inputs 1 and 2. -/
def scanS : State :=
  let s := withI act0 scanD
  { s with mem := memWrite (memWrite s.mem (ssmBase 0 + 0x1000) (leBytes 4 0x3F803F80)) (ssmBase 0 + 0x1400) (leBytes 4 0x40003F80) }
theorem test_scan : let s := scanS
    let x := scanD
    begunB s x 192 = true ∧ x.opcode = 7 ∧ x.scanBad = none ∧ plainB s x (s.scanWork x) = true ∧
    after (exec (.scan 0) s) (fun t => wroteB s x (s.scanWork x) t && memRead t.mem (ssmBase 0 + 0x2000) 4 == leBytes 4 0x40403F80 &&
      memRead t.mem (ssmBase 0 + 0x3000) 8 == leBytes 8 0x4040) = true := by decide +kernel

/-- A past-tense GEMM of one by sixteen by one element in cluster 0, every operand element 1. -/
def gemmD : Inst :=
  { desc 2 .started [(0, 2 + 2 ^ 11 + 5 * 2 ^ 16), (8, 1), (9, 1), (10, 16 + 5 * 2 ^ 22), (12, 4 * 2 ^ 8 + 9 * 2 ^ 12), (14, 0x3F803F80), (15, 1)] with
    queue := 0x20, block := blockOf 64 (inSsm 0 0x1000 ++ [(2, 7 * 2 ^ 24)] ++ inSsm 3 0x1400 ++ [(5, 7 * 2 ^ 24)] ++ inSsm 6 0x2000 ++ [(8, 10 * 2 ^ 24), (11, 10 * 2 ^ 24)]) }
def gemmS : State :=
  let s := withI act0 gemmD
  { s with mem := memWrite (memWrite s.mem (ssmBase 0 + 0x1000) (List.replicate 16 0x38#8)) (ssmBase 0 + 0x1400) (List.replicate 16 0x38#8) }
/-- Its parameters. -/
def gemmG : Gemm := match gemmS.gemmJudge gemmD with
  | .ok g => g
  | .error _ =>
    ⟨0, 0, 0, 0, 0, false, false, false, 0, 0, 0, 0, 0, gemmD.dIn 0 0, gemmD.dIn 0 0, 0, 0, 0, 0, 0, 0, 0, 0, 0, false, 0, 0⟩
theorem test_gemm : let s := gemmS
    let x := gemmD
    begunB s x 64 = true ∧ x.opcode = 2 ∧ okB (s.gemmJudge x) gemmG = true ∧ gemmG.epi = false ∧ s.isStaged x gemmG = false ∧
    (s.prefetchHolds x [gemmG.a.base, gemmG.w.base]).isNone = true ∧ (s.want x gemmG.ranges).isNone = true ∧ s.tilesOf gemmG.cl ≠ [] ∧
    plainB s x (s.gemmWork x gemmG []) = true ∧
    after (exec (.gemm 0 []) s) (fun t => wroteB s x (s.gemmWork x gemmG []) t && memRead t.mem (ssmBase 0 + 0x2000) 2 == [0x80#8, 0x41#8]) = true := by
  decide +kernel

/-- The same as a basic descriptor with its operands in HBM: the firmware stages it. -/
def basicG : Inst :=
  { desc 2 .started [(0, 2 + 5 * 2 ^ 16), (8, 1), (9, 1), (10, 16 + 5 * 2 ^ 22), (14, 0x3F803F80), (15, 1)] with
    queue := 0x20, block := blockOf 64 (at_ 0 0x4000 ++ [(2, 7 * 2 ^ 24)] ++ at_ 3 0x4400 ++ [(5, 7 * 2 ^ 24)] ++ at_ 6 0x4800 ++ [(8, 10 * 2 ^ 24), (11, 10 * 2 ^ 24)]) }
def basicS : State := withI (put act0 [(ctxOff 0 0x200, 0x10000), (ctxOff 0 0x204, 0x100)]) basicG
def basicJ : Gemm := match basicS.gemmJudge basicG with | .ok g => g | .error _ => gemmG
theorem test_gemm_staged : let s := basicS
    let x := basicG
    begunB s x 64 = true ∧ okB (s.gemmJudge x) basicJ = true ∧ basicJ.epi = false ∧ s.isStaged x basicJ = true ∧
    (s.prefetchHolds x [basicJ.a.base, basicJ.w.base]).isNone = true ∧ (s.want x basicJ.ranges).isNone = true ∧ s.tilesOf basicJ.cl ≠ [] ∧
    plainB s x (s.gemmWork x basicJ []) = true := by decide +kernel

/-- A VSTREAM of one instruction that passes a row of one element on. -/
def vsD : Inst :=
  { desc 3 .started [(0, 3 + 2 ^ 11 + 5 * 2 ^ 16), (9, 2 + 2 ^ 4)] with
    queue := 0x40, block := (streamWords 0x1000 1 ++ streamWords 0x2000 1 ++ [1 + 2 ^ 8, 0, 0, 0]).flatMap (leBytes 4) }
def vsS : State := let s := withI act0 vsD; { s with mem := memWrite s.mem (ssmBase 0 + 0x1000) [0x80#8, 0x3F#8] }
theorem test_vstream : let s := vsS
    let x := vsD
    let r := s.runChains (s.vEnv x) x.prog false x.prog.chains []
    x.phase = .started ∧ x.opcode = 3 ∧ x.stage = 0 ∧ x.block.length = x.progLen ∧ x.epilogue = false ∧ s.progBad x x.prog false (!x.expert) false = none ∧ s.progEntry x x.prog = none ∧
    r.halt = none ∧ (r.s.inst? 0).isSome = true ∧
    after (exec (.vstream 0) s) (fun t => endedB t 0 0 0 && memRead t.mem (ssmBase 0 + 0x2000) 2 == [0x80#8, 0x3F#8]) = true := by decide +kernel

/-- A recipe of zeros at HBM offset 0x10000; a QUANT of four FP16 elements into BF16. -/
def quantD : Inst :=
  { desc 4 .started (inSsm 6 0x1000 ++ inSsm 8 0x2000 ++ [(10, 1), (11, 2 ^ 16), (13, 4 + 9 * 2 ^ 20 + 10 * 2 ^ 24)]) with queue := 0x60 }
def quantS : State :=
  let s := withI (put act0 [(ctxOff 0 0x200, 0x10000), (ctxOff 0 0x204, 0x100)]) quantD
  { s with mem := memWrite s.mem (ssmBase 0 + 0x1000) [0#8, 0x3C#8] }
def quantJ : QJob := match quantS.quantJob quantD with
  | .ok j => j
  | .error _ =>
    ⟨⟨[]⟩, mkQCfg 0 ⟨[]⟩ 0 0 0 0 0 0 false 0 0, gemmD.dIn 0 0, 0, 0, 0, 0⟩
theorem test_quant : let s := quantS
    let x := quantD
    x.phase = .started ∧ x.opcode = 4 ∧ okB (s.quantJob x) quantJ = true ∧ (s.prefetchHolds x [quantJ.src.base]).isNone = true ∧ (s.want x quantJ.ranges).isNone = true ∧ plainB s x (s.quantWork x quantJ) = true ∧
    after (exec (.quant 0) s) (fun t => wroteB s x (s.quantWork x quantJ) t && memRead t.mem (ssmBase 0 + 0x2000) 2 == [0x80#8, 0x3F#8]) = true := by
  decide +kernel

/-- The source of the QUANT is a set whose prefetch, descriptor 7, is in flight, or failed with status 4 and DETAIL 1. -/
def fetching (fail : Option (Nat × Nat)) : State :=
  let s := { quantS with insts := [quantD, { desc 1 .queued [] with id := 7 }] }
  s.modCtx 0 fun c => { c with ofl := [⟨9, 1, hbmBase, 7, hbmBase + 2 ^ 19, 1, 64, 1024, some (7, quantJ.src.base), fail⟩] }
theorem test_quant_of_prefetched : quantD.expert = false ∧ okB ((fetching none).quantJob quantD) quantJ = true ∧ okB ((fetching (some (4, 1))).quantJob quantD) quantJ = true ∧
    ((fetching none).inst? 7).isSome = true ∧ after (exec (.quant 0) (fetching none)) (fun t => same (fetching none) t) = true ∧
    after (exec (.quant 0) (fetching (some (4, 1)))) (fun t => endedB t 0 4 1) = true := by decide +kernel

/-- A plain gradient step on one row of sixteen parameters in the SSM: learning rate 1, first gradient 1.75, scale 1. -/
def updD : Inst :=
  { desc 8 .started [(9, 1), (10, 16), (12, 1)] with
    queue := 0x80, block := blockOf 64 (inSsm 0 0x4000 ++ inSsm 3 0x1000 ++ [(5, 10 * 2 ^ 24), (11, 0x3F80), (13, 0x3F800000), (14, 0x3F803F80)]) }
def updS : State := let s := withI act0 updD; { s with mem := memWrite s.mem (ssmBase 0 + 0x1000) [0xE0#8, 0x3F#8] }
theorem test_update : let s := updS
    let x := updD
    begunB s x 64 = true ∧ x.opcode = 8 ∧ okB (s.updEntry x) ⟨[]⟩ = true ∧ s.updBlockBad x ⟨[]⟩ = none ∧ (s.want x (s.updReads x)).isNone = true ∧
    s.updBad x = 0 ∧ plainB s x (s.updWhole x ⟨[]⟩) = true ∧
    after (exec (.update 0) s) (fun t => wroteB s x (s.updWhole x ⟨[]⟩) t && memRead t.mem (ssmBase 0 + 0x4000) 4 == [0xE0#8, 0xBF#8, 0#8, 0#8]) = true := by
  decide +kernel

/-! ## Reductions -/

/-- A REDUCE of job 5, window 3, home device 0: operation, length, operand block, answers held. -/
def redD (op len : Nat) (b : List (Nat × Nat)) (slot : List Nat := []) : Inst :=
  { desc 9 .started [(6, op), (7, 3), (9, 1), (12, len)] with queue := 0x88, block := blockOf 64 b, slot := slot }
/-- Source 1 and 3 as BF16 in cluster 0's SSM at 0x1000. -/
def redS (x : Inst) : State := let s := withI act0 x; { s with mem := memWrite s.mem (ssmBase 0 + 0x1000) [0x80#8, 0x3F#8, 0x40#8, 0x40#8] }
def openD : Inst := redD 0 2 (inSsm 0 0x2000 ++ inSsm 3 0x3000 ++ [(5, 127)] ++ inSsm 6 0x3400)
/-- The window that the OPEN opens. -/
def openW : Window := (redS openD).newWindow openD (List.replicate 16 0)
theorem test_open : let s := redS openD
    let x := openD
    begunB s x 64 = true ∧ x.opcode = 9 ∧ x.redBlockBad = none ∧ x.rOp = 0 ∧ (s.fab.windows.any fun w => w.owner == some x.id) = false ∧
    ([(x.blk64 0, 1, 2 * x.rLen), (x.blk64 3, 0, 64), (x.blk64 3, 1, 64), (x.blk64 6, 1, 64)].all fun r => s.isOwn r.1 && s.mayAcc x r.2.1 r.1 r.2.2) = true := by
  decide +kernel
theorem test_open_runs : let s := redS openD
    let x := openD
    s.win? x.job x.rWid false = none ∧ s.hostUp = true ∧ s.poisonx x (x.blk64 3) 64 = false ∧
    s.newWindow x ((toWords (s.rdx x (x.blk64 3) 64)).map BitVec.toNat) = openW ∧ s.winRoom openW.reserve = true ∧
    s.queriesOk (s.heldFor openW.job openW.wid openW.step) = true ∧ s.shadowRoom openW (s.heldFor openW.job openW.wid openW.step) = true ∧
    after (exec (.openWin 0) s) (fun t => t.win? 5 3 false == some openW && openW.exp == 127) = true := by decide +kernel

def sendD : Inst := redD 1 2 (inSsm 0 0x1000 ++ [(2, 10 * 2 ^ 24)]) [0, 127, 0, 0, 0x2000]
theorem test_send : let s := redS sendD
    let x := sendD
    begunB s x 64 = true ∧ x.redBlockBad = none ∧ x.rOp = 1 ∧ (s.homesReady x [x.rHome]).isNone = true ∧ s.mayAcc x 0 (x.blk64 0) x.sendLen = true ∧
    s.hostDown [(x.blk64 0, x.sendLen)] = false ∧ (s.want x [(x.blk64 0, x.sendLen)]).isNone = true ∧
    (s.sourceBad x (x.sendInput x.sendLen) x.rLg).isNone = true ∧ s.sendElems x = some [(0, 0x3F80), (1, 0x4040)] ∧ x.progress = 0 ∧ x.sigOn = false ∧
    (s.sendSome x (s.sendPkts x (s.sendContrib x [(0, 0x3F80), (1, 0x4040)])) 0).2 = 2 ∧ (s.sendPkts x (s.sendContrib x [(0, 0x3F80), (1, 0x4040)])).length = 2 ∧
    after (exec (.send 0) s) (fun t => endedB t 0 0 0 && (t.outTo 0).head?.any fun b => b.2.2.2.drop 16 == [1#8, 0#8, 3#8, 0#8]) = true := by
  decide +kernel

def verifyD (src : Nat) : Inst := redD 2 2 (inSsm 0 src ++ [(2, 10 * 2 ^ 24)] ++ inSsm 3 0x3400)
theorem test_verify : let s := redS (verifyD 0x1400)
    let x := verifyD 0x1400
    begunB s x 64 = true ∧ x.redBlockBad = none ∧ x.rOp = 2 ∧ s.mayAcc x 0 (x.blk64 3) 64 = true ∧ s.mayAcc x 0 (x.blk64 0) (2 * x.rLen) = true ∧
    s.hostDown x.verifyReads = false ∧ (s.want x x.verifyReads).isNone = true ∧ (s.sourceBad x x.verifyInput x.rLg).isNone = true ∧ s.verifyOk x = true ∧
    after (exec (.verify 0) s) (fun t => endedB t 0 0 0) = true ∧ (redS (verifyD 0x1000)).verifyOk (verifyD 0x1000) = false ∧
    after (exec (.verify 0) (redS (verifyD 0x1000))) (fun t => endedB t 0 5 6) = true := by decide +kernel

def parityD : Inst := redD 3 1 (inSsm 0 0x1000 ++ inSsm 3 0x4000)
theorem test_parity : let s := redS parityD
    let x := parityD
    begunB s x 64 = true ∧ x.redBlockBad = none ∧ x.rOp = 3 ∧ s.mayAcc x 0 (x.blk64 0) 256 = true ∧ s.hostDown [(x.blk64 0, 256)] = false ∧
    (s.want x [(x.blk64 0, 256)]).isNone = true ∧ (s.sourceBad x (x.sendInput 256) x.rLg).isNone = true ∧ x.progress = 0 ∧ x.sigOn = false ∧
    (s.parityPkts x).length = 1 ∧ (s.sendSome x (s.parityPkts x) 0).2 = 1 ∧
    after (exec (.parity 0) s) (fun t => endedB t 0 0 0 && (t.outTo 0).length == 1) = true := by decide +kernel

/-- The window complete with 5 in element 0; the digests agree, or one more has been counted in the sum. -/
def doneW (off : Nat) : Window := { openW with staging := [(0, 5)], digests := 1, elemsGot := 2, elemsSum := 2, digestSum := digestOf 0 0 0 [(0, 5)] + off }
def doneS (off : Nat) : State := let s := redS openD; { s with fab := { s.fab with windows := [doneW off] } }
theorem test_window_complete : let s := doneS 0
    let w := doneW 0
    s.win? 5 3 false = some w ∧ w.isOpen = true ∧ w.complete = true ∧ w.bad = 0 ∧ w.owner = some openD.id ∧ 0x4000000 ≤ w.record ∧ w.record < 2 ^ 48 ∧
    w.dsum (s.seed openD) = w.digestSum ∧ w.sampled = false ∧ plainB s openD ⟨[], [s.winOutput openD w], Chunk.empty, w.lg, 0, 0⟩ = true ∧
    after (exec (.windowComplete 5 3 false) s) (fun t => wroteB s openD ⟨[], [s.winOutput openD w], Chunk.empty, w.lg, 0, 0⟩ t &&
      memRead t.mem (ssmBase 0 + 0x2000) 2 == [0xA0#8, 0x40#8] && (t.win? 5 3 false).any fun v => !v.isOpen && v.staging.isEmpty) = true := by decide +kernel
theorem test_window_disagrees : let s := doneS 1
    (doneW 1).dsum (s.seed openD) ≠ (doneW 1).digestSum ∧
    after (exec (.windowComplete 5 3 false) s) (fun t => endedB t 0 5 1 && (t.win? 5 3 false).any fun v => !v.isOpen) = true := by decide +kernel

/-- A TOPK of two gradients 1 and 3 and no residual that keeps one. -/
def topkD : Inst :=
  { desc 0xA .started [(6, 10 * 2 ^ 3), (9, 2)] with
    queue := 0x88, block := blockOf 64 (inSsm 0 0x1000 ++ [(2, 10 * 2 ^ 24)] ++ inSsm 3 0x2000 ++ inSsm 6 0x3000) }
theorem test_topk : let s := redS topkD
    let x := topkD
    begunB s x 64 = true ∧ x.opcode = 0xA ∧ x.topkBlockBad = none ∧ (s.want x x.topkReads).isNone = true ∧ plainB s x (s.topkWork x) = true ∧
    after (exec (.topk 0) s) (fun t => wroteB s x (s.topkWork x) t && memRead t.mem (ssmBase 0 + 0x3000) 4 == [1#8, 0#8, 0x40#8, 0x40#8] &&
      memRead t.mem (ssmBase 0 + 0x2000) 4 == [0#8, 0x3C#8, 0#8, 0#8]) = true := by decide +kernel

/-! ## Packets -/

/-- The checks of Accepts but the two check values, computed. -/
def fitB (s : State) (p : Packet) : Bool :=
  let f := ((s.flow? p.src).getD ⟨p.src, p.seqFloor, [], 0, none, s.clock.now⟩).slide p.seqFloor
  p.wf && s.ready && p.dst == s.devId && ((s.flow? p.src).isSome || decide (s.fab.recv.length < 16384)) &&
  decide (seqDist p.seq f.rbase < 4096) && !f.got.contains p.seq && !(s.fab.groups.any fun g => g.src == p.src && g.held.any fun h => h.seq == p.seq)

theorem sealPkt_good (p : Packet) : intact (sealPkt p) = true ∧ crcGood (sealPkt p) = true := by
  constructor
  · exact beq_self_eq_true (pktHcrc p)
  · exact beq_self_eq_true (pktCrc { p with hcrc := pktHcrc p })

/-- The checks of Accepts, computed. -/
def acceptsB (s : State) (p : Packet) : Bool := fitB s p && intact p && crcGood p

theorem accepts_of_acceptsB {s : State} {p : Packet} (h : acceptsB s p = true) : s.Accepts p := by
  simp only [acceptsB, fitB, Bool.and_eq_true, Bool.or_eq_true, Bool.not_eq_true', decide_eq_true_eq, beq_iff_eq] at h
  obtain ⟨⟨⟨⟨⟨⟨⟨⟨h1, h2⟩, h3⟩, h6⟩, h7⟩, h8⟩, h9⟩, h4⟩, h5⟩ := h
  exact ⟨h1, h2, h3, h4, h5, h6, ⟨h7, h8⟩, h9⟩

def tookB (t : State) (p : Packet) : Bool := (t.flow? p.src).any fun f => f.got.contains p.seq

/-- A sealed packet of device 1 for job 5 of this device. -/
def pkt (kind : PKind) (addr arg : Nat) (pl : List Byte) : Packet := sealPkt { mkPkt kind 0 5 0 addr arg pl with src := 1, seq := 9 }
/-- Devices 0 and 1 are members of job 5. -/
def peer0 : State := put sem0 [(ctxOff 0 0x94, 3)]
/-- What PeerTransfersReachTheirBytes and its kin ask of every packet. -/
def peerB (s : State) (p : Packet) : Bool := acceptsB s p && p.group == 0 && s.peerCtx p == some 0 && (s.regions 0).isEmpty && s.memOk

theorem test_write : let p := pkt .write (hbmBase + 0x400) 0 [1#8, 2#8, 3#8, 4#8]
    peerB peer0 p = true ∧ p.kind = .write ∧ peer0.peerOk 0 3 p.addr 4 = true ∧
    after (exec (.write p) peer0) (fun t => tookB t p && memRead t.mem p.addr 4 == p.payload) = true := by decide +kernel
theorem test_read_req : let p := pkt .readReq (hbmBase + 0x400) 7 (leBytes 8 0x2000 ++ leBytes 4 4)
    let s := { bytes0 peer0 with insts := [] }
    peerB s p = true ∧ p.kind = .readReq ∧ s.peerOk 0 2 p.addr 4 = true ∧ s.rdPoison (some 0) p.addr 4 = false ∧ s.sendRoom p.src 1 = true ∧
    after (exec (.readReq p) s) (fun t => tookB t p && t.outTo 1 == [(.readRsp, 0x2000, 7, [1#8, 2#8, 3#8, 4#8])]) = true := by decide +kernel
/-- A MOVE that has asked device 1 for four bytes. -/
def asking : Inst := { overlap with asked := [(2 ^ 48 + 0x2000, 4)], awaiting := 4 }
theorem test_read_rsp : let p := pkt .readRsp 0x2000 0 [1#8, 2#8, 3#8, 4#8]
    let s := withI peer0 asking
    peerB s p = true ∧ p.kind = .readRsp ∧ (s.insts.find? fun x => (x.phase == .started || x.phase == .done) && decide (x.id % 2 ^ 32 = p.arg) && x.askedFor (2 ^ 48 + 0x2000) 4) = some asking ∧
    Memory.wf asking.staged = true ∧
    after (exec (.readRsp p) s) (fun t => tookB t p && (t.inst? 0).any fun y => y.awaiting == 0 && memRead y.staged (2 ^ 48 + 0x2000) 4 == p.payload) = true := by
  decide +kernel
theorem test_diac : let p := pkt .diac (hbmBase + 0x400) 77 (leBytes 4 3 ++ leBytes 4 0xABCD)
    peerB peer0 p = true ∧ p.kind = .diac ∧ (diacList p).length = 1 ∧ peer0.peerOk 0 3 p.addr 1024 = true ∧
    after (exec (.diac p) peer0) (fun t => tookB t p && t.diacPhys (hbmBase + 0x400) == 0xABCD#32 && t.diacPhys hbmBase == 0#32) = true := by decide +kernel
def parityP : Packet := pkt .reduce 0 0 (redHead 6 false 3 0 0 0 (hbmBase + 0x400) 0 0 ++ [1#8] ++ List.replicate 255 0#8)
theorem test_parity_packet_good : intact parityP = true ∧ crcGood parityP = true := sealPkt_good _
theorem test_parity_packet : fitB (bytes0 peer0) parityP = true ∧ parityP.group = 0 ∧ (bytes0 peer0).peerCtx parityP = some 0 ∧ parityP.kind = .reduce ∧ (redHeadOf parityP).kind = 6 ∧ parityP.payload.length = 272 ∧
    (redHeadOf parityP).addr = hbmBase + 0x400 ∧ (hbmBase + 0x400) % 256 = 0 ∧ (bytes0 peer0).peerOk 0 3 (hbmBase + 0x400) 256 = true ∧
    (bytes0 peer0).rdPoison (some 0) (hbmBase + 0x400) 256 = false := by decide +kernel

/-! ## Semaphores of peers -/

def semArg (op : Nat) : Nat := 3 + op * 2 ^ 19
theorem test_signal : let p := pkt .signal 0 (semArg 0) (leBytes 4 2)
    peerB peer0 p = true ∧ peer0.peerSemOk p = true ∧ peer0.targetAsleep p = false ∧ p.kind = .signal ∧
    after (exec (.signal p) peer0) (fun t => tookB t p && t.semVal 0 3 == 9) = true := by decide +kernel
/-- The second packet of group 4 closes it: one arrival is counted. -/
def grouped : State := { peer0 with fab := { peer0.fab with groups := [⟨1, 4, 5, 1, none, []⟩] } }
def closing (kind : PKind) : Packet := sealPkt { mkPkt kind 0 5 0 0 (semArg 0) (leBytes 4 2 ++ leBytes 4 1) with src := 1, seq := 9, group := 4 }
theorem test_group_signal : let p := closing .signal
    acceptsB grouped p = true ∧ grouped.peerCtx p = some 0 ∧ grouped.peerSemOk p = true ∧ p.group ≠ 0 ∧
    grouped.group? p.src p.group = some ⟨1, 4, 5, 1, none, []⟩ ∧ leAt p.payload 4 4 = 1 ∧
    after (exec (.signal p) grouped) (fun t => tookB t p && t.semVal 0 3 == 9 && (t.group? 1 4).isNone) = true := by decide +kernel
theorem test_cg_cancel : acceptsB grouped (closing .cgCancel) = true ∧ grouped.peerCtx (closing .cgCancel) = some 0 ∧
    after (exec (.cgCancel (closing .cgCancel)) grouped) (fun t => tookB t (closing .cgCancel) && t.fab.groups.isEmpty) = true := by decide +kernel
def semP (op n : Nat) : Packet := pkt .semOp 0 (semArg op) (leBytes 8 n)
theorem test_sem_op : ([0, 1, 4, 5].all fun op => peerB peer0 (semP op 8) && peer0.peerSemOk (semP op 8) && !peer0.targetAsleep (semP op 8) &&
      bits (semP op 8).arg 19 3 == op) = true ∧
    (peer0.ringOf 0 3).isNone = true ∧ peer0.sendRoom 1 1 = true ∧
    after (exec (.semOp (semP 0 8)) peer0) (fun t => tookB t (semP 0 8) && t.semVal 0 3 == 15) = true ∧
    after (exec (.semOp (semP 1 8)) peer0) (fun t => tookB t (semP 1 8) && t.semVal 0 3 == 0) = true ∧
    after (exec (.semOp (semP 4 8)) peer0) (fun t => tookB t (semP 4 8) && t.semVal 0 3 == 8) = true ∧
    after (exec (.semOp (semP 5 8)) peer0) (fun t => tookB t (semP 5 8) && t.outTo 1 == [(.readRsp, 8, 9, leBytes 4 7)]) = true := by decide +kernel

/-! ## Packets of a window -/

/-- Window 3 of job 5 over two elements at HBM offset 0x2000, open at exponent 127. -/
def hbmW : Window := { openW with dst := hbmBase + 0x2000, ctx := 0 }
def winS : State := { peer0 with fab := { peer0.fab with windows := [hbmW] } }
def redP (kind count off : Nat) (body : List Byte) : Packet := pkt .reduce 0 0 (redHead kind false 3 127 0 count (hbmBase + 0x2000 + off) 0 0 ++ body)
/-- The packet finds the window. -/
def fitsB (p : Packet) : Bool :=
  fitB winS p && p.group == 0 && p.kind == .reduce && winS.peerCtx p == some 0 && winS.win? p.job (redHeadOf p).wid false == some hbmW && hbmW.isOpen &&
  hbmW.step % 65536 == (redHeadOf p).step && hbmW.exp == (redHeadOf p).exp && swf 0 hbmW.staging
/-- The window after a packet. -/
def winAfter (o : Host.Outcome State Fault Refusal) (q : Window → Bool) : Bool := after o fun t => (t.win? 5 3 false).any fun v => v.isOpen && v.len == 2 && q v

theorem test_red_good (kind count off : Nat) (body : List Byte) : intact (redP kind count off body) = true ∧ crcGood (redP kind count off body) = true := sealPkt_good _
theorem test_dense : fitsB (redP 0 2 0 (leBytes 2 5 ++ leBytes 2 0xFFFF)) = true ∧ winS.peerOk 0 3 (hbmBase + 0x2000) 4 = true ∧
    winAfter (exec (.dense (redP 0 2 0 (leBytes 2 5 ++ leBytes 2 0xFFFF))) winS) (fun v => v.elemsGot == 2 && v.staging == [(0, 5), (1, -1)]) = true := by decide +kernel
theorem test_sparse : fitsB (redP 1 1 0 (leBytes 4 (1 + 7 * 65536))) = true ∧ ((sparsePairs (redP 1 1 0 (leBytes 4 (1 + 7 * 65536)))).all fun e => winS.peerOk 0 3 (hbmBase + 0x2000 + 2 * e.1) 2) = true ∧
    winAfter (exec (.sparse (redP 1 1 0 (leBytes 4 (1 + 7 * 65536)))) winS) (fun v => v.elemsGot == 1 && v.staging == [(1, 7)]) = true := by decide +kernel
theorem test_digest : fitsB (redP 2 0 0 (leBytes 8 9 ++ leBytes 4 2 ++ leBytes 4 0x4040)) = true ∧ winS.peerOk 0 3 (hbmBase + 0x2000) 2 = true ∧
    winAfter (exec (.digest (redP 2 0 0 (leBytes 8 9 ++ leBytes 4 2 ++ leBytes 4 0x4040))) winS) (fun v => v.digests == 1 && v.digestSum == 9 && v.elemsSum == 2 && v.amax == 0x4040) = true := by
  decide +kernel
def sumP : Packet := redP 5 0 0 (List.replicate 384 1#8)
theorem test_sumcmp : fitsB sumP = true ∧ (redHeadOf sumP).count = 0 ∧ winS.peerOk 0 3 (hbmBase + 0x2000) 128 = true := by decide +kernel
theorem test_expq : fitsB (redP 3 0 0 []) = true ∧ winS.sendRoom 1 1 = true ∧
    after (exec (.expq (redP 3 0 0 [])) winS) (fun t => tookB t (redP 3 0 0 []) && (t.outTo 1).length == 1) = true ∧
    acceptsB peer0 (redP 3 0 0 []) = true ∧ (peer0.win? 5 3 false).isNone = true ∧
    after (exec (.expq (redP 3 0 0 [])) peer0) (fun t => t.fab.queries.length == 1 && t.outTo 1 == []) = true := by decide +kernel
/-- A SEND that waits for device 1's answer. -/
def askD : Inst := { redD 1 2 (inSsm 0 0x1000 ++ [(2, 10 * 2 ^ 24)]) with queries := [(1, none)] }
theorem test_expr : let s := withI peer0 askD
    let p := redP 4 0 0 (leBytes 4 0)
    acceptsB s p = true ∧ (redHeadOf p).kind = 4 ∧ (redHeadOf p).shadow = false ∧ (redHeadOf p).count = 0 ∧
    (s.insts.find? fun x => x.phase == .started && x.job == p.job && x.winOf == some (redHeadOf p).wid && x.rStep % 65536 == (redHeadOf p).step &&
      x.queries.any fun q => q.1 == p.src && q.2.isNone) = some askD ∧
    after (exec (.expr p) s) (fun t => tookB t p && (t.inst? 0).any fun y => y.queries.isEmpty && y.slot == [1, 127, 0, 0, hbmBase + 0x2000]) = true := by decide +kernel
/-- A home's message opens the shadow entry that contributions then reach (R557, R558; log entry 69). -/
theorem test_shadow : let p := pkt .reduce 0 0 ({ hbmW with len := 200, expect := 2, shadow := true }.shadowPkt.payload)
    acceptsB winS p = true ∧
    after (exec (.expr p) winS) (fun t => tookB t p && (t.win? 5 3 true).any fun w => w.len == 200 && w.expect == 2 && w.home == 1) = true := by
  decide +kernel
theorem test_expq_retry : let s := { withI peer0 { askD with queries := [(1, some 0)] } with clock := { peer0.clock with now := 2000 } }
    s.sendRoom 1 1 = true ∧ after (exec (.expqRetry 0) s) (fun t => (t.outTo 1).length == 1 && (t.inst? 0).any fun y => y.queries == [(1, none)]) = true := by
  decide +kernel

/-! ## Flows -/

/-- A packet of this device to device 1 in its store, numbered 5, that a started MOVE sent. -/
def outP : Packet := sealPkt { mkPkt .write 1 5 0 0x2000 0 [1#8] with src := 0, seq := 5 }
def stored5 (resends : Nat) (busy : Option Nat) : Stored :=
  ⟨sealPkt { mkPkt .write 1 5 0 0x2000 0 [1#8] with src := 0, seq := 5, seqFloor := 5 }, some 0, resends, 0, busy⟩
def flowS (e : Stored) : State :=
  let s := withI peer0 overlap
  { s with fab := { s.fab with send := [⟨1, 6, [e], 0⟩] }, clock := { s.clock with now := 20000 } }
/-- An ACK or NACK of device 1. -/
def reply (kind : PKind) (arg : Nat) (pl : List Byte) : Packet := sealPkt { mkPkt kind 0 0 1 0 arg pl with src := 1 }
def replyB (s : State) (p : Packet) : Bool := p.wf && p.dst == s.devId && s.ready && intact p && crcGood p
/-- Sent again, with one more or no more resend counted. -/
def againB (s : State) (e : Stored) (uses : Nat) (t : State) : Bool :=
  (t.stored? 1 5).any fun g => g.resends == e.resends + uses && g.sentAt == s.clock.now && g.busyAt.isNone && bodyOf g.pkt == bodyOf e.pkt &&
    t.fab.outbox == s.fab.outbox ++ [(s.storeDie e, g.pkt)]
def goneB (s : State) (t : State) : Bool := (t.stored? 1 5).isNone && t.log.next == s.log.next + 1

theorem test_ack : let s := flowS (stored5 0 none)
    replyB s (reply .ack 0 (leBytes 4 6 ++ leBytes 8 0)) = true ∧ replyB s (reply .ack 0 (leBytes 4 5 ++ leBytes 8 2)) = true ∧
    (s.sendFlow 1).stored.all (fun g => g.pkt.dst == 1) = true ∧
    after (exec (.ack (reply .ack 0 (leBytes 4 6 ++ leBytes 8 0))) s) (fun t => (t.sendFlow 1).stored.isEmpty) = true ∧
    after (exec (.ack (reply .ack 0 (leBytes 4 5 ++ leBytes 8 2))) s) (fun t => (t.sendFlow 1).stored.length == 1) = true ∧
    after (exec (.ack (reply .ack 0 (leBytes 4 4 ++ leBytes 8 2))) s) (fun t => (t.sendFlow 1).stored.isEmpty) = true := by decide +kernel
theorem test_nack_hypotheses : let s := flowS (stored5 0 none)
    ([1, 2, 3, 4, 5, 6].all fun r => replyB s (reply .nack r (leBytes 4 5))) = true ∧ leAt (leBytes 4 5) 0 3 = 5 ∧
    s.stored? 1 5 = some (stored5 0 none) ∧ (stored5 0 none).pkt.dst = 1 ∧ (s.sendFlow 1).next ≠ 5 ∧ 0 < s.resendMax := by decide +kernel
theorem test_nack : let s := flowS (stored5 0 none)
    after (exec (.nack (reply .nack 1 (leBytes 4 5))) s) (againB s (stored5 0 none) 1) = true ∧
    after (exec (.nack (reply .nack 2 (leBytes 4 5))) s) (fun t => goneB s t && endedB t 0 0xF 0) = true ∧
    after (exec (.nack (reply .nack 3 (leBytes 4 5))) s) (fun t => (t.stored? 1 5).any fun g => g.busyAt == some 20000) = true ∧
    after (exec (.nack (reply .nack 4 (leBytes 4 5))) s) (fun t => (t.stored? 1 5).any fun g => g.sentAt == 20000) = true ∧
    after (exec (.nack (reply .nack 5 (leBytes 4 5))) s) (fun t => goneB s t && endedB t 0 4 0) = true ∧
    after (exec (.nack (reply .nack 6 (leBytes 4 5))) s) (fun t => goneB s t && endedB t 0 5 7) = true := by decide +kernel
theorem test_resend_timeout : let s := flowS (stored5 0 none)
    (stored5 0 none).sentAt + 1000 * s.tResend = s.clock.now ∧ after (exec (.resendTimeout 1 5) s) (againB s (stored5 0 none) 1) = true := by decide +kernel
theorem test_resend_spent : let s := flowS (stored5 8 none)
    s.stored? 1 5 = some (stored5 8 none) ∧ s.resendMax = 8 ∧ s.managerId ≠ 1 ∧ (stored5 8 none).sentAt + 1000 * s.tResend ≤ s.clock.now ∧
    after (exec (.resendTimeout 1 5) s) (fun t => goneB s t && endedB t 0 7 0 && (t.outTo 0).length == 1) = true := by decide +kernel
/-- The lane's limit register is 0, which acts as 1, and a packet of the lane is not acknowledged: nothing more is sent. -/
theorem test_lane_limit : let s := put (flowS (stored5 0 none)) [(ctxOff 0 0x6A0, 0)]
    s.laneLimit overlap = 1 ∧ s.laneOut overlap = 1 ∧ (s.sendSome overlap [outP] 0).2 = 0 ∧ s.storeRoom (queueDie overlap.queue) outP = true := by decide +kernel
/-- A store that a packet fills. -/
theorem storeRoom_full (s : State) (die : Nat) (p : Packet) (h : 8 * mib ≤ p.payload.length) : s.storeRoom die p = false := by
  unfold State.storeRoom pktBytes
  exact decide_eq_false (by omega)
theorem test_store_full : ∃ p : Packet, (flowS (stored5 0 none)).storeRoom 0 p = false :=
  ⟨{ p0 with payload := List.replicate (8 * mib) 0#8 }, storeRoom_full _ _ _ (Nat.le_of_eq (List.length_replicate).symm)⟩
theorem test_busy_resend : let s := flowS (stored5 3 (some 18000))
    s.stored? 1 5 = some (stored5 3 (some 18000)) ∧ after (exec (.busyResend 1 5) s) (againB s (stored5 3 (some 18000)) 0) = true := by decide +kernel
/-- A receive flow of device 1 at a time. -/
def recvS (unacked now : Nat) : State :=
  { peer0 with fab := { peer0.fab with recv := [⟨1, 0, [0, 1], unacked, none, 0⟩] }, clock := { peer0.clock with now := now } }
theorem test_ack_send : (recvS 2 0).flow? 1 = some ⟨1, 0, [0, 1], 2, none, 0⟩ ∧
    after (exec (.ackSend 1) (recvS 2 0)) (fun t => t.flow? 1 == some ⟨1, 0, [0, 1], 0, none, 0⟩ && t.fab.outbox.length == 1) = true := by decide +kernel
theorem test_flow_eviction : after (exec (.flowEviction 1) (recvS 0 1000000)) (fun t => t.fab.recv.isEmpty) = true ∧
    after (exec (.flowEviction 1) (recvS 0 999999)) (fun t => t.fab.recv.length == 1) = true := by decide +kernel
theorem test_credit_return : let s := { peer0 with fab := { peer0.fab with creditsDue := [(63, 0)], creditsUsed := [(63, 2)] }, clock := { peer0.clock with now := 100000 } }
    swf 0 s.fab.creditsUsed = true ∧ after (exec (.creditReturnTimer 63) s) (fun t => t.fab.creditsDue.isEmpty && sget 0 t.fab.creditsUsed 63 == 1) = true := by
  decide +kernel

/-- A manager message of device 1 to device 0, which is its domain's manager: type and words from word 0. -/
def msg (type : Nat) (ws : List Nat) : Packet := sealPkt { ctrlPkt 0 type ws with src := 1, seq := 9 }
def toldB (s : State) (p : Packet) (type : Nat) (time : Bool) : Bool :=
  acceptsB s p && p.kind == .ctrlMsg && p.arg == type && p.group == 0 && s.ctrlOk p time
theorem told_of_toldB {s : State} {p : Packet} {type : Nat} {time : Bool} (h : toldB s p type time = true) : s.Told p type time := by
  simp only [toldB, Bool.and_eq_true, beq_iff_eq] at h
  exact ⟨accepts_of_acceptsB h.1.1.1.1, h.1.1.1.2, h.1.1.2, h.1.2, h.2⟩
theorem test_firmware_messages : toldB peer0 (msg 0x11 [5, 1, 5]) 0x11 false = true ∧ toldB peer0 (msg 0x10 [0, 2, 1]) 0x10 false = true ∧
    after (exec (.peerUnreachable (msg 0x11 [5, 1, 5])) peer0) (fun t => tookB t (msg 0x11 [5, 1, 5]) && t.mgr.fwInbox == [msg 0x11 [5, 1, 5]]) = true ∧
    after (exec (.linkState (msg 0x10 [0, 2, 1])) peer0) (fun t => tookB t (msg 0x10 [0, 2, 1]) && t.mgr.fwInbox == [msg 0x10 [0, 2, 1]]) = true := by decide +kernel

/-! ## Switch and links -/

/-- Link 2 is UP with device 1 at its far end; device 1's route leads there; a packet for it waits at die 0. -/
def netS : State :=
  let s := put peer0 [(linkOff 2 4, 2 + 2 ^ 16), (linkOff 2 0, 1), (dieOff 0 0x38000, 2), (dieOff 0 (0x30000 + 4 * 1025), 2 ^ 31 + 1)]
  { s with fab := { s.fab with outbox := [(0, outP)], admitted := true } }
theorem test_packet_forward : outP.wf = true ∧ netS.fab.outbox.contains (0, outP) = true ∧ netS.mayInject = true ∧ netS.bufRoom 0 outP = true ∧ netS.hop 0 true outP = .link 2 ∧ netS.linkState 2 = 2 ∧
    after (exec (.packetForward 0 none outP) netS) (fun t => t.fab.outbox.isEmpty && t.fab.buf == [⟨0, some 2, netS.clock.now, outP⟩]) = true := by decide +kernel
/-- Packets that arrive on link 2: one for this device, and one for device 1 with its last hop. -/
def inP : Packet := sealPkt { mkPkt .write 0 5 0 0x2000 0 [1#8] with src := 1 }
def lastHop : Packet := { outP with hopLimit := 1 }
theorem test_packet_arrives : intact inP = true ∧ inP.dst = netS.devId ∧ intact lastHop = true ∧ netS.hop 0 false lastHop = .link 2 ∧
    after (exec (.packetForward 0 (some 2) inP) netS) (fun t => t.fab.buf == [⟨0, none, netS.clock.now, inP⟩]) = true ∧
    after (exec (.packetForward 0 (some 2) lastHop) netS) (fun t => t.fab.hopExpired == 1 && t.fab.buf.isEmpty) = true := by decide +kernel
theorem test_packet_age : let s := { netS with fab := { netS.fab with buf := [⟨0, none, 0, inP⟩] }, clock := { netS.clock with now := 2000 } }
    after (exec (.packetAgeExpiry 0) s) (fun t => t.fab.buf.isEmpty && t.fab.pktAged == 1) = true := by decide +kernel
/-- Link 3 in a state, its failures counted. -/
def linkS (st fails uncorr : Nat) : State := let s := put peer0 [(linkOff 3 4, st), (linkOff 3 0, 1)]; { s with fab := { s.fab with links := [(3, ⟨fails, uncorr, 0⟩)] } }
theorem test_link_training : 3 / 16 < (linkS 0 0 0).ioDies ∧ (linkS 0 0 0).linkState 3 = 0 ∧ (linkS 0 0 0).rf (linkOff 3 0) 0 1 = 1 ∧
    after (exec (.linkTrainingStart 3) (linkS 0 0 0)) (fun t => t.linkState 3 == 1) = true ∧
    after (exec (.linkTrainingEnd 3 true 7 65) (linkS 1 0 0)) (fun t => t.linkState 3 == 2 && t.peerDev 3 == 65 && t.rf (linkOff 3 4) 8 8 == 7) = true ∧
    after (exec (.linkTrainingEnd 3 false 7 65) (linkS 1 1 0)) (fun t => t.linkState 3 == 0 && (t.linkFails 3).fails == 2) = true ∧
    after (exec (.linkTrainingEnd 3 false 7 65) (linkS 1 2 0)) (fun t => t.linkState 3 == 3 && t.log.next == 2) = true := by decide +kernel
theorem test_link_fails : (linkS 2 0 60).linkState 3 = 2 ∧ (linkS 2 0 60).clock.now < ((linkS 2 0 60).linkFails 3).since + 1000000 ∧
    after (exec (.linkFailed 3 5) (linkS 2 0 60)) (fun t => t.linkState 3 == 3 && t.log.next == 2) = true ∧
    after (exec (.linkFailed 3 4) (linkS 2 0 60)) (fun t => t.linkState 3 == 2) = true ∧
    after (exec (.linkSignalLoss 3) (linkS 2 0 0)) (fun t => t.linkState 3 == 0) = true := by decide +kernel
theorem test_retrain_and_enable : (linkS 3 3 0).reaches .mgmt = true ∧ isPf .mgmt = true ∧
    after (exec (.retrain .mgmt 3) (linkS 3 3 0)) (fun t => t.linkState 3 == 1 && (t.linkFails 3).fails == 0) = true ∧
    after (exec (.retrain .pf 3) (linkS 2 0 0)) (fun t => t.linkState 3 == 1) = true ∧
    after (exec (.linkEnable .pf 3 true) (linkS 0 0 0)) (fun t => t.linkState 3 == 1 && t.rf (linkOff 3 0) 0 1 == 1) = true ∧
    after (exec (.linkEnable .pf 3 false) (linkS 2 0 0)) (fun t => t.linkState 3 == 0 && t.rf (linkOff 3 0) 0 1 == 0) = true := by decide +kernel

/-! ## The domain -/

/-- Device 1, a worker of manager 0. -/
def worker : State := put up [(dieOff 0 0x38008, 1)]
/-- Device 0 with member 1: admitted, heard at 0, suspect since. -/
def mgrS (sus : Option Nat) (now : Nat) : State :=
  { peer0 with mgr := { peer0.mgr with members := [⟨1, true, 0, sus, false, 0, 1000⟩] }, clock := { peer0.clock with now := now } }
/-- A message whose type code the spec leaves open. -/
def openMsg (k src dst : Nat) (ws : List Nat) : Packet := sealPkt { ctrlPkt dst (ctrlType k) ws with src := src, seq := 9 }
/-- The same packet with another type code. -/
def asMsg (src dst : Nat) (ws : List Nat) : Packet := { ctrlPkt dst 0x10 ws with src := src, seq := 9 }
def openB (s : State) (src dst : Nat) (ws : List Nat) (time : Bool) : Bool := fitB s (asMsg src dst ws) && s.ctrlOk (asMsg src dst ws) time

theorem told_of_openB {s : State} {k src dst : Nat} {ws : List Nat} {time : Bool} (h : openB s src dst ws time = true) :
    s.Told (openMsg k src dst ws) (ctrlType k) time := by
  have ht : ctrlType k < 2 ^ 32 := by
    unfold ctrlType
    have := Nat.mod_lt (Config.ctrlCode k) (show 2 ^ 28 > 0 by decide)
    have := Nat.mod_lt k (show 8 > 0 by decide)
    omega
  simp only [openB, fitB, Bool.and_eq_true, Bool.or_eq_true, Bool.not_eq_true', decide_eq_true_eq, beq_iff_eq] at h
  obtain ⟨⟨⟨⟨⟨⟨⟨h1, h2⟩, h3⟩, h6⟩, h7⟩, h8⟩, h9⟩, hs⟩ := h
  have hw : (openMsg k src dst ws).wf = true := by
    have h := Bool.and_eq_true_iff.mp h1
    obtain ⟨a, b, c, d, e, f, g, i, j, k', _, l, m⟩ := of_decide_eq_true h.1
    exact Bool.and_eq_true_iff.mpr ⟨decide_eq_true ⟨a, b, c, d, e, f, g, i, j, k', ht, l, m⟩, h.2⟩
  exact ⟨⟨hw, h2, h3, (sealPkt_good _).1, (sealPkt_good _).2, h6, ⟨h7, h8⟩, h9⟩, rfl, rfl, rfl, hs⟩

theorem test_join : worker.ready = true ∧ worker.isManager = false ∧ worker.fab.admitted = false ∧ worker.fab.joinAt = 0 ∧
    after (exec .join worker) (fun t => t.fab.joinAt == 1) = true := by decide +kernel
theorem test_join_received : openB peer0 1 0 [0, 1] false = true ∧ peer0.isManager = true ∧ peer0.inUse 1 = false ∧ (mgrS none 0).inUse 1 = true ∧
    openB (mgrS none 0) 1 0 [0, 1] false = true := by decide +kernel
theorem test_admit : openB worker 0 1 [0, 1] false = true ∧ seqDist (asMsg 0 1 [0, 1]).seq (asMsg 0 1 [0, 1]).seqFloor < 4096 ∧ pktWord (asMsg 0 1 [0, 1]) 1 % 65536 = worker.devId ∧ ((List.range 16).all fun n => worker.jobState n != 4) = true := by
  decide +kernel
def beating : State := { worker with fab := { worker.fab with admitted := true } }
theorem test_heartbeat_send : beating.ready = true ∧ beating.isManager = false ∧ beating.fab.admitted = true ∧ beating.fab.beatAt = 0 ∧
    after (exec .heartbeatSend beating) (fun t => t.fab.beatAt == 1) = true ∧
    (mgrS none 0).ready = true ∧ (mgrS none 0).serving = [⟨1, true, 0, none, false, 0, 1000⟩] ∧ (mgrS none 0).mgr.jobs = [] := by decide +kernel
theorem test_heartbeat : openB (mgrS none 5) 1 0 [0, 77] false = true ∧ ((mgrS none 5).member? 1).isSome = true ∧ openB beating 0 1 [0, 1200] false = true := by
  decide +kernel
theorem test_member_suspect : (mgrS none 3000000).isManager = true ∧ (mgrS none 3000000).member? 1 = some ⟨1, true, 0, none, false, 0, 1000⟩ ∧
    after (exec (.memberSuspect 1) (mgrS none 3000000)) (fun t => (t.member? 1).any fun k => k.suspectAt == some 3000000) = true := by decide +kernel
/-- A worker that has not heard its manager for three milliseconds. -/
def unheard : State := { put beating [(ctxOff 2 4, 2)] with clock := { beating.clock with now := 3000000 } }
theorem test_manager_lost : unheard.isManager = false ∧ unheard.fab.mgrLost = false ∧ unheard.fab.mgrHeard + 3000000 ≤ unheard.clock.now ∧ unheard.running 2 = true ∧
    after (exec .managerLost unheard) (fun t => t.fab.mgrLost) = true := by decide +kernel
theorem test_grace : (mgrS (some 0) 60000000).rf (dieOff 0 0x38024) 0 10 = 60 ∧
    after (exec (.tGrace 1) (mgrS (some 0) 60000000)) (fun t => (t.member? 1).any fun k => k.lost) = true := by decide +kernel
/-- A worker whose time request left at fabric time 1000; it is 1200 now. -/
def timing (set : Bool) : State := { worker with clock := { worker.clock with fab := 1200, fabSet := set, reqT1 := some 1000 } }
theorem test_time_exchange : worker.timeMaster = false ∧ worker.fab.timeAt = 0 ∧
    after (exec .timeExchange { worker with clock := { worker.clock with fab := 1000 } }) (fun t => t.clock.reqT1 == some 1000) = true ∧
    openB peer0 1 0 [0, 1000, 0] true = true := by decide +kernel
theorem test_time_rsp : openB (timing true) 0 1 [0, 1000, 0, 1150, 0, 1150, 0] true = true ∧ (timing true).clock.reqT1 = some (pktPair (asMsg 0 1 [0, 1000, 0, 1150, 0, 1150, 0]) 1) ∧
    openB (timing false) 0 1 [0, 1000, 0, 90000, 0, 90000, 0] true = true := by decide +kernel
def ppsS (fab : Nat) : State := { peer0 with clock := { peer0.clock with fab := fab } }
theorem test_pps : after (exec .ppsIn (ppsS 3001000000)) (fun t => t.clock.slew == -1000000 && t.rf (dieOff 0 0x38020) 2 1 == 1) = true ∧
    after (exec .ppsIn (ppsS 2999000000)) (fun t => t.clock.slew == 1000000 && t.rf (dieOff 0 0x38020) 2 1 == 1) = true ∧
    after (exec .ppsIn (ppsS 3001000001)) (fun t => t.clock.slew == 0 && t.rf (dieOff 0 0x38020) 2 1 == 0) = true ∧
    after (exec .ppsOut (put (ppsS 3099999999) [(dieOff 0 0x38020, 1)])) (fun t => t.rst.ppsOut) = true ∧
    after (exec .ppsOut (put (ppsS 3100000000) [(dieOff 0 0x38020, 1)])) (fun t => !t.rst.ppsOut) = true := by decide +kernel

/-! ## A manager's decisions -/

/-- Device 1 alone runs job 5; a recovery may wait for it. -/
def jobS (wait : List Nat) (rec : Bool) : State :=
  { mgrS none 0 with mgr := { (mgrS none 0).mgr with ranks := [(1, 5, [])], jobs := if wait.isEmpty then [] else [⟨5, [], [], 0, 0, rec, 0, wait⟩] } }
theorem test_step_done : let p := msg 0x20 [5, 1, 1, 1, 0, 0, 0, 0, 0]
    let s := jobS [] false
    toldB s p 0x20 false = true ∧ s.isManager = true ∧ pktWord p 0 % 4096 = 5 ∧ s.jobDevs 5 = [1] ∧ (s.mgrJob 5).recovering = false ∧ (s.mgrJob 5).stepDone = [] ∧
    pktWord p 1 = s.jobFs 5 + 1 ∧ bit (pktWord p 2) 0 = true ∧ s.jobParity 5 = false ∧
    after (exec (.stepDone p) s) (fun t => tookB t p && (t.mgrJob 5).fsStep == 1 && (t.outTo 1).map (fun b => b.2.2.1) == [0x21]) = true := by decide +kernel
theorem test_deltas_done : let p := msg 0x23 [5, 3]
    let s := jobS [] false
    toldB s p 0x23 false = true ∧ (s.mgrJob 5).deltasDone = [] ∧
    after (exec (.deltasDone p) s) (fun t => tookB t p && (t.mgrJob 5).psNext == 4 && (t.outTo 1).map (fun b => b.2.2.1) == [0x24]) = true := by decide +kernel
theorem test_warm_notice : let p := msg 0x27 [0, 3]
    let s := jobS [] false
    toldB s p 0x27 false = true ∧ (s.mgr.ranks.filter fun r => r.1 == 1) = [(1, 5, [])] ∧ (s.mgrJob 5).waitRejoin.contains 1 = false ∧
    after (exec (.warmNotice p) s) (fun t => tookB t p && (t.mgrJob 5).recovering && (t.mgrJob 5).waitRejoin == [1]) = true := by decide +kernel
theorem test_rejoin : let p := msg 0x28 [5, 0, 1]
    let s := jobS [1] true
    toldB s p 0x28 false = true ∧ bit (pktWord p 2) 0 = true ∧ (s.mgrJob 5).waitRejoin.contains 1 = true ∧ (s.member? 1).isSome = true ∧
    after (exec (.rejoin p) s) (fun t => tookB t p && (t.mgrJob 5).waitRejoin == []) = true := by decide +kernel
theorem test_rank_record : openB (mgrS none 0) 1 0 [5, 0, 7, 8] false = true ∧ ((mgrS none 0).mgrJob 5).waitRejoin = [] ∧
    ((mgrS none 0).mgr.ranks.any fun r => r.1 == 1 && r.2.1 == 5) = false := by decide +kernel

/-! ## Steps -/

/-- A STEP of context 0 that closes step 1, at a stage. -/
def stepD (stage : Nat) : Inst := { desc 0xD .started [(6, 1)] with queue := 0xEC, stage := stage }
def stepS (stage : Nat) : State := withI peer0 (stepD stage)
theorem test_step_begins : (stepS 0).sized = true ∧ (stepS 0).stepAt 0 0 = some (stepD 0) ∧
    after (exec (.stepDesc 0) (stepS 0)) (fun t => (t.inst? 0).any fun y => y.stage == 1) = true := by decide +kernel
theorem test_step_closes : (stepS 1).stepAt 0 1 = some (stepD 1) ∧ (stepS 1).insts.any (stepWaits (stepD 1)) = false ∧ (stepS 1).parityReady 0 1 = true ∧ (stepS 1).running 0 = true ∧
    after (exec (.stepClose 0) (stepS 1)) (fun t => (t.inst? 0).any (fun y => y.stage == 2) && (t.outTo 0).map (fun b => b.2.2.1) == [0x20]) = true := by decide +kernel
theorem test_full_stop : let p := msg 0x21 [5, 1, 0]
    let s := stepS 2
    toldB s p 0x21 false = true ∧ s.ctxsOf (pktWord p 0 % 4096) = [0] ∧ s.stepOf 0 2 = some (stepD 2) ∧ (stepD 2).w 6 = pktWord p 1 ∧ s.parityEn 0 = false ∧ bit (pktWord p 2) 0 = false ∧
    after (exec (.fullStop p) s) (fun t => tookB t p && t.fsStep 0 == 1 && endedB t 0 0 0 && t.log.next == 2) = true := by decide +kernel
def recS : State := put peer0 [(ctxOff 0 4, 4)]
/-- A step closed with a bad granule in region 0, whose copy in the base bank then starts with bytes 1 to 4. -/
def badS : State :=
  (bytes0 (put peer0 [(ctxOff 0 0x904, 0x100), (ctxOff 0 0x908, 1), (ctxOff 0 0x90C, 1), (ctxOff 0 0x918, 4)])).modCtx 0 fun c => { c with lastBad := hbmBase + 0x400 }
theorem test_rollback_repairs : let p := msg 0x22 [5, 0, 3, 0xFFFF]
    toldB badS p 0x22 false = true ∧ badS.memOk = true ∧ badS.sized = true ∧ pktWord p 2 % 4 = 3 ∧ badS.running 0 = true ∧ badS.retained 0 (pktWord p 1) = true ∧ badS.parityEn 0 = false ∧
    ((badS.stateRegions 0).map fun g => (g.base, g.size)) = [(hbmBase, 2 ^ 20)] ∧
    ((badS.beginRepair 0 0).ctx 0).repair.any (fun r => r.1 == hbmBase + 0x400) = true ∧ (badS.beginRepair 0 0).mem.isEmpty = true := by decide +kernel
theorem test_resume_copies : let p := msg 0x25 [5, 0, 1]
    let s := (bytes0 recS).modCtx 0 fun c => { c with repair := some (hbmBase + 0x400, [hbmBase + 0x800]) }
    toldB s p 0x25 false = true ∧ s.memOk = true ∧ s.jobState 0 = 4 ∧ (s.ctx 0).repair = some (hbmBase + 0x400, [hbmBase + 0x800]) ∧
    [hbmBase + 0x400, hbmBase + 0x800].Nodup ∧
    after (exec (.resume p) s) (fun t => t.jobState 0 == 2 && memRead t.mem (hbmBase + 0x800) 4 == [1#8, 2#8, 3#8, 4#8] && (t.ctx 0).repair.isNone) = true := by decide +kernel
theorem test_rollback : let p := msg 0x22 [5, 0, 2, 0xFFFF]
    let s := stepS 1
    toldB s p 0x22 false = true ∧ s.running 0 = true ∧ s.retained 0 (pktWord p 1) = true ∧
    after (exec (.rollback p) s) (fun t => tookB t p && t.jobState 0 == 4 && endedB t 0 0xE 0 && t.log.next == 2) = true := by decide +kernel
def parS : State := put peer0 [(ctxOff 0 0x800, 0x100)]
theorem test_parity_stop : let p := msg 0x24 [5, 1]
    toldB parS p 0x24 false = true ∧ parS.parityEn 0 = true ∧ pktWord p 1 = parS.psStep 0 + 1 ∧ (parS.ctx 0).waitParity = none ∧ parS.stepOf 0 3 = none ∧
    after (exec (.parityStop p) parS) (fun t => tookB t p && t.psStep 0 == 1) = true := by decide +kernel
theorem test_resume : let p := msg 0x25 [5, 0, 1]
    toldB recS p 0x25 false = true ∧ recS.ctxsOf 5 = [0] ∧ recS.jobState 0 = 4 ∧
    after (exec (.resume p) recS) (fun t => tookB t p && t.jobState 0 == 2 && t.log.next == 2) = true := by decide +kernel
theorem test_rank_table : let p := msg 0x26 [5, 7, 0x10000]
    toldB peer0 p 0x26 false = true ∧ (peer0.ctx 0).lostDev = none ∧
    after (exec (.rankTable p) peer0) (fun t => tookB t p && (t.ctx 0).rankVersion == 7 && (t.ctx 0).ranks.take 2 == [0, 1]) = true := by decide +kernel
/-- 50 ms of waiting, where the detector only reports, or faults. -/
def waitS (act : Nat) : State := (put peer0 [(ctxOff 0 0x304, act * 65536)]).modCtx 0 fun c => { c with runOn := 1250000 }
theorem test_run_on : (waitS 0).running 0 = true ∧ ((waitS 0).ctx 0).runOnFired = false ∧ 25000 * (waitS 0).tRunOn 0 ≤ ((waitS 0).ctx 0).runOn ∧ (waitS 0).jr64 0 0x310 = 0 ∧
    after (exec (.runOnFire 0) (waitS 0)) (fun t => t.rf (ctxOff 0 0x308) 0 1 == 1 && t.log.next == 2 && t.jobState 0 == 2) = true ∧
    after (exec (.runOnFire 0) (waitS 1)) (fun t => t.jobState 0 == 5 && t.log.next == 2) = true := by decide +kernel

/-! ## RECOVER -/

def recD (l : List (Nat × Nat)) : Inst := { desc 0x10 .started l with queue := 0xEC }
/-- Eight ranks in two groups of four; device 0 has rank 0; one share. -/
def rankS (x : Inst) : State := (withI (put peer0 [(ctxOff 0 0x800, 0x100)]) x).modCtx 0 fun c => { c with ranks := List.range 8 }
theorem test_parity_init : let s := rankS (recD [])
    s.memOk = true ∧ (recD []).recOp = 0 ∧ (recD []).sq < 1024 ∧ s.parityBad 0 = false ∧
    (s.sendSome (recD []) ((s.imageLines 0 (s.fsStep 0)).flatMap (s.deltaPkts 0)) 0).2 = ((s.imageLines 0 (s.fsStep 0)).flatMap (s.deltaPkts 0)).length ∧
    after (exec (.parityInit 0) s) (fun t => endedB t 0 0 0) = true ∧
    after (exec (.parityInit 0) (withI peer0 (recD []))) (fun t => endedB t 0 8 6) = true := by decide +kernel
/-- A delta of rank 0 goes to rank 4, the first holder of its group, into its PARITY region. -/
theorem test_delta_packets : ((rankS (recD [])).deltaPkts 0 (0, [1#8])).map (fun p => (p.dst, (redHeadOf p).kind, (redHeadOf p).addr)) = [(4, 6, 0)] := by
  decide +kernel
def drainD : Inst := recD ([(6, 1)] ++ inSsm 8 0x1000)
theorem test_drain : let s := withI peer0 drainD
    let w := s.drainWork drainD
    drainD.recOp = 1 ∧ plainB s drainD w = true ∧
    after (exec (.drain 0) s) (fun t => wroteB s drainD w t && memRead t.mem (ssmBase 0 + 0x1000) 8 == leBytes 4 1 ++ leBytes 4 5) = true := by decide +kernel
/-- An image of no region, whose header begins with 1; whether its check passes is open. -/
def restD : Inst := recD ([(6, 2), (7, 3)] ++ at_ 8 0x400)
def restS (v : Nat) : State := hbm (withI act0 restD) 0x400 [v]
theorem test_restore_hypotheses : let s := restS 1
    restD.recOp = 2 ∧ s.mayAcc restD 0 (restD.a64 8) 4096 = true ∧ s.hostDown [(restD.a64 8, 4096)] = false ∧ (s.want restD [(restD.a64 8, 4096)]).isNone = true ∧
    s.poisonx restD (restD.a64 8) 4096 = false ∧ leAt (s.rdx restD (restD.a64 8) 4096) 0 4 = 1 ∧ s.restoreParts restD = [] ∧ (s.want restD []).isNone = true := by
  decide +kernel
theorem test_restore_header : after (exec (.restore 0) (restS 2)) (fun t => endedB t 0 8 8) = true := by decide +kernel
theorem test_rebuild_sender : let x := recD [(6, 3), (11, 5 * 2 ^ 16)]
    let s := rankS x
    let pk := s.rebuildPkts 0 (x.slot.headD 0) (x.f 11 16 16)
    x.recOp = 3 ∧ x.f 11 16 16 ≠ s.devId ∧ (s.sendSome x pk 0).2 = pk.length ∧ after (exec (.rebuild 0) s) (fun t => endedB t 0 0 0) = true := by decide +kernel
/-- Device 0 is the target; its region 0, of 1 MiB at HBM offset 0, belongs to the image. -/
def targetS : State := bytes0 (put (withI peer0 (recD [(6, 3)])) [(ctxOff 0 0x904, 0x100), (ctxOff 0 0x908, 1), (ctxOff 0 0x90C, 1), (ctxOff 0 0x918, 4)])
theorem test_rebuild_target : let s := targetS
    (recD [(6, 3)]).f 11 16 16 = s.devId ∧ (s.imgRegions 0).map (fun g => (g.base, g.size)) = [(hbmBase, 2 ^ 20)] ∧
    after (exec (.rebuild 0) s) (fun t => (t.inst? 0).any (fun y => y.stage == 1) && t.mem.isEmpty) = true := by decide +kernel

/-- One byte changed in a granule of zeros. -/
theorem test_delta_lengths : (List.replicate 1024 0#8 : List Byte).length = 1024 ∧ 4 + ([7#8] : List Byte).length ≤ 1024 := by decide +kernel
/-- Both members 1 and 3 of a group of four are lost, and either alone without P. -/
theorem test_rebuild_coefs : (rebuildCoefs 1 [1, 3] true).isSome = true ∧ (rebuildCoefs 3 [3] false).isSome = true ∧ (rebuildCoefs 1 [1, 3] false).isSome = false ∧
    (rebuildCoefs 0 [0, 1, 2] true).isSome = false ∧ [1, 3].Nodup ∧ (∀ m ∈ [1, 3], m < 4) := by decide +kernel

theorem test_gf : gfMul 2 0x80 = 0x1D ∧ gfMul 3 3 = 5 ∧ gfPow 2 8 = 0x1D := by decide +kernel

/-! ## Control cores -/

/-- Core 0 works for context 0: x5 is 9, line 64 is in its data cache, one failure waits for VWAIT. -/
def coreS : State :=
  (put { sem0 with mem := [] } [(clusterOff 0 0x10C, 0x10)]).modCore 0 fun k =>
    { k with x := sset 0#32 5 9#32 k.x, sc := sset 0#32 6 4#32 k.sc, dcache := [(64, [])], vfail := 9 }
def x5 (t : State) : Nat := (sget 0#32 (t.core 0).x 5).toNat
theorem test_core : coreS.sized = true ∧ coreS.coreRuns 0 = true ∧ swf 0#32 (coreS.core 0).x = true ∧ swf 0#32 (coreS.core 0).sc = true ∧ coreS.coreCtx 0 = some 0 ∧
    badSem 0 3 = false ∧ coreS.noDie 0 = false ∧ coreS.semOwned 0 3 (coreS.jobId 0) = true ∧ (coreS.ringOf 0 3).isNone = true ∧ coreS.semVal 0 3 = 7 := by decide +kernel
theorem test_sem_instruction : after (exec (.semInstruction 0 5 0 3#32 2#32) coreS) (fun t => t.semVal 0 3 == 9 && x5 t == 7) = true ∧
    after (exec (.semInstruction 0 5 1 3#32 2#32) coreS) (fun t => t.semVal 0 3 == 5 && x5 t == 7) = true ∧
    after (exec (.semInstruction 0 5 2 3#32 7#32) coreS) (fun t => t.semVal 0 3 == 7 && x5 t == 7) = true ∧
    after (exec (.semInstruction 0 5 3 3#32 7#32) coreS) (fun t => t.semVal 0 3 == 0 && x5 t == 7) = true ∧
    after (exec (.semInstruction 0 5 2 3#32 8#32) coreS) (fun t => x5 t == 9 && (t.core 0).waiting == some (5, ⟨0, 3, 8, false⟩, 0, false)) = true := by decide +kernel
theorem test_sem_traps : coreS.granted = 0 ∧ after (exec (.semInstruction 0 5 4 3#32 8#32) coreS) (fun t => (t.core 0).trap == some .illegalInstruction) = true ∧
    after (exec (.semInstruction 0 5 6 3#32 8#32) coreS) (fun t => (t.core 0).trap == some .illegalInstruction) = true ∧
    (put coreS [(0x30004, 3)]).granted ≠ 0 ∧ after (exec (.semInstruction 0 5 4 3#32 8#32) (put coreS [(0x30004, 3)])) (fun t => t.semVal 0 3 == 8) = true ∧
    (put coreS [(clusterOff 0 0x10C, 0)]).coreCtx 0 = none ∧
    after (exec (.semInstruction 0 5 5 3#32 0#32) (put coreS [(clusterOff 0 0x10C, 0)])) (fun t => (t.core 0).trap == some .accessFault) = true := by decide +kernel
/-- A table of two streams at SSM offset 0x100, an instruction at 0x200 that passes one element on. -/
def issueS : State :=
  let s := coreS.modCore 0 fun k => { k with tabBase := 0x100, tabCount := 2, vfail := 0 }
  { s with mem := memWrite (memWrite (memWrite s.mem (ssmBase 0 + 0x100) ((streamWords 0x1000 1 ++ streamWords 0x2000 1).flatMap (leBytes 4)))
      (ssmBase 0 + 0x200) (leBytes 4 (1 + 2 ^ 8))) (ssmBase 0 + 0x1000) [0x80#8, 0x3F#8] }
theorem test_vissue : issueS.stepOpen 0 = false ∧ (0x200#32).toNat + 16 ≤ ssmSize ∧
    after (exec (.vissue 0 0x200#32) issueS) (fun t => (t.core 0).vfail == 0 && memRead t.mem (ssmBase 0 + 0x2000) 2 == [0x80#8, 0x3F#8]) = true ∧
    after (exec (.vissue 0 0x300#32) issueS) (fun t => (t.core 0).vfail == 8) = true := by decide +kernel
theorem test_core_moves : after (exec (.vstab 0 0x40#32 3#32) coreS) (fun t => (t.core 0).tabBase == 0x40 && (t.core 0).tabCount == 3) = true ∧
    after (exec (.vwait 0 5) coreS) (fun t => x5 t == 9 && (t.core 0).vfail == 0) = true ∧
    after (exec (.scw 0 7 0xAB#32) coreS) (fun t => sget 0#32 (t.core 0).sc 7 == 0xAB#32) = true ∧
    after (exec (.scr 0 5 6) coreS) (fun t => x5 t == 4) = true ∧ after (exec (.scr 0 5 28) coreS) (fun t => x5 t == 0) = true := by decide +kernel
theorem test_core_accesses : after (exec (.cacheInvalidate 0 100 1) coreS) (fun t => (t.core 0).dcache.isEmpty) = true ∧
    after (exec (.cacheInvalidate 0 128 8) coreS) (fun t => (t.core 0).dcache.length == 1) = true ∧ devOf (2 ^ 48) ≠ coreS.devId ∧
    after (exec (.coreRemoteAccess 0 (2 ^ 48) (.load 4)) coreS) (fun t => (t.core 0).trap == some .accessFault && t.log.next == 2) = true := by decide +kernel

end Sys2Proof.Tests
end

section
/-! PROOFS, family 00_scope: what every command answers (O3), and what a register write changes (O19). -/
namespace Sys2Proof.Machine

/-! ## Every command answers (log entry 1) -/

/-- The dispatcher hands every command to a meaning that answers through `act`, for that same command. -/
theorem exec_eq_act (c : Instr) (s : State) : ∃ t, exec c s = act c t := by
  cases c <;> exact ⟨_, rfl⟩

theorem act_of_not_wf {c : Instr} (h : c.wf = false) (t : State) : act c t = .fault .noSuchUnit := by simp [act, h]

/-- Settles O3: every meaning is an `act`, and `act` asks for well-formedness alone. -/
theorem everyWellFormedCommandAnswers : Obligations.EveryWellFormedCommandAnswers := by
  intro c s
  obtain ⟨t, ht⟩ := exec_eq_act c s
  rw [ht]
  exact ⟨fun h => ⟨t, act_of_wf h t⟩, fun h => act_of_not_wf h t⟩

/-! ## Single bits -/

theorem bit_eq_testBit (v i : Nat) : bit v i = v.testBit i := by
  rw [bit, Nat.testBit_eq_decide_div_mod_eq]
  rfl

/-- Bits of a number reduced to a field's width. -/
theorem bit_mod_two_pow {i w : Nat} (h : i < w) (v : Nat) : bit (v % 2 ^ w) i = bit v i := by
  simp [bit_eq_testBit, Nat.testBit_mod_two_pow, h]

/-- One bit is a field one bit wide. -/
theorem bit_eq_bits (v i : Nat) : bit v i = (bits v i 1 == 1) := rfl

theorem bit_setBits_zero (v i j : Nat) : bit (setBits v i 1 0) j = (bit v j && decide (j ≠ i)) := by
  rw [bit_eq_bits, bit_eq_bits]
  rcases Nat.lt_trichotomy j i with h | h | h
  · rw [bits_setBits_below (by omega)]
    simp [h.ne]
  · subst h
    simp [bits_setBits]
  · rw [bits_setBits_above (by omega)]
    simp [h.ne']

/-- Clearing, of the positions listed, those whose bit of `x` is 1 (RW1C, R16). -/
theorem bit_foldl_clear (x j : Nat) (l : List Nat) (v : Nat) :
    bit (l.foldl (fun v i => if bit x i then setBits v i 1 0 else v) v) j = (bit v j && !(decide (j ∈ l) && bit x j)) := by
  induction l generalizing v with
  | nil => simp
  | cons i t ih =>
    rw [List.foldl_cons, ih]
    by_cases hx : bit x i = true
    · rw [if_pos hx, bit_setBits_zero]
      by_cases hj : j = i
      · subst hj; simp [hx]
      · simp [hj]
    · rw [if_neg hx]
      by_cases hj : j = i
      · subst hj; simp [hx]
      · simp [hj]

/-! ## A write of a row is a write of each of its fields (R16, R841) -/

theorem fld_mod_two_pow (v : Word) (lo w : Nat) : fld v lo w % 2 ^ w = fld v lo w := Nat.mod_eq_of_lt (fld_lt v lo w)

/-- A bit of an RW1C field is cleared by writing 1 to it. -/
theorem bit_fieldWrite_rw1c {a : Field} (h : a.acc = .rw1c) (old x : Nat) (locked : Bool) {i : Nat} (hi : i < a.w) :
    bit (fieldWrite a old x locked) i = (bit old i && !bit x i) := by
  simp [fieldWrite, h, bit_foldl_clear, hi]

/-- Two fields share no bit of the word. -/
def Field.apart (a b : Field) : Bool := decide (a.lo + a.w ≤ b.lo ∨ b.lo + b.w ≤ a.lo)

theorem Field.apart_comm (a b : Field) : a.apart b = b.apart a := by
  simp [Field.apart, or_comm]

/-- The fields lie inside the word and share no bit. -/
def fieldsOk (l : List Field) : Bool := l.all (fun a => decide (a.lo + a.w ≤ 32)) && decide (l.Pairwise fun a b => a.apart b = true)

theorem fieldsOk_cons {b : Field} {t : List Field} (h : fieldsOk (b :: t) = true) :
    b.lo + b.w ≤ 32 ∧ (∀ c ∈ t, b.apart c = true) ∧ fieldsOk t = true := by
  simpa [fieldsOk, and_assoc, and_left_comm] using h

/-- One step of `rowWrite`: the field `a` of the register `old` takes what the word `v` writes to it. -/
def writeField (v : Word) (locked : Bool) (old : Word) (a : Field) : Word :=
  setFld old a.lo a.w (fieldWrite a (fld old a.lo a.w) (fld v a.lo a.w) locked)

theorem rowWrite_eq_foldl (r : RegRow) (old v : Word) (locked : Bool) :
    rowWrite r old v locked = r.fields.foldl (writeField v locked) old := rfl

theorem fld_writeField_same (v old : Word) (locked : Bool) {a : Field} (h : a.lo + a.w ≤ 32) :
    fld (writeField v locked old a) a.lo a.w = fieldWrite a (fld old a.lo a.w) (fld v a.lo a.w) locked % 2 ^ a.w :=
  fld_setFld _ h

theorem fld_writeField_of_apart (v old : Word) (locked : Bool) {a b : Field} (h : b.lo + b.w ≤ 32) (hab : b.apart a = true) :
    fld (writeField v locked old b) a.lo a.w = fld old a.lo a.w :=
  fld_setFld_of_disjoint _ h (of_decide_eq_true hab).symm

/-- Writes of fields apart from `a` keep `a`. -/
theorem fld_foldl_writeField_of_apart (v : Word) (locked : Bool) (a : Field) {l : List Field} (hl : fieldsOk l = true)
    (ha : ∀ b ∈ l, b.apart a = true) (old : Word) : fld (l.foldl (writeField v locked) old) a.lo a.w = fld old a.lo a.w := by
  induction l generalizing old with
  | nil => rfl
  | cons b t ih =>
    obtain ⟨hb, -, ht⟩ := fieldsOk_cons hl
    rw [List.foldl_cons, ih ht (fun c hc => ha c (List.mem_cons_of_mem b hc)),
      fld_writeField_of_apart v old locked hb (ha b List.mem_cons_self)]

/-- Each field is written from its own old value alone. -/
theorem fld_foldl_writeField (v : Word) (locked : Bool) {a : Field} {l : List Field} (hl : fieldsOk l = true) (ha : a ∈ l) (old : Word) :
    fld (l.foldl (writeField v locked) old) a.lo a.w = fieldWrite a (fld old a.lo a.w) (fld v a.lo a.w) locked % 2 ^ a.w := by
  induction l generalizing old with
  | nil => cases ha
  | cons b t ih =>
    obtain ⟨hb, hbt, ht⟩ := fieldsOk_cons hl
    rw [List.foldl_cons]
    rcases List.mem_cons.1 ha with rfl | hat
    · rw [fld_foldl_writeField_of_apart v locked a ht (fun c hc => a.apart_comm c ▸ hbt c hc), fld_writeField_same v old locked hb]
    · rw [ih ht hat, fld_writeField_of_apart v old locked hb (hbt a hat)]

/-- Each register's fields lie inside the word and share no bit. -/
def rowsOk (rows : List RegRow) : Bool := rows.all fun r => fieldsOk r.fields

/-- So it is in every block of the map (R122). -/
theorem rowsOk_rowsOf (b : Block) (rel : Nat) : rowsOk (rowsOf b rel) = true := by
  cases b with
  | global => exact (by decide +kernel : rowsOk globalRows = true)
  | reset => exact (by decide +kernel : rowsOk resetRows = true)
  | power => exact (by decide +kernel : rowsOk powerRows = true)
  | security => exact (by decide +kernel : rowsOk securityRows = true)
  | host => exact (by decide +kernel : rowsOk hostRows = true)
  | job n => exact (by decide +kernel : rowsOk jobRows = true)
  | fabric d =>
    have ok : rowsOk fabricRows = true := by decide +kernel
    exact ite_keeps (P := fun l => rowsOk l = true) ok rfl
  | memory k => exact (by decide +kernel : rowsOk memoryRows = true)
  | memData => exact (by decide +kernel : rowsOk (rowsOf .memData 0) = true)
  | compute c =>
    have ok : rowsOk computeRows = true := by decide +kernel
    exact ite_keeps (P := fun l => rowsOk l = true) ok rfl
  | bcastAll | bcastGroup | diagnostic | none => rfl

theorem mem_rowsOf_of_findRow {off : Nat} {r : RegRow} (h : findRow off = some r) : r ∈ rowsOf (blockOf off).1 (blockOf off).2 :=
  List.mem_of_find?_eq_some h

/-- In every register of the map, each field is written from its own old value alone, by its access code. -/
theorem fld_rowWrite {off : Nat} {r : RegRow} {a : Field} (hr : findRow off = some r) (ha : a ∈ r.fields) (old v : Word) (locked : Bool) :
    fld (rowWrite r old v locked) a.lo a.w = fieldWrite a (fld old a.lo a.w) (fld v a.lo a.w) locked % 2 ^ a.w := by
  have hok : fieldsOk r.fields = true := List.all_eq_true.1 (rowsOk_rowsOf _ _) r (mem_rowsOf_of_findRow hr)
  rw [rowWrite_eq_foldl]
  exact fld_foldl_writeField v locked hok ha old

/-! ## Where a write lands (R122, R123) -/

theorem blockOf_power {off : Nat} (hlo : 0x20000 ≤ off) (hhi : off < 0x30000) : blockOf off = (.power, off - 0x20000) := by
  unfold blockOf
  rw [if_neg (by omega), if_neg (by omega), if_pos hhi]

/-- Only offsets of a job-context block have a second name. -/
theorem canonOff_of_not_job {off : Nat} (h : ∀ n, (blockOf off).1 ≠ .job n) : canonOff off = off := by
  unfold canonOff
  split
  case h_1 n rel hb => exact absurd (congrArg Prod.fst hb) (h n)
  case h_2 => rfl

/-- Outside the broadcast windows only a cluster block mirrors registers (R124, R125). -/
theorem isAlias_of_not_compute {off : Nat} (h : ∀ c, (blockOf off).1 ≠ .compute c) (hoff : off < 0x2000000 ∨ 0x3000000 ≤ off) :
    isAlias off = false := by
  have hm : mirrorAt off = none := by
    unfold mirrorAt
    split
    case h_1 c rel hb => exact absurd (congrArg Prod.fst hb) (h c)
    case h_2 => rfl
  simp only [isAlias, hm, Option.isSome_none, Bool.or_false, Bool.and_eq_false_iff, decide_eq_false_iff_not]
  omega

/-- A requester with function 0's map writes its BAR0, outside job contexts, clusters and broadcast windows, at the offset it names. -/
theorem State.regWrite_eq_writeAt {s : State} {f : Fn} {off : Nat} (v : Word) (hf : ∀ n, f ≠ .vf n) (hs : s.reaches f = true)
    (hoff : off < 0x2000000 ∨ (0x3000000 ≤ off ∧ off < 0x4000000)) (hj : ∀ n, (blockOf off).1 ≠ .job n)
    (hc : ∀ c, (blockOf off).1 ≠ .compute c) : s.regWrite f off v = s.writeAt f off v := by
  have hfn : fnOff f off = some off := by
    cases f with
    | vf n => exact absurd rfl (hf n)
    | pf | mgmt | core c => exact congrArg some (canonOff_of_not_job hj)
  have hcfg : ¬ cfgBase ≤ off := by unfold cfgBase; omega
  simp [State.regWrite, hcfg, hs, hfn, isAlias_of_not_compute hc (by omega)]

/-- No register of the POWER/THERMAL block is a debug key or signature. -/
theorem power_not_debug : ∀ r ∈ powerRows, ¬ (r.name = "DBG_PUBKEY" ∨ r.name = "DBG_SIG") := by decide +kernel

/-- A plain write at a register of the POWER/THERMAL block. -/
theorem State.plainWrite_power {s : State} {f : Fn} {off : Nat} {r : RegRow} (v : Word) (hlo : 0x20000 ≤ off) (hhi : off < 0x30000)
    (hr : findRow off = some r) : s.plainWrite f off v =
      if s.mayWrite f r.writer off then s.setReg off (rowWrite r (s.reg off) v (s.rf 0x2002C 0 1 == 1)) else s := by
  have hmem : r ∈ powerRows := by
    have h := mem_rowsOf_of_findRow hr
    rwa [blockOf_power hlo hhi] at h
  cases hw : s.mayWrite f r.writer off <;> simp [State.plainWrite, hr, hw, power_not_debug r hmem]

/-- Every write to the POWER/THERMAL block is a plain write. -/
theorem State.regWrite_power {s : State} {f : Fn} {off : Nat} (v : Word) (hf : ∀ n, f ≠ .vf n) (hs : s.reaches f = true)
    (hlo : 0x20000 ≤ off) (hhi : off < 0x30000) : s.regWrite f off v = s.plainWrite f off v := by
  have hb := blockOf_power hlo hhi
  rw [State.regWrite_eq_writeAt v hf hs (by omega) (by simp [hb]) (by simp [hb])]
  simp [State.writeAt, State.unmapped, hb]

/-- A write outside every fitted block sets UNMAPPED (R123). -/
theorem State.regWrite_unmapped {s : State} {f : Fn} {off : Nat} (v : Word) (hf : ∀ n, f ≠ .vf n) (hs : s.reaches f = true)
    (hoff : off < 0x2000000 ∨ (0x3000000 ≤ off ∧ off < 0x4000000)) (hu : s.unmapped off = true) :
    s.regWrite f off v = s.setF globalStatus 4 1 1 := by
  have hj : ∀ n, (blockOf off).1 ≠ .job n := fun n h => by simp [State.unmapped, h] at hu
  have hc : ∀ c, (blockOf off).1 ≠ .compute c := fun c h => by simp [State.unmapped, h] at hu
  rw [State.regWrite_eq_writeAt v hf hs hoff hj hc]
  simp [State.writeAt, hu]

/-- Settles O19: each field is written from its own old value by its access code, and the command reaches `plainWrite` in
the POWER/THERMAL block and UNMAPPED outside every block. -/
theorem registerWritesFollowTheirAccessCodes : Obligations.RegisterWritesFollowTheirAccessCodes := by
  unfold Obligations.RegisterWritesFollowTheirAccessCodes
  refine ⟨fun off r a old v locked hr ha => ?_, fun f off v s hs hwf hf => ?_⟩
  · dsimp only
    rw [fld_rowWrite hr ha]
    refine ⟨fun h => ?ro, fun h => ?rw, fun h => ?rwl, fun h => ?ctr, fun h i hi => ?rw1c⟩
    case ro => simp [fieldWrite, h, fld_mod_two_pow]
    case rw => simp [fieldWrite, h, fld_mod_two_pow]
    case rwl => cases locked <;> simp [fieldWrite, h, fld_mod_two_pow]
    case ctr => by_cases hx : fld v a.lo a.w = 0 <;> simp [fieldWrite, h, hx, fld_mod_two_pow]
    case rw1c => rw [bit_mod_two_pow hi, bit_fieldWrite_rw1c h _ _ _ hi]
  · have run : exec (.registerWrite f off v) s = .next (s.regWrite f off v) := act_of_wf hwf _
    rw [run]
    refine ⟨fun r hlo hhi hr hw => ?_, fun r hlo hhi hr hw => ?_, fun hoff hu => ?_⟩
    · rw [State.regWrite_power v hf hs hlo hhi, State.plainWrite_power v hlo hhi hr, if_pos hw]
      exact ⟨_, rfl, s.reg_setReg_same off _, s.regsKept_setReg off _, rfl⟩
    · rw [State.regWrite_power v hf hs hlo hhi, State.plainWrite_power v hlo hhi hr, if_neg (by simp [hw])]
    · rw [State.regWrite_unmapped v hf hs hoff hu]
      exact ⟨_, rfl, s.rf_setF_same (by omega), s.regsKept_setF globalStatus 4 1 1, rfl⟩

end Sys2Proof.Machine
end

section
/-! PROOFS, family 02_command_model: registers written one after another, completion rings, and ring enables (O18). -/
namespace Sys2Proof.Machine

/-! ## Chains of register writes -/

@[simp] theorem sqOff_inj {g a b : Nat} : sqOff g a = sqOff g b ↔ a = b := by unfold sqOff; omega
@[simp] theorem cqOff_inj {g a b : Nat} : cqOff g a = cqOff g b ↔ a = b := by unfold cqOff; omega

theorem State.rf_setReg_same (s : State) (off : Nat) (v : Word) (lo w : Nat) : (s.setReg off v).rf off lo w = fld v lo w := by
  simp [State.rf]

theorem State.rf_setReg_of_ne (s : State) {off o : Nat} (h : o ≠ off) (v : Word) (lo w : Nat) :
    (s.setReg off v).rf o lo w = s.rf o lo w := by
  simp [State.rf, State.reg_setReg, h]

/-- Registers are read from the register list alone. -/
theorem State.reg_congr {s t : State} (h : t.regs = s.regs) (o : Nat) : t.reg o = s.reg o := by
  unfold State.reg; rw [h]

theorem State.rf_congr {s t : State} (h : t.regs = s.regs) (o lo w : Nat) : t.rf o lo w = s.rf o lo w := by
  rw [State.rf, State.rf, State.reg_congr h]

theorem State.RegsKept.refl (s : State) (l : List Nat) : s.RegsKept s l := fun _ _ => rfl

theorem State.RegsKept.congr {s t u : State} {l : List Nat} (h : s.RegsKept t l) (e : u.regs = t.regs) : s.RegsKept u l :=
  fun o ho => (State.reg_congr e o).trans (h o ho)

theorem State.regsKept_of_eq {s t : State} (e : t.regs = s.regs) (l : List Nat) : s.RegsKept t l :=
  (State.RegsKept.refl s l).congr e

theorem State.RegsKept.setReg {s t : State} {l : List Nat} (h : s.RegsKept t l) {off : Nat} (ho : off ∈ l) (v : Word) :
    s.RegsKept (t.setReg off v) l := by
  intro o hn
  rw [State.reg_setReg, if_neg (ne_of_mem_of_not_mem ho hn).symm, h o hn]

theorem State.RegsKept.setF {s t : State} {l : List Nat} (h : s.RegsKept t l) {off : Nat} (ho : off ∈ l) (lo w x : Nat) :
    s.RegsKept (t.setF off lo w x) l := h.setReg ho _

theorem State.RegsKept.mono {s t : State} {l m : List Nat} (h : s.RegsKept t l) (hm : l ⊆ m) : s.RegsKept t m :=
  fun o ho => h o fun ho' => ho (hm ho')

theorem fld_zero (lo w : Nat) : fld 0#32 lo w = 0 := by simp [fld, bits]

/-! ## Completion rings beside their registers -/

@[simp] theorem State.cqs_cq (s : State) (g : Nat) : (s.cqs g).cq = g := by
  unfold State.cqs
  split
  · rename_i h; simpa using List.find?_some h
  · rfl

theorem find?_map_replace {α : Type} (key : α → Nat) {l : List α} {c : α} (g : Nat) :
    (l.map fun d => if key d == key c then c else d).find? (fun d => key d == g) =
      if g = key c then (if l.any (fun d => key d == key c) then some c else none) else l.find? fun d => key d == g := by
  induction l with
  | nil => simp
  | cons d t ih =>
    by_cases hd : key d = key c
    · by_cases hg : g = key c
      · simp [hd, hg]
      · rw [if_neg hg] at ih ⊢
        rw [List.map_cons, if_pos (by simp [hd]), List.find?_cons_of_neg (by simpa using Ne.symm hg),
          List.find?_cons_of_neg (by simpa [hd] using Ne.symm hg), ih]
    · rw [List.map_cons, if_neg (by simpa using hd), List.find?_cons, List.find?_cons, ih, List.any_cons, beq_false_of_ne hd, Bool.false_or]
      by_cases hg : g = key c
      · simp [hg, beq_false_of_ne hd]
      · simp [hg]

/-- The state of a completion ring after one is stored. -/
theorem State.cqs_putCq (s : State) (c : CqState) (g : Nat) : (s.putCq c).cqs g = if g = c.cq then c else s.cqs g := by
  unfold State.cqs State.putCq
  dsimp only
  by_cases h : (s.host.cqs.any fun d => d.cq == c.cq) = true
  · rw [if_pos h, find?_map_replace CqState.cq, if_pos h]
    by_cases hg : g = c.cq <;> simp [hg]
  · have hn : s.host.cqs.find? (fun d => d.cq == c.cq) = none := by
      simpa using h
    rw [if_neg h, List.find?_append]
    by_cases hg : g = c.cq
    · subst hg; simp [hn]
    · rw [if_neg hg]
      cases hf : s.host.cqs.find? (fun d => d.cq == g) <;> simp [Ne.symm hg]

@[simp] theorem State.rf_putCq (s : State) (c : CqState) (o lo w : Nat) : (s.putCq c).rf o lo w = s.rf o lo w := rfl

/-! ## Ring enables (R69 to R71, R844, R845) -/

theorem State.rf_sqCfg (s : State) (g : Nat) (v : Word) :
    (s.sqCfg g v).rf (sqOff g 8) 0 5 = fld v 0 5 ∧ (s.sqCfg g v).rf (sqOff g 8) 8 6 = fld v 8 6 := by
  have h1 := fld_lt v 0 5
  have h2 := fld_lt v 8 6
  have h3 := s.rf_lt (sqOff g 8) 16 1
  constructor <;>
  · simp only [State.sqCfg, State.rf_setReg_same]
    unfold fld bits at *
    simp only [BitVec.toNat_ofNat]
    omega

theorem State.sqCfg_eq (s : State) (g : Nat) (v : Word) : ∃ w, s.sqCfg g v = s.setReg (sqOff g 8) w := ⟨_, rfl⟩

/-- CQ_CFG's vector fields are written one by one, so LOG2_SIZE and ENABLE stay. -/
theorem State.cqVec_frame (s : State) (f : Fn) (g : Nat) (v : Word) :
    s.RegsKept (s.cqVec f g v) [cqOff g 8] ∧ ∃ r, s.cqVec f g v = { s with regs := r } := by
  have hm : cqOff g 8 ∈ [cqOff g 8] := List.mem_singleton_self _
  have h := ((State.RegsKept.refl s [cqOff g 8]).setF hm 17 1 (fld v 17 1)).setF hm 20 11 (fld v 20 11)
  unfold State.cqVec
  by_cases hf : isPf f = true
  · rw [if_pos hf]; exact ⟨h.setF hm _ _ _, _, rfl⟩
  · rw [if_neg hf]; exact ⟨h, _, rfl⟩

/-- Settles O18: each enable is a chain of field writes to its own ring's registers. -/
theorem ringEnablesStartRingsAfresh : Obligations.RingEnablesStartRingsAfresh := by
  unfold Obligations.RingEnablesStartRingsAfresh
  intro f g v s hwf hs hf
  have run : ∀ {c : Instr} (_ : c.wf = Instr.wf (.sqEnable f g v)) (t : State), act c t = .next t := fun h t => act_of_wf (h.trans hwf) t
  refine ⟨fun he => ⟨_, run rfl _, ?_⟩, fun he => ?_, fun he => ⟨_, run (c := .sqDisable f g v) rfl _, ?_⟩, fun he => ⟨_, run (c := .cqEnable f g v) rfl _, ?_⟩,
    ⟨_, run (c := .cqDisable f g v) rfl _, ?_⟩, ⟨_, run (c := .fetchErrClear f g) rfl _, ?_⟩⟩
  · obtain ⟨hsize, hcq⟩ := s.rf_sqCfg g v
    obtain ⟨w, hw⟩ := s.sqCfg_eq g v
    have e : s.sqEnable f g v = (((((s.sqCfg g v).setF (sqOff g 8) 16 1 1).setReg (sqOff g 0xC) 0#32).setReg (sqOff g 0x10) 0#32).setReg
        (sqOff g 0x18) 0#32).setF (sqOff g 0x14) 1 1 0 := by simp [State.sqEnable, hs, hf, he]
    have kept : s.RegsKept (s.sqEnable f g v) [sqOff g 8, sqOff g 0xC, sqOff g 0x10, sqOff g 0x14, sqOff g 0x18] := by
      rw [e, hw]
      exact (((((State.RegsKept.refl s _).setReg (by simp) w).setF (by simp) _ _ _).setReg (by simp) _).setReg (by simp) _).setReg (by simp) _
        |>.setF (by simp) _ _ _
    rw [← hsize, ← hcq]
    refine ⟨?_, ?_, ?_, ?_, ?_, ?_, ?_, kept, by rw [e, hw]; rfl⟩ <;>
      simp [e, State.sqEnabled, State.sqHead, State.sqTail, State.rf_setF_same, State.rf_setF_of_ne, State.rf_setF_of_disjoint,
        State.rf_setReg_same, State.rf_setReg_of_ne, fld_zero]
  · exact (run rfl _).trans (by simp [State.sqEnable, he])
  · have e : s.sqDisable f g v = s.setF (sqOff g 8) 16 1 0 := by simp [State.sqDisable, hs, hf, he]
    rw [e]
    refine ⟨?_, ?_, ?_, ?_, ?_, s.regsKept_setF _ _ _ _, rfl⟩ <;>
      simp [State.sqEnabled, State.sqHead, State.sqTail, State.sqSize, State.cqOf, State.rf_setF_same, State.rf_setF_of_ne, State.rf_setF_of_disjoint]
  · obtain ⟨kept, r, hr⟩ := s.cqVec_frame f g v
    have e : s.cqEnable f g v = State.putCq (((((s.cqVec f g v).setF (cqOff g 8) 0 5 (fld v 0 5)).setF (cqOff g 8) 16 1 1).setReg (cqOff g 0xC) 0#32).setReg
        (cqOff g 0x10) 0#32) { (((s.cqVec f g v).setF (cqOff g 8) 0 5 (fld v 0 5)).setF (cqOff g 8) 16 1 1).cqs g with phase := true, reserved := 0 } := by
      simp [State.cqEnable, hs, hf, he]
    have hlt := fld_lt v 0 5
    generalize hu : ((((s.cqVec f g v).setF (cqOff g 8) 0 5 (fld v 0 5)).setF (cqOff g 8) 16 1 1).setReg (cqOff g 0xC) 0#32).setReg (cqOff g 0x10) 0#32 = u at e
    have hu' : s.RegsKept u [cqOff g 8, cqOff g 0xC, cqOff g 0x10] := by
      rw [← hu]
      exact ((((kept.mono (by simp)).setF (by simp) _ _ _).setF (by simp) _ _ _).setReg (by simp) _).setReg (by simp) _
    rw [e]
    have huf : u.mem = s.mem ∧ u.diacs = s.diacs ∧ u.poison = s.poison ∧ u.insts = s.insts := by rw [← hu, hr]; exact ⟨rfl, rfl, rfl, rfl⟩
    obtain ⟨h1, h2, h3, h4⟩ := huf
    refine ⟨?_, ?_, ?_, ?_, ?_, ?_, hu'.congr rfl, State.storesKept_of_eq h1 h2 h3, h4⟩
    case refine_4 | refine_5 => simp [State.cqs_putCq]
    case refine_6 => simpa [← hu, State.rf_setF_same, State.rf_setF_of_disjoint, State.rf_setReg_of_ne] using hlt
    all_goals
      simp [← hu, State.cqEnabled, State.cqHead, State.cqTail, State.rf_setF_same, State.rf_setReg_same, State.rf_setReg_of_ne, fld_zero]
  · obtain ⟨u, kept, r, hr, hu⟩ : ∃ u, s.RegsKept u [cqOff g 8] ∧ ∃ r, u = { s with regs := r } ∧
        s.cqDisable f g v = ((u.cqVec f g v).setF (cqOff g 8) 16 1 0).putCq
          { ((u.cqVec f g v).setF (cqOff g 8) 16 1 0).cqs g with reserved := 0 } := by
      by_cases he : s.cqEnabled g = true
      · exact ⟨s, .refl s _, s.regs, rfl, by simp [State.cqDisable, hs, hf, he]⟩
      · exact ⟨_, s.regsKept_setF (cqOff g 8) 0 5 (fld v 0 5), _, rfl, by simp [State.cqDisable, hs, hf, he]⟩
    obtain ⟨kept', r', hr'⟩ := u.cqVec_frame f g v
    rw [hu]
    have frame : (u.cqVec f g v).mem = s.mem ∧ (u.cqVec f g v).diacs = s.diacs ∧ (u.cqVec f g v).poison = s.poison ∧
        (u.cqVec f g v).insts = s.insts := by rw [hr', hr]; exact ⟨rfl, rfl, rfl, rfl⟩
    obtain ⟨h1, h2, h3, h4⟩ := frame
    refine ⟨?_, by simp [State.cqs_putCq], ?_, State.storesKept_of_eq h1 h2 h3, h4⟩
    · simp [State.cqEnabled, State.rf_setF_same]
    · exact (((kept.trans kept').mono (by simp)).setF (by simp) 16 1 0).congr rfl
  · have e : s.fetchErrClear f g = s.setF (sqOff g 0x14) 1 1 0 := by simp [State.fetchErrClear, hs, hf]
    rw [e]
    refine ⟨by simp [State.rf_setF_same], by simp [State.sqHead, State.rf_setF_of_ne], s.regsKept_setF _ _ _ _, rfl⟩

end Sys2Proof.Machine
end

section
/-! PROOFS, family 02_command_model: broadcast accesses (O20). -/
namespace Sys2Proof.Machine

/-! ## Broadcast windows (R124 to R131) -/

/-- What each side of a choice implies under its condition, the choice implies. -/
theorem ite_implies {α : Type} {P : α → Prop} {c : Prop} [Decidable c] {a b : α} (ha : c → P a) (hb : ¬c → P b) : P (if c then a else b) := by
  split
  · exact ha ‹_›
  · exact hb ‹_›

/-- Cluster blocks lie from 0x100_0000 to 0x180_0000, 256 KiB each (R122). -/
theorem blockOf_compute (off : Nat) : ∀ c rel, blockOf off = (.compute c, rel) →
    0x1000000 ≤ off ∧ off < 0x1800000 ∧ rel = (off - 0x1000000) % 0x40000 := by
  let P := fun b : Block × Nat => ∀ c rel, b = (.compute c, rel) → 0x1000000 ≤ off ∧ off < 0x1800000 ∧ rel = (off - 0x1000000) % 0x40000
  have other : ∀ b : Block × Nat, (∀ c, b.1 ≠ .compute c) → P b := fun b hb c rel h => absurd (congrArg Prod.fst h) (hb c)
  unfold blockOf
  iterate 10 refine ite_implies (P := P) (fun _ => other _ nofun) fun _ => ?_
  refine ite_implies (P := P) (fun _ c rel h => ?_) fun _ => ?_
  · have := congrArg Prod.snd h
    dsimp only at this
    omega
  iterate 4 refine ite_implies (P := P) (fun _ => other _ nofun) fun _ => ?_
  exact other _ nofun

/-- Tile mirrors stand at 0x3_4000 to 0x3_8000 of their cluster's block (R125). -/
theorem mirrorAt_eq_none {off : Nat} (h : (off - 0x1000000) % 0x40000 < 0x34000 ∨ 0x38000 ≤ (off - 0x1000000) % 0x40000 ∨ off < 0x1000000 ∨ 0x1800000 ≤ off) :
    mirrorAt off = none := by
  unfold mirrorAt
  split
  · rename_i c rel hb
    have := blockOf_compute off c rel hb
    exact if_neg (by omega)
  · rfl

/-- No unit selected by a broadcast window is itself a mirror. -/
theorem State.mirrorAt_of_mem_bcastSel {s : State} {off : Nat} (h : 0x2000000 ≤ off) (p : Nat × Nat) (hp : p ∈ s.bcastSel off) :
    mirrorAt p.2 = none := by
  apply mirrorAt_eq_none
  unfold State.bcastSel at hp
  rw [mirrorAt_eq_none (by omega)] at hp
  dsimp only at hp
  generalize decide (0x2800000 ≤ off) = group at hp
  generalize (if group = true then off - 0x2800000 else off - 0x2000000) = rel at hp
  split at hp
  · simp only [List.mem_map, List.mem_filter, List.mem_range] at hp
    obtain ⟨c, ⟨hc, -⟩, rfl⟩ := hp
    dsimp only [clusterOff]
    omega
  split at hp
  · simp only [State.mirrorSel, List.mem_flatMap, List.mem_map, List.mem_filter, List.mem_range] at hp
    obtain ⟨c, ⟨hc, -⟩, t, ⟨ht, -⟩, rfl⟩ := hp
    dsimp only [clusterOff]
    omega
  split at hp
  · simp only [List.mem_map, List.mem_filter, List.mem_range] at hp
    obtain ⟨k, ⟨hk, -⟩, rfl⟩ := hp
    dsimp only [stackOff]
    omega
  split at hp
  · simp only [List.mem_map, List.mem_filter, List.mem_range] at hp
    obtain ⟨l, ⟨hl, -⟩, rfl⟩ := hp
    dsimp only [linkOff, dieOff]
    omega
  · simp at hp

/-- A unicast write at an offset that has one name only. -/
theorem State.regWrite_unicast {s : State} {f : Fn} {off : Nat} (v : Word) (hf : bcastFn f = true) (hs : s.reaches f = true)
    (hlt : off < 0x2000000) (hc : canonOff off = off) (hm : mirrorAt off = none) : s.regWrite f off v = s.writeAt f off v := by
  have hfn : fnOff f off = some off := by
    cases f with
    | vf n => simp [bcastFn] at hf
    | pf | mgmt | core c => exact congrArg some hc
  have hcfg : ¬ cfgBase ≤ off := by unfold cfgBase; omega
  have ha : isAlias off = false := by simp [isAlias, hm]; omega
  simp [State.regWrite, hcfg, hs, hfn, ha]

theorem State.bcastWrite_of_sel {s : State} {f : Fn} {off : Nat} (v : Word) (hs : s.reaches f = true) (hf : bcastFn f = true)
    (hm : bcastMapped off = true) : s.bcastWrite f off v =
      if s.bcastSel off = [] then s.setF globalStatus 3 1 1 else (s.bcastSel off).foldl (fun q p => q.writeAt f p.2 v) s := by
  simp only [State.bcastWrite, hs, hf, hm, Bool.not_true, Bool.or_self, Bool.false_eq_true, if_false]
  cases h : s.bcastSel off <;> simp

/-- Settles O20: the answer is the value of the first selected unit, and a write is the fold of unicast writes. -/
theorem broadcastAccessesReachTheSelectedInstances : Obligations.BroadcastAccessesReachTheSelectedInstances := by
  unfold Obligations.BroadcastAccessesReachTheSelectedInstances
  refine ⟨fun f off s p rest hwf hs hf hm hsel => ?_, fun f off v s hwf hs hf hm => ?_⟩
  · have run : exec (.broadcastRead f off) s = .next (s.bcastReadCmd f off) := act_of_wf hwf _
    intro v
    rw [run]
    refine ⟨fun hall => ⟨_, rfl, ?_⟩, fun q hq hlt => ⟨_, rfl, ?_⟩⟩
    · have hn : (rest.find? fun q => s.regVal f q.2 != v) = none := by simpa using fun a b hab => hall (a, b) hab
      simp [State.bcastReadCmd, State.bcastRead, hs, hf, hm, hsel, hn, State.answer, v]
    · have e : s.bcastReadCmd f off = ((s.setF globalStatus 2 1 1).setF globalStatus 16 9 q.1).answer f (leBytes 4 v.toNat) false := by
        simp [State.bcastReadCmd, State.bcastRead, hs, hf, hm, hsel, hq, v]
      have hrf : ∀ (t : State) bs lo w, (t.answer f bs false).rf globalStatus lo w = t.rf globalStatus lo w := fun _ _ _ _ => rfl
      rw [e]
      refine ⟨rfl, ?_, ?_, ((s.regsKept_setF _ 2 1 1).setF (by simp) 16 9 q.1).congr rfl⟩
      · simp [hrf, State.rf_setF_same, State.rf_setF_of_disjoint]
      · simpa [hrf, State.rf_setF_same] using hlt
  · have runW : exec (.broadcastWrite f off v) s = .next (s.bcastWrite f off v) := act_of_wf hwf _
    have runR : exec (.broadcastRead f off) s = .next (s.bcastReadCmd f off) := act_of_wf hwf _
    rw [runW, runR, State.bcastWrite_of_sel v hs hf hm]
    refine ⟨fun he => ⟨⟨_, rfl, ?_⟩, _, rfl, ?_⟩, fun he => ⟨_, rfl, by rw [if_neg he]⟩, fun p hp hlt hc => ⟨_, rfl, ?_⟩⟩
    · have e : s.bcastReadCmd f off = (s.setF globalStatus 3 1 1).answer f (leBytes 4 0) false := by
        simp [State.bcastReadCmd, State.bcastRead, hs, hf, hm, he]
      rw [e]
      exact ⟨rfl, s.rf_setF_same (by omega), (s.regsKept_setF _ _ _ _).congr rfl⟩
    · rw [if_pos he]
      exact ⟨s.rf_setF_same (by omega), s.regsKept_setF _ _ _ _, rfl⟩
    · have hoff : 0x2000000 ≤ off := by
        simp only [Instr.wf, Bool.and_eq_true, decide_eq_true_eq] at hwf
        exact hwf.2.1
      have hmir := State.mirrorAt_of_mem_bcastSel (s := s) hoff p (by simp [hp])
      have hwf' : Instr.wf (.registerWrite f p.2 v) = true := by
        simp only [Instr.wf, Bool.and_eq_true, decide_eq_true_eq] at hwf ⊢
        exact ⟨hwf.1, by omega⟩
      rw [if_neg (by simp [hp]), hp]
      exact (act_of_wf hwf' _).trans (by rw [State.regWrite_unicast v hf hs hlt hc hmir]; rfl)

end Sys2Proof.Machine
end

section
/-! PROOFS, family 02_command_model: BAR4 accesses, reads of time, EVLOG_SEL (O21, O22). -/
namespace Sys2Proof.Machine

/-! ## BAR4 (R61 to R64) -/

/-- The context that a refused access names: the VF's own. -/
def bar4Ctx (f : Fn) : Nat := match f with | .vf n => n | _ => 0

section
variable {s : State} {f : Fn} {off len o : Nat} (hr : s.ready = true) (ho : s.bar4Off f off len = some o)
include hr ho

theorem State.bar4_write (hk : s.bar4Ok f off len = true) (hd : o + len ≤ s.dataBytes) (d : List Byte) :
    s.bar4 f off len (some d) = s.wrPhys (hbmBase + o) d := by
  unfold State.bar4
  rw [hr, ho, hk]
  exact if_pos (decide_eq_true hd)

theorem State.bar4_read (hk : s.bar4Ok f off len = true) (hd : o + len ≤ s.dataBytes) (hp : s.poisonPhys (hbmBase + o) len = false) :
    s.bar4 f off len none = s.answer f (memRead s.mem (hbmBase + o) len) false := by
  unfold State.bar4
  rw [hr, ho, hk]
  have hd' : (!decide (o + len ≤ s.dataBytes)) = false := by simp [hd]
  exact (if_neg (Bool.eq_false_iff.1 hd')).trans (if_neg (Bool.eq_false_iff.1 hp))

theorem State.bar4_write_outside (hk : s.bar4Ok f off len = false) (d : List Byte) :
    s.bar4 f off len (some d) = s.logViolation (bar4Ctx f) o := by
  unfold State.bar4
  rw [hr, ho, hk]
  rfl

theorem State.bar4_read_outside (hk : s.bar4Ok f off len = false) :
    s.bar4 f off len none = (s.logViolation (bar4Ctx f) o).answer f (List.replicate len 0#8) false := by
  unfold State.bar4
  rw [hr, ho, hk]
  rfl

end

/-- A physical write of bytes stores them and nothing else in memory. -/
theorem State.memRead_wrPhys_same {s : State} (h : s.memOk = true) (a : Nat) {d : List Byte} (hd : d ≠ []) :
    memRead (s.wrPhys a d).mem a d.length = d ∧ s.BytesKept (s.wrPhys a d) [(a, d.length)] := by
  have hw := ((State.memOk_iff s).1 h).1
  obtain ⟨p, w, e⟩ := s.wrPhys_eq a d
  rw [e, if_neg (by simpa using hd)]
  refine ⟨memRead_memWrite_same hw a d, fun b hb => ?_⟩
  dsimp only
  rw [memByte_memWrite hw, if_neg (by have := hb (a, d.length) (by simp); dsimp only at this; omega)]

theorem State.storesKept_logViolation (s : State) (n a : Nat) : s.StoresKept (s.logViolation n a) :=
  State.storesKept_of_eq (by simp) (by simp) (by simp)

/-- Settles O21: the access is a physical write or read at its window's address, or a record. -/
theorem bar4ReachesItsWindowOnly : Obligations.Bar4ReachesItsWindowOnly := by
  unfold Obligations.Bar4ReachesItsWindowOnly
  intro f off o d s hwf hm hr ho hd
  have runW : exec (.bar4Access f off d.length (some d)) s = .next (s.bar4 f off d.length (some d)) := act_of_wf hwf _
  have hwf' : Instr.wf (.bar4Access f off d.length none) = true := by
    simp only [Instr.wf, Bool.and_eq_true] at hwf ⊢
    exact ⟨hwf.1, trivial⟩
  have runR : exec (.bar4Access f off d.length none) s = .next (s.bar4 f off d.length none) := act_of_wf hwf' _
  rw [runW, runR]
  refine ⟨fun hk hlen => ⟨⟨_, rfl, ?_⟩, fun hp => ⟨_, rfl, ?_⟩⟩, fun n hn hk => ⟨⟨_, [bar4Ctx f, o % 2 ^ 32, o / 2 ^ 32], rfl, ?_⟩, _,
    [bar4Ctx f, o % 2 ^ 32, o / 2 ^ 32], rfl, ?_⟩⟩
  · rw [State.bar4_write hr ho hk hlen]
    obtain ⟨h1, h2⟩ := State.memRead_wrPhys_same hm (hbmBase + o) hd
    exact ⟨h1, h2, by simp, by simp⟩
  · rw [State.bar4_read hr ho hk hlen hp]
    exact ⟨rfl, State.storesKept_of_eq rfl rfl rfl⟩
  · rw [State.bar4_write_outside hr ho hk]
    exact ⟨s.storesKept_logViolation _ _, s.logged_logEv _ _ _ (by omega)⟩
  · rw [State.bar4_read_outside hr ho hk]
    exact ⟨s.storesKept_logViolation _ _, s.logged_logEv _ _ _ (by omega), rfl⟩

/-! ## Reads of time (R92, R780) -/

/-- Only the low bytes of a number reach its `n` bytes. -/
theorem leBytes_mod (n v m : Nat) (h : 256 ^ n ∣ m) : leBytes n (v % m) = leBytes n v := by
  induction n generalizing v m with
  | zero => rfl
  | succ n ih =>
    obtain ⟨k, rfl⟩ := h
    have h1 : BitVec.ofNat 8 (v % (256 ^ (n + 1) * k)) = BitVec.ofNat 8 v := by
      apply BitVec.eq_of_toNat_eq
      simp only [BitVec.toNat_ofNat]
      exact Nat.mod_mod_of_dvd _ ⟨256 ^ n * k, by rw [Nat.pow_succ]; ring⟩
    have h2 : v % (256 ^ (n + 1) * k) / 256 = v / 256 % (256 ^ n * k) := by
      rw [show 256 ^ (n + 1) * k = 256 * (256 ^ n * k) by rw [Nat.pow_succ]; ring, Nat.mod_mul_right_div_self]
    rw [leBytes, leBytes, h1, h2, ih _ _ ⟨k, rfl⟩]

theorem leBytes_toNat_ofNat (v : Nat) : leBytes 4 (BitVec.ofNat 32 v).toNat = leBytes 4 v := by
  rw [BitVec.toNat_ofNat]
  exact leBytes_mod 4 v _ ⟨1, by norm_num⟩

/-- A requester with function 0's map reads its registers at the offsets it names. -/
theorem State.readReg_of_fn {s : State} {f : Fn} {off : Nat} (hf : ∀ n, f ≠ .vf n) (hs : s.reaches f = true) (hc : canonOff off = off) :
    s.readReg f off = (s.readEffect f off).answer f (leBytes 4 (s.regVal f off).toNat) false := by
  have hfn : fnOff f off = some off := by
    cases f with
    | vf n => exact absurd rfl (hf n)
    | pf | mgmt | core c => exact congrArg some hc
  simp [State.readReg, hs, State.regRead, hfn]

/-- The two reads of time that latch, for a requester with function 0's map. -/
theorem exec_timeReads {f : Fn} (hwf : f.wf = true) (hf : ∀ n, f ≠ .vf n) (s : State) :
    exec (.fabricTimeLoRead f) s = .next (s.readReg f 0x30) ∧ exec (.calLoRead f) s = .next (s.readReg f 0x10040) := by
  have h1 : Instr.wf (.fabricTimeLoRead f) = true := hwf
  have h2 : Instr.wf (.calLoRead f) = true := hwf
  cases f with
  | vf n => exact absurd rfl (hf n)
  | pf | mgmt | core c => exact ⟨act_of_wf h1 _, act_of_wf h2 _⟩

theorem State.regVal_timeLo (s : State) (f : Fn) : s.regVal f 0x30 = BitVec.ofNat 32 s.clock.fab := by
  simp [State.regVal, writeOnly]

theorem State.regVal_timeHi (s : State) (f : Fn) : s.regVal f 0x34 = sget 0#32 s.host.latches (latchIx f) := by
  simp [State.regVal, writeOnly]

theorem State.regVal_calLo (s : State) (f : Fn) : s.regVal f 0x10040 = BitVec.ofNat 32 s.clock.cal := by
  simp [State.regVal, writeOnly]

theorem State.regVal_calHi (s : State) (f : Fn) : s.regVal f 0x10044 = s.clock.calLatch := by
  simp [State.regVal, writeOnly]

/-! ## EVLOG_SEL (R808) -/

/-- Registers written one after another, at offsets that all differ, hold what was written to them. -/
theorem State.foldl_setReg (s : State) {off : Nat → Nat} (v : Nat → Word) (hoff : Function.Injective off) (n : Nat) :
    (∀ k < n, ((List.range n).foldl (fun s k => s.setReg (off k) (v k)) s).reg (off k) = v k) ∧
      s.RegsKept ((List.range n).foldl (fun s k => s.setReg (off k) (v k)) s) ((List.range n).map off) ∧
      ∃ r, (List.range n).foldl (fun s k => s.setReg (off k) (v k)) s = { s with regs := r } := by
  induction n with
  | zero => exact ⟨fun k hk => absurd hk (Nat.not_lt_zero k), .refl s _, s.regs, rfl⟩
  | succ n ih =>
    obtain ⟨held, kept, r, hr⟩ := ih
    rw [List.range_succ, List.foldl_append]
    simp only [List.foldl_cons, List.foldl_nil]
    refine ⟨fun k hk => ?_, ?_, _, by rw [hr]; rfl⟩
    · rw [State.reg_setReg]
      by_cases h : k = n
      · rw [h, if_pos rfl]
      · rw [if_neg (fun e => h (hoff e)), held k (by omega)]
    · exact (kept.mono (by simp)).setReg (by simp) _

/-- The words of the record of a sequence number; none where no record is held. -/
def State.evlogWords (s : State) (seq : Nat) : List Word :=
  match s.log.recs.find? fun e => e.1 == seq with | some e => e.2 | none => []

theorem State.evlogSel_eq {s : State} {f : Fn} (hf : ∀ n, f ≠ .vf n) (hs : s.reaches f = true) (seq : Nat) :
    s.evlogSel f seq = (List.range 8).foldl (fun t k => t.setReg (0x10120 + 4 * k) ((s.evlogWords seq).getD k 0#32))
      (s.setReg 0x10108 (BitVec.ofNat 32 seq)) := by
  unfold State.evlogSel
  rw [if_neg (by simp [hs])]
  cases f with
  | vf n => exact absurd rfl (hf n)
  | pf | mgmt | core c => rfl

/-- Settles O22: the read commands load the latches of their high halves, EVLOG_SEL writes the record's words. -/
theorem timeReadsAndEventLogSelect : Obligations.TimeReadsAndEventLogSelect := by
  unfold Obligations.TimeReadsAndEventLogSelect
  refine ⟨fun f s hwf hf hs => ⟨⟨_, (exec_timeReads hwf hf s).1, ?_⟩, _, (exec_timeReads hwf hf s).2, ?_⟩,
    fun f seq k s hwf hf hs hk => ⟨_, act_of_wf hwf _, ?_⟩⟩
  · rw [State.readReg_of_fn hf hs rfl, State.regVal_timeLo, leBytes_toNat_ofNat]
    refine ⟨rfl, rfl, rfl, fun hl => ?_, fun g hg hl => ?_⟩
    · rw [State.regVal_timeHi]
      exact (congrArg BitVec.toNat (sget_sset _ _ _ _ hl)).trans (by rw [if_pos rfl, BitVec.toNat_ofNat])
    · rw [State.regVal_timeHi, State.regVal_timeHi]
      exact (sget_sset _ _ _ _ hl).trans (if_neg hg)
  · rw [State.readReg_of_fn hf hs rfl, State.regVal_calLo, leBytes_toNat_ofNat]
    refine ⟨rfl, rfl, ?_⟩
    rw [State.regVal_calHi]
    exact BitVec.toNat_ofNat _ _
  · have hseq : seq < 2 ^ 32 := by
      simp only [Instr.wf, Bool.and_eq_true, decide_eq_true_eq] at hwf
      exact hwf.2
    have hinj : Function.Injective fun k => 0x10120 + 4 * k := fun a b h => by dsimp only at h; omega
    obtain ⟨held, kept, r, hr⟩ := (s.setReg 0x10108 (BitVec.ofNat 32 seq)).foldl_setReg (fun k => (s.evlogWords seq).getD k 0#32) hinj 8
    rw [State.evlogSel_eq hf hs]
    refine ⟨by rw [hr]; rfl, ?_, (s.regsKept_setReg 0x10108 _).trans kept, (held k hk).trans ?_⟩
    · rw [kept _ (by simp; omega), State.reg_setReg_same, BitVec.toNat_ofNat, Nat.mod_eq_of_lt hseq]
    · unfold State.evlogWords
      cases s.log.recs.find? fun e => e.1 == seq <;> rfl

end Sys2Proof.Machine
end

section
/-! PROOFS, family 02_command_model: coalescing timers and queued re-arms (O12). -/
namespace Sys2Proof.Machine

/-! ## Interrupt moderation and queued re-arms (R109, R111, R846) -/

/-- A vector that is neither disabled nor masked is sent. -/
theorem State.raise_sent {s : State} {fn v : Nat} (h1 : s.host.msixOff.contains fn = false) (h2 : s.host.masked.contains ⟨fn, v⟩ = false) :
    s.raise fn v = { s with host := { s.host with raised := s.host.raised ++ [⟨fn, v⟩] } } := by
  unfold State.raise
  exact if_neg (by rw [h1, h2]; nofun)

/-- The function whose table a completion ring's vector stands in. -/
def State.cqFn (s : State) (g : Nat) : Nat := if s.rf (cqOff g 8) 31 1 = 1 then 0 else g / 64 + 1

/-- A completion ring whose vector names an entry that may be sent raises it; count and timer start afresh. -/
theorem State.cqRaise_sent {s : State} {g : Nat} (hv : s.cqFn g = 0 → s.rf (cqOff g 8) 20 11 ≠ 0)
    (h1 : s.host.msixOff.contains (s.cqFn g) = false) (h2 : s.host.masked.contains ⟨s.cqFn g, s.rf (cqOff g 8) 20 11⟩ = false) :
    s.cqRaise g = { s with host := { s.host with
      cqs := (s.putCq { s.cqs g with count := 0, timer := none }).host.cqs
      raised := s.host.raised ++ [⟨s.cqFn g, s.rf (cqOff g 8) 20 11⟩] } } := by
  have e : s.cqRaise g = (s.putCq { s.cqs g with count := 0, timer := none }).raise (s.cqFn g) (s.rf (cqOff g 8) 20 11) := by
    unfold State.cqRaise State.cqFn at *
    by_cases hp : s.rf (cqOff g 8) 31 1 = 1
    · simp only [State.rf_putCq, hp, if_true] at hv ⊢
      exact if_neg (hv trivial)
    · simp [State.rf_putCq, hp]
  exact e.trans (State.raise_sent h1 h2)

/-- The descriptor put at the end of its lane in place of itself. -/
theorem State.inst?_moved (s : State) (z : Inst) :
    State.inst? { s with insts := (s.insts.filter fun x => x.id != z.id) ++ [z] } z.id = some z := by
  have hn : (s.insts.filter fun x => x.id != z.id).find? (fun x => x.id == z.id) = none := by simp
  unfold State.inst?
  rw [List.find?_append, hn]
  simp

/-- Settles O12: the timer's branch raises, the re-arm's two branches start or abort. -/
theorem coalescingTimersAndQueuedReArms : Obligations.CoalescingTimersAndQueuedReArms := by
  unfold Obligations.CoalescingTimersAndQueuedReArms
  refine ⟨fun g s t0 hg ht he hus hdue => ?_, fun n h s y hn hh hy => ?_⟩
  · have run : exec (.cqCoalTimer g) s = .next (s.coalTimer g) := act_of_wf (by simpa [Instr.wf] using hg) _
    have hdue' : s.rf (cqOff g 0x14) 16 16 ≠ 0 ∧ t0 + 1000 * s.rf (cqOff g 0x14) 16 16 ≤ s.clock.now ∧ s.cqEnabled g = true := ⟨by omega, hdue, he⟩
    have hraise : s.coalTimer g = s.cqRaise g := by
      unfold State.coalTimer
      rw [ht]
      exact if_pos hdue'
    intro v fn hv h1 h2
    have hcq : (s.putCq { s.cqs g with count := 0, timer := none }).cqs g = { s.cqs g with count := 0, timer := none } := by
      simp [State.cqs_putCq]
    refine ⟨_, run, ?_⟩
    rw [hraise, State.cqRaise_sent hv h1 h2]
    exact ⟨rfl, congrArg CqState.count hcq, congrArg CqState.timer hcq, rfl⟩
  · have run : exec (.rearmStart n h) s = .next (s.rearmStart n h) := act_of_wf (by simpa [Instr.wf] using ⟨hn, hh⟩) _
    rw [run]
    refine ⟨fun h1 => ⟨_, rfl, ?_⟩, fun h2 => ?_⟩
    · have e : s.rearmStart n h = { s with insts := (s.insts.filter fun x => x.id != y.id) ++ [{ y with phase := .queued, stage := 0 }] } := by
        unfold State.rearmStart
        rw [hy]
        exact (if_neg (by omega)).trans (if_pos h1)
      rw [e]
      exact ⟨rfl, rfl⟩
    · have e : s.rearmStart n h = State.setInst
          { s with insts := (s.insts.filter fun x => x.id != y.id) ++ [{ y with phase := .queued, stage := 0 }] }
          { y with phase := .done, stage := 0, status := 0xC, startTs := s.clock.fab, endTs := s.clock.fab } := by
        unfold State.rearmStart
        rw [hy]
        exact (if_neg (by omega)).trans (if_neg (by omega))
      have hin := s.inst?_moved { y with phase := .queued, stage := 0 }
      rw [e]
      refine ⟨_, { y with phase := .done, stage := 0, status := 0xC, startTs := s.clock.fab, endTs := s.clock.fab }, rfl, ?_, rfl, rfl, rfl, rfl, rfl⟩
      rw [State.inst?_setInst, if_pos rfl]
      exact congrArg (Option.map _) hin
end Sys2Proof.Machine
end

section
/-! PROOFS, family 02_command_model: doorbells (O8). -/
namespace Sys2Proof.Machine

/-! ## Doorbells (R72, R73, R98) -/

/-- A rejected doorbell sets DB_ERR and writes one DOORBELL_REJECT record; the rest of the device stays (R73). -/
theorem State.dbReject_turned (s : State) (g page off : Nat) :
    (s.dbReject g page off).rf (sqOff g 0x14) 0 1 = 1 ∧ s.RegsKept (s.dbReject g page off) [sqOff g 0x14] ∧
      s.Logged (s.dbReject g page off) 0x0102 [page, off] ∧
      s.dbReject g page off = { s with regs := (s.dbReject g page off).regs, log := (s.dbReject g page off).log, host := (s.dbReject g page off).host } := by
  have hregs : (s.dbReject g page off).regs = (s.setF (sqOff g 0x14) 0 1 1).regs := State.logEv_regs _ _ _ _
  refine ⟨?_, (s.regsKept_setF _ _ _ _).congr hregs, (s.setF (sqOff g 0x14) 0 1 1).logged_logEv _ _ _ (by omega), ?_⟩
  · rw [State.rf_congr hregs]; exact s.rf_setF_same (by omega)
  · obtain ⟨l, r, h, e⟩ := (s.setF (sqOff g 0x14) 0 1 1).logEv_eq 0x0102 (s.jobId (g / 64)) [page, off]
    unfold State.dbReject
    rw [e]; rfl

/-- SQ_TAIL_DB of a READY device: a good write moves the tail, any other is rejected. -/
theorem State.sqDoorbell_of_ready {s : State} {f : Fn} {page off width value : Nat} (hr : s.ready = true) :
    s.sqDoorbell f page off width value =
      if width = 4 ∧ off = 0 ∧ value % 65536 < s.sqSize (pageRing f page) ∧ s.sqEnabled (pageRing f page) = true then
        { s.setF (sqOff (pageRing f page) 0x10) 0 16 value with
          host := { s.host with
            sqPf := if f = .pf then insNat (pageRing f page) s.host.sqPf else s.host.sqPf.filter fun x => x != pageRing f page } }
      else s.dbReject (pageRing f page) page off := by
  by_cases h : width = 4 ∧ off = 0 ∧ value % 65536 < s.sqSize (pageRing f page) ∧ s.sqEnabled (pageRing f page) = true
  · obtain ⟨hw, ho, hv, he⟩ := h
    simp [State.sqDoorbell, hr, hw, ho, he, hv, Nat.not_le.2 hv]
  · have hbad : width ≠ 4 ∨ off ≠ 0 ∨ s.sqSize (pageRing f page) ≤ value % 65536 ∨ (!s.sqEnabled (pageRing f page)) = true := by
      simpa only [not_and_or, Nat.not_lt, Bool.not_eq_true, Bool.not_eq_true'] using h
    rw [if_neg h, State.sqDoorbell, if_neg (by simp [hr]), if_pos hbad]

/-- CQ_HEAD_DB of a READY device: a good write moves the head, any other is rejected. -/
theorem State.cqDoorbell_of_ready {s : State} {f : Fn} {page off width value : Nat} (hr : s.ready = true) :
    s.cqDoorbell f page off width value =
      if width = 4 ∧ off = 8 ∧ value % 65536 < s.cqSize (pageRing f page) ∧ s.cqEnabled (pageRing f page) = true then
        s.setF (cqOff (pageRing f page) 0xC) 0 16 value
      else s.dbReject (pageRing f page) page off := by
  by_cases h : width = 4 ∧ off = 8 ∧ value % 65536 < s.cqSize (pageRing f page) ∧ s.cqEnabled (pageRing f page) = true
  · obtain ⟨hw, ho, hv, he⟩ := h
    simp [State.cqDoorbell, hr, hw, ho, he, hv, Nat.not_le.2 hv]
  · have hbad : width ≠ 4 ∨ off ≠ 8 ∨ s.cqSize (pageRing f page) ≤ value % 65536 ∨ (!s.cqEnabled (pageRing f page)) = true := by
      simpa only [not_and_or, Nat.not_lt, Bool.not_eq_true, Bool.not_eq_true'] using h
    rw [if_neg h, State.cqDoorbell, if_neg (by simp [hr]), if_pos hbad]

/-- A device that is not READY takes no doorbell (R744). -/
theorem State.doorbells_of_not_ready {s : State} (hr : s.ready = false) (f : Fn) (page off width value : Nat) :
    s.sqDoorbell f page off width value = s ∧ s.cqDoorbell f page off width value = s := by
  simp [State.sqDoorbell, State.cqDoorbell, hr]

/-- Settles O8: a good doorbell is one field write, any other is a rejection. -/
theorem doorbellsMoveTheirRingOrAreRejected : Obligations.DoorbellsMoveTheirRingOrAreRejected := by
  unfold Obligations.DoorbellsMoveTheirRingOrAreRejected
  refine ⟨fun f page off width value s hwf hr => ?_, fun f n value s hwf hr hs => ?_, fun f page off width value n v s hr => ?_⟩
  · have runS : exec (.sqTailDb f page off width value) s = .next (s.sqDoorbell f page off width value) := act_of_wf hwf _
    have runC : exec (.cqHeadDb f page off width value) s = .next (s.cqDoorbell f page off width value) := act_of_wf hwf _
    intro g v sqGood cqGood turned
    rw [runS, runC, State.sqDoorbell_of_ready hr, State.cqDoorbell_of_ready hr]
    refine ⟨fun h => ⟨_, rfl, ?_⟩, fun h => ⟨_, rfl, ?_⟩, fun h => ⟨_, rfl, ?_⟩, fun h => ⟨_, rfl, ?_⟩⟩
    · rw [if_pos h]
      exact ⟨s.rf_setF_same (by omega), s.regsKept_setF _ _ _ _, rfl⟩
    · rw [if_neg h]
      exact s.dbReject_turned g page off
    · rw [if_pos h]
      exact ⟨s.rf_setF_same (by omega), s.regsKept_setF _ _ _ _, rfl⟩
    · rw [if_neg h]
      exact s.dbReject_turned g page off
  · have run : exec (.ctrHeadDb f n value) s = .next (s.ctrDoorbell f n value) := act_of_wf hwf _
    have hn : n < s.ctxs.length := by
      have := (s.sized_iff.1 hs).1
      simp only [Instr.wf, Bool.and_eq_true, decide_eq_true_eq] at hwf
      omega
    have hd : s.ctrDoorbell f n value = s.modCtx n fun c => { c with ctrHead := value % 65536 } := by
      simp [State.ctrDoorbell, hr]
    rw [run, hd]
    refine ⟨_, rfl, ?_, ?_, fun m hm => ?_, rfl⟩ <;> rw [State.ctx_modCtx _ _ _ _ hn]
    · rw [if_pos rfl]
    · rw [if_pos rfl]
    · rw [if_neg hm]
  · obtain ⟨hsq, hcq⟩ := s.doorbells_of_not_ready hr f page off width value
    refine ⟨fun hwf => ⟨(act_of_wf hwf _).trans (by rw [hsq]), (act_of_wf (c := .cqHeadDb f page off width value) hwf _).trans (by rw [hcq])⟩,
      fun hwf hf => (act_of_wf hwf _).trans ?_⟩
    simp [State.ctrDoorbell, hr, hf]

end Sys2Proof.Machine
end

section
/-! PROOFS, family 02_command_model: descriptor fetch (O9). -/
namespace Sys2Proof.Machine

/-! ## Fetching a descriptor (R74, R91, R844) -/

/-- A descriptor that fails a check at fetch is turned away with a status other than OK. -/
theorem State.fetchCheck_status {s : State} {x : Inst} {st d : Nat} {v : Option Nat} (h : s.fetchCheck x = some (st, d, v)) :
    st = 8 ∨ st = 0xF := by
  unfold State.fetchCheck at h
  repeat' split at h
  all_goals simp only [Option.some.injEq, Prod.mk.injEq, reduceCtorEq] at h
  all_goals omega

/-- The descriptor that a fetched one becomes keeps its ring, context, completion ring and words. -/
def Inst.SameSource (x y : Inst) : Prop := y.sq = x.sq ∧ y.ctx = x.ctx ∧ y.cq = x.cq ∧ y.words = x.words

/-- The descriptor as its checks at fetch see it: its words, its block where it is at hand, its lane. -/
def State.judged (s : State) (x : Inst) : Inst :=
  let x := s.withFetched { x with words := basicWords x.words }
  { x with queue := s.queueOf x }

/-- What the checks at fetch decide for a judged descriptor. -/
def State.enter (s : State) (x : Inst) : State :=
  match s.fetchCheck x with
  | some (st, d, v) =>
    let s := s.turnAway x st d
    match v with | some a => s.logViolation x.ctx a | none => s
  | none =>
    match x.handle with
    | some h =>
      if s.rearmQueued x.ctx h then s.turnAway x 2 0
      else if s.handleHeld x.ctx h then
        (if bit (x.w 0) 12 then s.addInst { x with phase := .rearm } else s.turnAway x 2 0)
      else s.addInst x
    | none => s.addInst x

theorem State.takeIn_eq_enter (s : State) (x : Inst) : s.takeIn x = s.enter (s.judged x) := rfl

/-- Judging a descriptor leaves what the ring gave, but for the words of a basic one. -/
theorem State.judged_source (s : State) (x : Inst) :
    ({ x with words := basicWords x.words } : Inst).SameSource (s.judged x) ∧ (s.judged x).phase = x.phase := by
  unfold State.judged State.withFetched
  split
  · split <;> exact ⟨⟨rfl, rfl, rfl, rfl⟩, rfl⟩
  · exact ⟨⟨rfl, rfl, rfl, rfl⟩, rfl⟩

/-- A descriptor taken in is the next one in flight: accepted into its lane, queued as a re-arm, or ended at once. -/
structure State.Took1 (s t : State) (x y : Inst) : Prop where
  frame : ∃ l r h, t = { s with insts := s.insts ++ [y], nextInst := s.nextInst + 1, log := l, host := { s.host with raised := r, held := h } }
  id : y.id = s.nextInst
  source : x.SameSource y
  phase : y.phase = .queued ∨ y.phase = .rearm ∨ (y.phase = .done ∧ y.status ≠ 0 ∧ y.startTs = s.clock.fab ∧ y.endTs = s.clock.fab)

theorem State.took1_addInst (s : State) {x z : Inst} (hz : x.SameSource z) (hp : z.phase = .queued ∨ z.phase = .rearm) :
    ∃ y, s.Took1 (s.addInst z) x y :=
  ⟨{ z with id := s.nextInst }, ⟨s.log, s.host.raised, s.host.held, rfl⟩, rfl, hz, hp.imp_right .inl⟩

theorem State.took1_turnAway (s : State) {x z : Inst} (hz : x.SameSource z) {st : Nat} (hst : st ≠ 0) (d : Nat) :
    ∃ y, s.Took1 (s.turnAway z st d) x y :=
  ⟨{ z with phase := .done, queue := noQueue, status := st, detail := d, startTs := s.clock.fab, endTs := s.clock.fab, id := s.nextInst },
    ⟨s.log, s.host.raised, s.host.held, rfl⟩, rfl, hz, .inr (.inr ⟨rfl, hst, rfl, rfl⟩)⟩

/-- A record after a descriptor was taken in changes the log and interrupts. -/
theorem State.Took1.logViolation {s t : State} {x y : Inst} (h : s.Took1 t x y) (n a : Nat) : s.Took1 (t.logViolation n a) x y := by
  obtain ⟨⟨l, r, q, rfl⟩, hid, hs, hp⟩ := h
  obtain ⟨l', r', q', e⟩ := State.logEv_eq _ 0x0101 (State.jobId _ n) [n, a % 2 ^ 32, a / 2 ^ 32]
  exact ⟨⟨l', r', q', e⟩, hid, hs, hp⟩

/-- Every descriptor that is checked becomes exactly one descriptor in flight. -/
theorem State.takeIn_took1 (s : State) {x : Inst} (hx : x.phase = .queued) :
    ∃ y, s.Took1 (s.takeIn x) { x with words := basicWords x.words } y := by
  obtain ⟨hsrc, hph⟩ := s.judged_source x
  rw [State.takeIn_eq_enter]
  generalize s.judged x = z at hsrc hph
  have hq : z.phase = .queued := hph.trans hx
  unfold State.enter
  have away : ∀ d, ∃ y, s.Took1 (s.turnAway z 2 d) { x with words := basicWords x.words } y := s.took1_turnAway hsrc (by decide)
  have accepted := s.took1_addInst hsrc (.inl hq)
  have rearm : ∃ y, s.Took1 (s.addInst { z with phase := .rearm }) { x with words := basicWords x.words } y :=
    s.took1_addInst (z := { z with phase := .rearm }) hsrc (.inr rfl)
  cases hc : s.fetchCheck z with
  | some c =>
    obtain ⟨st, d, v⟩ := c
    have hst : st ≠ 0 := by have := State.fetchCheck_status hc; omega
    obtain ⟨y, hy⟩ := s.took1_turnAway hsrc hst d
    cases v with
    | some a => exact ⟨y, hy.logViolation _ _⟩
    | none => exact ⟨y, hy⟩
  | none =>
    dsimp only
    cases z.handle with
    | none => exact accepted
    | some h =>
      dsimp only
      split
      · exact away 0
      · split
        · split
          · exact rearm
          · exact away 0
        · exact accepted

theorem ringSize_le (v : Nat) : 0 < ringSize v ∧ ringSize v ≤ 2 ^ 16 := by
  unfold ringSize
  split
  · exact ⟨by positivity, Nat.pow_le_pow_right (by omega) (by omega)⟩
  · omega

/-- Settles O9: a fetch moves SQ_HEAD, reserves an entry and takes one descriptor in; a failed read sets FETCH_ERR alone. -/
theorem fetchTakesTheFrontEntryOrStopsAtIt : Obligations.FetchTakesTheFrontEntryOrStopsAtIt := by
  unfold Obligations.FetchTakesTheFrontEntryOrStopsAtIt
  intro g s hg hfetch
  have run : ∀ ok, exec (.descriptorFetch g ok) s = .next (s.fetch g ok) := fun ok => act_of_wf (by simpa [Instr.wf] using hg) _
  refine ⟨fun hup => ?_, _, run false, ?_⟩
  · generalize hw : toWords (memRead s.mem (s.sqEntry g (s.sqHead g)) 64) = ws
    generalize hu : (s.setF (sqOff g 0xC) 0 16 ((s.sqHead g + 1) % s.sqSize g)).putCq
        { (s.setF (sqOff g 0xC) 0 16 ((s.sqHead g + 1) % s.sqSize g)).cqs (s.cqOf g) with
          reserved := (s.cqs (s.cqOf g)).reserved + 1 } = u
    have e : s.fetch g true = u.takeIn (Inst.fresh 0 g (g / 64) (s.cqOf g) (s.host.sqPf.contains g) ws) := by
      rw [← hu, ← hw]
      unfold State.fetch
      rw [if_neg (by simp [hfetch]), if_neg (by simp [hup])]
      rfl
    obtain ⟨y, ⟨l, r, q, frame⟩, hid, ⟨hsq, hctx, hcq, hwords⟩, hph⟩ := u.takeIn_took1 (x := Inst.fresh 0 g (g / 64) (s.cqOf g) (s.host.sqPf.contains g) ws) rfl
    refine ⟨_, y, run true, ?_⟩
    have hhead : u.rf (sqOff g 0xC) 0 16 = (s.sqHead g + 1) % s.sqSize g := by
      have := ringSize_le (s.rf (sqOff g 8) 0 5)
      have hlt : (s.sqHead g + 1) % s.sqSize g < 2 ^ 16 := (Nat.mod_lt _ this.1).trans_le this.2
      rw [← hu, State.rf_putCq, State.rf_setF_same _ (by omega), Nat.mod_eq_of_lt hlt]
    have hcqs : (u.cqs (s.cqOf g)).reserved = (s.cqs (s.cqOf g)).reserved + 1 := by
      rw [← hu, State.cqs_putCq, if_pos (by simp)]
    have kept : s.RegsKept u [sqOff g 0xC] := by rw [← hu]; exact (s.regsKept_setF _ _ _ _).congr rfl
    have huf : u.insts = s.insts ∧ u.nextInst = s.nextInst ∧ u.clock = s.clock ∧ u.mem = s.mem ∧ u.diacs = s.diacs ∧ u.poison = s.poison := by
      rw [← hu]; exact ⟨rfl, rfl, rfl, rfl, rfl, rfl⟩
    obtain ⟨h1, h2, h3, h4, h5, h6⟩ := huf
    rw [e, frame]
    exact ⟨hhead, by rw [← h1], hid.trans h2, hsq, hctx, hcq, by rw [← h2], hwords, by rwa [h3] at hph, hcqs, kept.congr rfl,
      State.storesKept_of_eq h4 h5 h6⟩
  · have e : s.fetch g false = s.setF (sqOff g 0x14) 1 1 1 := by
      unfold State.fetch
      rw [if_neg (by simp [hfetch]), if_pos (by simp)]
    rw [e]
    exact ⟨s.rf_setF_same (by omega), s.rf_setF_of_ne (by simp), s.regsKept_setF _ _ _ _, rfl⟩

end Sys2Proof.Machine
end

section
/-! PROOFS, family 02_command_model: which registers and which parts of a context a semaphore change reaches. -/
namespace Sys2Proof.Machine
variable (s : State)

/-! ## Semaphores: registers and contexts -/

/-- Some write to a context, whether or not the context is there. -/
theorem State.ctx_modCtx_or (n m : Nat) (f : Ctx → Ctx) : (s.modCtx n f).ctx m = f (s.ctx m) ∨ (s.modCtx n f).ctx m = s.ctx m := by
  simp only [State.ctx, State.modCtx, getD_modNth]
  split
  · exact .inl rfl
  · exact .inr rfl

/-- Run-On counts start afresh; the rest of every context stays (R503). -/
theorem State.ctx_restartRunOn (w : Word) (m : Nat) : ∃ r, (s.restartRunOn w).ctx m = { s.ctx m with runOn := r } := by
  unfold State.restartRunOn
  split
  · exact ⟨_, rfl⟩
  · generalize s.ctxsOf (fld w 0 12) = l
    induction l generalizing s with
    | nil => exact ⟨_, rfl⟩
    | cons n t ih =>
      obtain ⟨r, hr⟩ := ih (s.modCtx n fun c => { c with runOn := 0 })
      rw [List.foldl_cons, hr]
      rcases s.ctx_modCtx_or n m fun c => { c with runOn := 0 } with h | h <;> rw [h] <;> exact ⟨r, rfl⟩

theorem State.regs_restartRunOn (w : Word) : (s.restartRunOn w).regs = s.regs := by
  obtain ⟨c, e⟩ := s.restartRunOn_eq w
  rw [e]

/-- The check of a seal writes HEAD, TAIL and status of its ring (R483, R484). -/
theorem State.liftSeal_frame (g : Ring) : s.RegsKept (s.liftSeal g) [ringOff g.c g.r 20, ringOff g.c g.r 24, ringOff g.c g.r 28] ∧
    (s.liftSeal g).ctxs = s.ctxs ∧ (s.liftSeal g).host.cqs = s.host.cqs := by
  unfold State.liftSeal
  split
  · split
    · exact ⟨(((State.RegsKept.refl s _).setReg (by simp) _).setReg (by simp) _).setF (by simp) _ _ _, rfl, rfl⟩
    · obtain ⟨l, r, h, e⟩ := (s.setF (ringOff g.c g.r 28) 1 1 1).logEv_eq 0x0303 (s.jobId g.ctx) [g.c + 32 * g.r]
      rw [e]
      exact ⟨((s.regsKept_setF (ringOff g.c g.r 28) 1 1 1).mono (by simp)).congr rfl, rfl, rfl⟩
  · exact ⟨.refl s _, rfl, rfl⟩

/-- The ring that a semaphore serves is one of its unit's. -/
theorem State.ringOf_unit {u i : Nat} {g : Ring} {b : Bool} (h : s.ringOf u i = some (g, b)) : ∃ r < 64, g = s.ring u r := by
  unfold State.ringOf at h
  split at h
  · obtain ⟨g', hg', hx⟩ := List.exists_of_findSome?_eq_some h
    obtain ⟨r, hr, e⟩ := List.mem_map.1 (List.mem_of_mem_filter hg')
    refine ⟨r, List.mem_range.1 hr, ?_⟩
    subst e
    split at hx
    · cases hx; rfl
    · split at hx
      · cases hx; rfl
      · cases hx
  · cases h

theorem ringOff_mem_semTouch {u i r : Nat} (hr : r < 64) : [ringOff u r 20, ringOff u r 24, ringOff u r 28] ⊆ semTouch u i := by
  intro o ho
  exact List.mem_cons_of_mem _ (List.mem_flatMap.2 ⟨r, List.mem_range.2 hr, ho⟩)

/-- A semaphore that takes a value reaches the registers of `semTouch`, Run-On counts, and no completion ring (R475, R483, R503). -/
theorem State.semPut_frame (u i v : Nat) : s.RegsKept (s.semPut u i v) (semTouch u i) ∧
    (∀ m, ∃ r, (s.semPut u i v).ctx m = { s.ctx m with runOn := r }) ∧ (s.semPut u i v).host.cqs = s.host.cqs := by
  unfold State.semPut
  split
  · exact ⟨.refl s _, fun m => ⟨_, rfl⟩, rfl⟩
  · dsimp only
    generalize hq : ({ s.setReg (semOff u i) (BitVec.ofNat 32 v) with
      wakes := if (s.setReg (semOff u i) (BitVec.ofNat 32 v)).wakes.contains (u, i / 64) then (s.setReg (semOff u i) (BitVec.ofNat 32 v)).wakes
        else (s.setReg (semOff u i) (BitVec.ofNat 32 v)).wakes ++ [(u, i / 64)] } : State) = q
    have hqr : s.RegsKept q (semTouch u i) := by
      rw [← hq]
      exact ((State.RegsKept.refl s _).setReg (List.mem_cons_self ..) _).congr rfl
    have hqc : q.ctxs = s.ctxs ∧ q.host = s.host := by rw [← hq]; exact ⟨rfl, rfl⟩
    have hctx : ∀ m, ∃ r, (q.restartRunOn (q.reg (ownerOff u (i / 64)))).ctx m = { s.ctx m with runOn := r } := fun m => by
      obtain ⟨r, hr⟩ := q.ctx_restartRunOn (q.reg (ownerOff u (i / 64))) m
      exact ⟨r, by rw [hr, State.ctx, hqc.1]; rfl⟩
    have hhost : (q.restartRunOn (q.reg (ownerOff u (i / 64)))).host.cqs = s.host.cqs := by
      obtain ⟨c, e⟩ := q.restartRunOn_eq (q.reg (ownerOff u (i / 64)))
      rw [e, ← hqc.2]
    have hregs : s.RegsKept (q.restartRunOn (q.reg (ownerOff u (i / 64)))) (semTouch u i) := hqr.congr (q.regs_restartRunOn _)
    generalize q.restartRunOn (q.reg (ownerOff u (i / 64))) = p at hctx hhost hregs
    split
    · rename_i g hg
      obtain ⟨r, hr, rfl⟩ := p.ringOf_unit hg
      obtain ⟨f1, f2, f3⟩ := p.liftSeal_frame (p.ring u r)
      refine ⟨(hregs.trans (f1.mono (ringOff_mem_semTouch (u := u) (i := i) hr))).mono (by simp), fun m => ?_, f3.trans hhost⟩
      obtain ⟨c, hc⟩ := hctx m
      exact ⟨c, by rw [← hc, State.ctx, f2]; rfl⟩
    · exact ⟨hregs, hctx, hhost⟩

/-- The same of ADD, whose saturation adds a record. -/
theorem State.semAdd_frame (u i n : Nat) : s.RegsKept (s.semAdd u i n) (semTouch u i) ∧
    (∀ m, ∃ r, (s.semAdd u i n).ctx m = { s.ctx m with runOn := r }) ∧ (s.semAdd u i n).host.cqs = s.host.cqs := by
  obtain ⟨h1, h2, h3⟩ := s.semPut_frame u i (min (s.semVal u i + n) semMax)
  unfold State.semAdd
  dsimp only
  split
  · obtain ⟨l, r, h, e⟩ := State.logEv_eq (s.semPut u i (min (s.semVal u i + n) semMax)) 0x0301
      (fld ((s.semPut u i (min (s.semVal u i + n) semMax)).reg (ownerOff u (i / 64))) 0 12) [i + 2 ^ 13 * u]
    rw [e]
    exact ⟨h1.congr rfl, h2, h3⟩
  · exact ⟨h1, h2, h3⟩

theorem State.memOk_semAdd {s : State} (h : s.memOk = true) (u i n : Nat) : (s.semAdd u i n).memOk = true := by
  have hp := State.memOk_semPut h u i (min (s.semVal u i + n) semMax)
  unfold State.semAdd
  dsimp only
  split
  · exact (State.memOk_congr (State.logEv_mem ..) (State.logEv_diacs ..)).trans hp
  · exact hp

/-- Registers of semaphores and rings stand in the blocks of clusters and I/O dies. -/
theorem le_of_mem_semTouch {u i o : Nat} (h : o ∈ semTouch u i) : 0x100000 ≤ o := by
  rcases List.mem_cons.1 h with rfl | h
  · unfold semOff clusterOff dieOff
    split <;> omega
  · obtain ⟨r, -, hr⟩ := List.mem_flatMap.1 h
    simp only [ringOff, clusterOff, List.mem_cons, List.not_mem_nil, or_false] at hr
    omega

end Sys2Proof.Machine
end

section
/-! PROOFS, family 02_command_model: the completion record (O11). -/
namespace Sys2Proof.Machine

/-! ## Words and bytes -/

theorem toWords_leBytes_append (w : Word) (t : List Byte) : toWords (leBytes 4 w.toNat ++ t) = w :: toWords t := by
  have h : leNat (leBytes 4 w.toNat) = w.toNat := by
    rw [leNat_leBytes]
    exact Nat.mod_eq_of_lt w.isLt
  simp only [leBytes, List.cons_append, List.nil_append, toWords, List.cons.injEq, and_true]
  rw [leBytes, leBytes, leBytes, leBytes, leBytes] at h
  rw [h, BitVec.ofNat_toNat, BitVec.setWidth_eq]

/-- Words written as bytes read back as the words. -/
theorem toWords_ofWords (ws : List Word) : toWords (ofWords ws) = ws := by
  induction ws with
  | nil => rfl
  | cons w t ih => exact (toWords_leBytes_append w _).trans (congrArg _ ih)

theorem ofWords_length (ws : List Word) : (ofWords ws).length = 4 * ws.length := by
  induction ws with
  | nil => rfl
  | cons w t ih => rw [show ofWords (w :: t) = leBytes 4 w.toNat ++ ofWords t from rfl, List.length_append, ih]; simp; omega

theorem State.dropInst_frame (s : State) (i : Nat) : (s.dropInst i).inst? i = none := by
  unfold State.inst? State.dropInst
  simp

/-! ## What precedes the record: SIGNAL, totals, counter record -/

theorem ctxOff_inj {n a b : Nat} : ctxOff n a = ctxOff n b ↔ a = b := by unfold ctxOff; omega

/-- Running totals of a context (R94). -/
def totalOffs (n : Nat) : List Nat := (List.range 7).map fun k => ctxOff n (0x100 + 4 * k)

/-- Counting up registers of a list reaches these registers and nothing else. -/
theorem State.foldl_count32 {off : Nat → Nat} {offs : List Nat} (l : List (Nat × Nat)) (hl : ∀ p ∈ l, off p.2 ∈ offs) (s : State) :
    s.RegsKept (l.foldl (fun s p => if p.1 = 0 then s else s.count32 (off p.2) p.1) s) offs ∧
      ∃ r, l.foldl (fun s p => if p.1 = 0 then s else s.count32 (off p.2) p.1) s = { s with regs := r } := by
  induction l generalizing s with
  | nil => exact ⟨.refl s _, s.regs, rfl⟩
  | cons p t ih =>
    have step : s.RegsKept (if p.1 = 0 then s else s.count32 (off p.2) p.1) offs ∧
        ∃ r, (if p.1 = 0 then s else s.count32 (off p.2) p.1) = { s with regs := r } := by
      split
      · exact ⟨.refl s _, s.regs, rfl⟩
      · exact ⟨(State.RegsKept.refl s _).setF (hl p (List.mem_cons_self ..)) _ _ _, _, rfl⟩
    obtain ⟨h1, r, h2⟩ := step
    obtain ⟨h3, r', h4⟩ := ih (fun q hq => hl q (List.mem_cons_of_mem _ hq)) (if p.1 = 0 then s else s.count32 (off p.2) p.1)
    rw [List.foldl_cons]
    exact ⟨(h1.trans h3).mono (by simp), r', by rw [h4, h2]⟩

/-- The totals of a descriptor go to its context's counters and its step's, and nowhere else (R94, R448). -/
theorem State.addTotals_frame (s : State) (n : Nat) (c : Counters) : s.RegsKept (s.addTotals n c) (totalOffs n) ∧
    (∀ m, ∃ k, (s.addTotals n c).ctx m = { s.ctx m with stepCnt := k }) ∧ ∃ r x, s.addTotals n c = { s with regs := r, ctxs := x } := by
  have hoff : ∀ p ∈ c.list.zipIdx, ctxOff n (0x100 + 4 * p.2) ∈ totalOffs n := fun p hp => by
    have : p.2 < 7 := by simpa [Counters.list] using List.snd_lt_of_mem_zipIdx hp
    exact List.mem_map.2 ⟨p.2, List.mem_range.2 this, rfl⟩
  obtain ⟨h1, r, h2⟩ := State.foldl_count32 (off := fun k => ctxOff n (0x100 + 4 * k)) c.list.zipIdx hoff s
  unfold State.addTotals
  dsimp only
  rw [h2] at h1 ⊢
  refine ⟨h1.congr rfl, fun m => ?_, r, _, rfl⟩
  rcases State.ctx_modCtx_or { s with regs := r } n m fun k => { k with stepCnt := k.stepCnt.add c } with h | h <;> rw [h] <;> exact ⟨_, rfl⟩

/-- A counter record is due when a counter is not zero and the counter ring is enabled (R93). -/
def State.ctrDue (s : State) (x : Inst) : Bool := !(x.cnt.zero || s.rf (ctxOff x.ctx 0x128) 16 1 == 0)

/-- The counter ring of a context has no free entry (R94). -/
def State.ctrFull (s : State) (n : Nat) : Bool :=
  ((s.ctx n).ctrTail + s.ctrSize n - (s.ctx n).ctrHead) % s.ctrSize n == s.ctrSize n - 1

/-- The counter record: CNT where one is due, CNT_LOST where there is no room for it, and which parts of the state it changes. -/
theorem State.counterRecord_eq {s : State} (hm : s.memOk = true) (x : Inst) :
    ∃ t, s.counterRecord x = (t, s.ctrDue x, s.ctrDue x && s.ctrFull x.ctx) ∧ t.memOk = true ∧
      s.RegsKept t [ctxOff x.ctx 0x130] ∧ t.host = s.host ∧ t.insts = s.insts := by
  by_cases hd : (x.cnt.zero || s.rf (ctxOff x.ctx 0x128) 16 1 == 0) = true
  · refine ⟨s, ?_, hm, .refl s _, rfl, rfl⟩
    simp only [State.counterRecord, hd, State.ctrDue, if_true, Bool.not_true, Bool.false_and]
  · have hdue : s.ctrDue x = true := by simpa [State.ctrDue] using hd
    by_cases hf : ((s.ctx x.ctx).ctrTail + s.ctrSize x.ctx - (s.ctx x.ctx).ctrHead) % s.ctrSize x.ctx = s.ctrSize x.ctx - 1
    · have hfull : s.ctrFull x.ctx = true := by simpa [State.ctrFull] using hf
      refine ⟨s.count32 (ctxOff x.ctx 0x130) 1, ?_, hm, s.regsKept_setF _ _ _ _, rfl, rfl⟩
      rw [hdue, hfull]
      unfold State.counterRecord
      rw [if_neg hd]
      exact if_pos hf
    · have hfull : s.ctrFull x.ctx = false := by simpa [State.ctrFull] using hf
      obtain ⟨a, bs, f, e⟩ : ∃ a bs f, s.counterRecord x = ((s.wrPhys a bs).modCtx x.ctx f, true, false) := by
        unfold State.counterRecord
        rw [if_neg hd]
        exact ⟨_, _, _, if_neg hf⟩
      rw [hdue, hfull, e]
      exact ⟨_, rfl, (State.memOk_congr rfl rfl).trans (State.memOk_wrPhys hm a bs), State.regsKept_of_eq (by simp) _, by simp, by simp⟩

/-! ## The record itself (R74, R90, R845) -/

/-- Word 1 of a completion record. -/
def complWord1 (x : Inst) (cnt lost phase : Bool) : Nat :=
  x.status + x.detail % 256 * 2 ^ 8 + x.sq % 1024 * 2 ^ 16 + cnt.toNat * 2 ^ 26 + lost.toNat * 2 ^ 27 +
    (decide (2 ^ 32 ≤ x.endTs - x.startTs)).toNat * 2 ^ 28 + phase.toNat * 2 ^ 31

/-- The four words of a completion record. -/
def complWords (x : Inst) (cnt lost phase : Bool) : List Word :=
  [x.w 1, complWord1 x cnt lost phase, x.startTs % 2 ^ 32, x.endTs % 2 ^ 32].map (BitVec.ofNat 32)

theorem ite_two_pow (v : Bool) (i : Nat) : (if v then 2 ^ i else 0) = v.toNat * 2 ^ i := by cases v <;> simp

theorem State.cqRaise_eq (s : State) (g : Nat) : ∃ h, s.cqRaise g = { s with host := h } := by
  have raised : ∀ h fn v, ∃ h', State.raise { s with host := h } fn v = { s with host := h' } := fun h fn v => by
    obtain ⟨r, q, e⟩ := State.raise_eq { s with host := h } fn v
    exact ⟨_, e⟩
  let P := fun t : State => ∃ h, t = { s with host := h }
  exact ite_keeps (P := P) (ite_keeps (P := P) ⟨_, rfl⟩ (raised _ _ _)) (raised _ _ _)

/-- A completion counted towards the vector changes the moderation state and interrupts. -/
theorem State.cqCount_eq (s : State) (g : Nat) (a b : Bool) : ∃ h, s.cqCount g a b = { s with host := h } := by
  let P := fun t : State => ∃ h, t = { s with host := h }
  obtain ⟨h, e⟩ := (s.putCq { s.cqs g with count := (s.cqs g).count + 1, timer := some ((s.cqs g).timer.getD s.clock.now) }).cqRaise_eq g
  exact ite_keeps (P := P) ⟨s.host, rfl⟩ (ite_keeps (P := P) ⟨h, e⟩ ⟨_, rfl⟩)

/-- What a completion leaves at CQ_TAIL of its ring, and the tail moved on. -/
theorem State.cqWrite_record {s : State} (hm : s.memOk = true) (x : Inst) (cnt lost : Bool) (he : s.cqEnabled x.cq = true) :
    memRead (s.cqWrite x cnt lost).mem (hostLocal (s.pairReg (cqOff x.cq 0) (cqOff x.cq 4) + 16 * s.cqTail x.cq)) 16 =
        ofWords (complWords x cnt lost (s.cqs x.cq).phase) ∧
      (s.cqWrite x cnt lost).cqTail x.cq = (s.cqTail x.cq + 1) % s.cqSize x.cq ∧ (s.cqWrite x cnt lost).insts = s.insts := by
  generalize ha : hostLocal (s.pairReg (cqOff x.cq 0) (cqOff x.cq 4) + 16 * s.cqTail x.cq) = a
  generalize hb : ofWords (complWords x cnt lost (s.cqs x.cq).phase) = bs
  have hlen : bs.length = 16 := by rw [← hb, ofWords_length]; rfl
  obtain ⟨c, e⟩ : ∃ c, s.cqWrite x cnt lost = ((((s.wrPhys a bs).putCq c).setF (cqOff x.cq 0x10) 0 16
      ((s.cqTail x.cq + 1) % (s.wrPhys a bs).cqSize x.cq))).cqCount x.cq (bit (x.w 0) 10) (x.status != 0) := by
    rw [← ha, ← hb]
    unfold State.cqWrite
    rw [if_neg (by simp [he])]
    simp only [ite_two_pow]
    exact ⟨_, rfl⟩
  obtain ⟨h, e'⟩ := State.cqCount_eq (((s.wrPhys a bs).putCq c).setF (cqOff x.cq 0x10) 0 16 ((s.cqTail x.cq + 1) % (s.wrPhys a bs).cqSize x.cq))
    x.cq (bit (x.w 0) 10) (x.status != 0)
  have hsize : (s.wrPhys a bs).cqSize x.cq = s.cqSize x.cq := congrArg ringSize (State.rf_congr (by simp) _ _ _)
  have hlt : (s.cqTail x.cq + 1) % s.cqSize x.cq < 2 ^ 16 := by
    obtain ⟨h0, h1⟩ := ringSize_le (s.rf (cqOff x.cq 8) 0 5)
    exact (Nat.mod_lt _ h0).trans_le h1
  rw [e, e', hsize]
  refine ⟨?_, ?_, ?_⟩
  · have hne : bs.isEmpty = false := by cases bs <;> simp at hlen ⊢
    obtain ⟨p, w, hw⟩ := s.wrPhys_eq a bs
    have := memRead_memWrite_same ((State.memOk_iff s).1 hm).1 a bs
    rw [hlen] at this
    simpa [hw, hne, State.putCq] using this
  · refine (State.rf_congr (s := State.setF _ (cqOff x.cq 0x10) 0 16 ((s.cqTail x.cq + 1) % s.cqSize x.cq)) rfl _ _ _).trans ?_
    rw [State.rf_setF_same _ (by omega), Nat.mod_eq_of_lt hlt]
  · exact State.wrPhys_insts s a bs

end Sys2Proof.Machine
end

section
/-! PROOFS, family 02_command_model: what a completion leaves (O11). -/
namespace Sys2Proof.Machine

/-! ## The completion of a descriptor of a ring (R83, R90 to R98) -/

/-- What a completion does once its record is written. -/
def State.afterRecord (s : State) (x : Inst) : State :=
  let s := s.addErr x.ctx x.status
  let s := if x.status = 1 ∧ x.sq < 1024 then s.count32 (sqOff x.sq 0x18) 1 else s
  (((s.tellRearm x).dropInst x.id)).quiesceDone x.ctx

theorem State.complete_eq (s : State) (x : Inst) {t : State} {cnt lost : Bool}
    (h : (((s.localSignal x).deltasSent x).addTotals x.ctx x.cnt).counterRecord x = (t, cnt, lost)) :
    s.complete x = (t.cqWrite x cnt lost).afterRecord x := by
  unfold State.complete
  dsimp only
  rw [h]
  rfl

theorem State.addErr_eq (s : State) (n st : Nat) : ∃ c, s.addErr n st = { s with ctxs := c } :=
  ite_keeps (P := fun t : State => ∃ c, t = { s with ctxs := c }) ⟨_, rfl⟩ ⟨s.ctxs, rfl⟩

theorem State.tellRearm_eq (s : State) (x : Inst) : ∃ i, s.tellRearm x = { s with insts := i } := by
  unfold State.tellRearm
  split
  · exact ⟨s.insts, rfl⟩
  · exact ⟨_, rfl⟩

theorem State.quiesceDone_frame (s : State) (n : Nat) : s.RegsKept (s.quiesceDone n) [ctxOff n 4] ∧ ∃ r, s.quiesceDone n = { s with regs := r } := by
  unfold State.quiesceDone
  split
  · exact ⟨s.regsKept_setF _ _ _ _, _, rfl⟩
  · exact ⟨.refl s _, s.regs, rfl⟩

/-- After the record the descriptor is gone; memory stays, and of the registers only SQ_ESTATE_CNT and the context's state change. -/
theorem State.afterRecord_frame (s : State) (x : Inst) : (s.afterRecord x).inst? x.id = none ∧ (s.afterRecord x).mem = s.mem ∧
    s.RegsKept (s.afterRecord x) [sqOff x.sq 0x18, ctxOff x.ctx 4] := by
  have counted : ∃ u, s.afterRecord x = ((u.tellRearm x).dropInst x.id).quiesceDone x.ctx ∧ u.mem = s.mem ∧ s.RegsKept u [sqOff x.sq 0x18] := by
    obtain ⟨c, hc⟩ := s.addErr_eq x.ctx x.status
    refine ⟨_, rfl, ?_⟩
    rw [hc]
    split
    · exact ⟨rfl, (s.regsKept_setF (sqOff x.sq 0x18) 0 32 _).congr rfl⟩
    · exact ⟨rfl, State.regsKept_of_eq rfl _⟩
  obtain ⟨u, e, hmem, kept⟩ := counted
  obtain ⟨i, hi⟩ := u.tellRearm_eq x
  obtain ⟨kept', r, hr⟩ := ((u.tellRearm x).dropInst x.id).quiesceDone_frame x.ctx
  rw [e]
  refine ⟨?_, by rw [hr, hi, ← hmem]; rfl, ?_⟩
  · have gone := (u.tellRearm x).dropInst_frame x.id
    rw [hr]
    exact gone
  · have k : s.RegsKept ((u.tellRearm x).dropInst x.id) [sqOff x.sq 0x18] := kept.congr (by rw [hi]; rfl)
    exact k.trans kept'

/-- Before its record a descriptor that owes no parity deltas has applied its local SIGNAL and added its totals: what that
leaves as it was. -/
theorem State.beforeRecord_frame {s : State} {x : Inst} (hm : s.memOk = true) (ho : x.opcode ≠ 0x10) :
    let t := ((s.localSignal x).deltasSent x).addTotals x.ctx x.cnt
    t.memOk = true ∧ (∀ o < 0x100000, o ∉ totalOffs x.ctx → t.reg o = s.reg o) ∧ (∀ g, t.cqs g = s.cqs g) ∧
      ∀ m, (t.ctx m).ctrTail = (s.ctx m).ctrTail ∧ (t.ctx m).ctrHead = (s.ctx m).ctrHead := by
  have signal : (s.localSignal x).memOk = true ∧ s.RegsKept (s.localSignal x) (semTouch x.sigUnit x.sigIndex) ∧
      (s.localSignal x).host.cqs = s.host.cqs ∧ ∀ m, ∃ r, (s.localSignal x).ctx m = { s.ctx m with runOn := r } := by
    unfold State.localSignal
    split
    · obtain ⟨h1, h2, h3⟩ := s.semAdd_frame x.sigUnit x.sigIndex x.sigInc
      exact ⟨State.memOk_semAdd hm _ _ _, h1, h3, h2⟩
    · exact ⟨hm, .refl s _, rfl, fun m => ⟨_, rfl⟩⟩
  have hdelta : (s.localSignal x).deltasSent x = s.localSignal x := if_pos (.inl ho)
  obtain ⟨hm1, kept, hcqs, hctx⟩ := signal
  obtain ⟨kept', hctx', r, c, e⟩ := (s.localSignal x).addTotals_frame x.ctx x.cnt
  intro t
  have ht : t = (s.localSignal x).addTotals x.ctx x.cnt := congrArg (fun u : State => u.addTotals x.ctx x.cnt) hdelta
  rw [ht]
  refine ⟨by rw [e]; exact hm1, fun o hlt hn => ?_, fun g => ?_, fun m => ?_⟩
  · rw [kept' o hn, kept o fun hmem => absurd (le_of_mem_semTouch hmem) (by omega)]
  · rw [e, State.cqs, State.cqs, ← hcqs]
  · obtain ⟨k, hk⟩ := hctx' m
    obtain ⟨q, hq⟩ := hctx m
    rw [hk, hq]
    exact ⟨rfl, rfl⟩

/-- The fields of a record's second word. -/
theorem complWord1_fields {x : Inst} (hs : x.status < 256) (hq : x.sq < 1024) (cnt lost phase : Bool) :
    let w := complWord1 x cnt lost phase
    w < 2 ^ 32 ∧ bits w 0 8 = x.status ∧ bits w 8 8 = x.detail % 256 ∧ bits w 16 10 = x.sq ∧ bit w 26 = cnt ∧ bit w 27 = lost ∧
      bit w 28 = decide (2 ^ 32 ≤ x.endTs - x.startTs) ∧ bits w 29 2 = 0 ∧ bit w 31 = phase := by
  intro w
  have hw : w = complWord1 x cnt lost phase := rfl
  unfold complWord1 at hw
  generalize decide (2 ^ 32 ≤ x.endTs - x.startTs) = long at hw ⊢
  have bound : ∀ b : Bool, b.toNat < 2 := Bool.toNat_lt
  have h1 := bound cnt
  have h2 := bound lost
  have h3 := bound long
  have h4 := bound phase
  have isBit : ∀ (i : Nat) (b : Bool), w / 2 ^ i % 2 = b.toNat → bit w i = b := fun i b h => by
    rw [bit, h]; cases b <;> rfl
  unfold bits
  exact ⟨by omega, by omega, by omega, by omega, isBit _ _ (by omega), isBit _ _ (by omega), isBit _ _ (by omega), by omega,
    isBit _ _ (by omega)⟩

/-- A completion that may be written now is written (R76). -/
theorem State.completionRecord_eq_complete {s : State} {i : Nat} {x : Inst} (hx : s.inst? i = some x) (hd : x.phase = .done)
    (hp : s.packetsOut x = false) (hq : x.sq < 1024) (hu : s.hostUp = true) (hpar : x.parent = none)
    (hsig : x.status = 0 ∧ x.sigOn = true ∧ x.sigSent = false → x.sigDev = s.devId) : s.completionRecord i = s.complete x := by
  have remote : ¬(x.status = 0 ∧ x.sigOn = true ∧ (!x.sigSent) = true ∧ x.sigDev ≠ s.devId) := fun ⟨h1, h2, h3, h4⟩ =>
    h4 (hsig ⟨h1, h2, by simpa using h3⟩)
  unfold State.completionRecord
  rw [hx]
  dsimp only
  rw [if_neg (by simp [hd, hp, hu]), if_neg remote, hpar]
  exact if_pos hq

/-- Settles O11: the record's four words, written at CQ_TAIL and left by what follows. -/
theorem completionRecordLayout : Obligations.CompletionRecordLayout := by
  unfold Obligations.CompletionRecordLayout
  intro i s x hm hsz hx hd hp hsq hcq hctx hst hop hup hpar he hsig size due full
  have hid : x.id = i := by simpa using List.find?_some hx
  have run : exec (.completionRecord i) s = .next (s.completionRecord i) := act_of_wf (c := .completionRecord i) rfl _
  have hc := s.completionRecord_eq_complete hx hd hp hsq hup hpar hsig
  obtain ⟨hm1, hreg1, hcqs1, hctx1⟩ := State.beforeRecord_frame hm hop
  generalize hu : ((s.localSignal x).deltasSent x).addTotals x.ctx x.cnt = u at hm1 hreg1 hcqs1 hctx1
  obtain ⟨t, ht, hm2, hreg2, hhost2, -⟩ := State.counterRecord_eq hm1 x
  have hcompl : s.complete x = (t.cqWrite x (u.ctrDue x) (u.ctrDue x && u.ctrFull x.ctx)).afterRecord x :=
    State.complete_eq s x (by rw [hu]; exact ht)
  -- registers of rings and of the counter ring are as before
  have ctxReg : ∀ rel, 0x11C ≤ rel → rel < 0x8000 → u.reg (ctxOff x.ctx rel) = s.reg (ctxOff x.ctx rel) := fun rel h1 h2 =>
    hreg1 _ (by unfold ctxOff; omega) (by simp [totalOffs, ctxOff_inj]; omega)
  have cqReg : ∀ rel < 0x40, t.reg (cqOff x.cq rel) = s.reg (cqOff x.cq rel) := fun rel h => by
    rw [hreg2 _ (by simp [cqOff, ctxOff]; omega), hreg1 _ (by unfold cqOff; omega) (by simp [totalOffs, cqOff, ctxOff]; omega)]
  have hrf : ∀ rel < 0x40, ∀ lo w, t.rf (cqOff x.cq rel) lo w = s.rf (cqOff x.cq rel) lo w := fun rel h lo w => by
    rw [State.rf, State.rf, cqReg rel h]
  have hdue : u.ctrDue x = due := by
    show (!(_ || State.rf _ _ _ _ == 0)) = (!(_ || State.rf _ _ _ _ == 0))
    rw [State.rf, State.rf, ctxReg 0x128 (by omega) (by omega)]
  have hfull : u.ctrFull x.ctx = full := by
    have hsize : u.ctrSize x.ctx = size := by
      show ringSize (State.rf _ _ _ _) = ringSize (State.rf _ _ _ _)
      rw [State.rf, State.rf, ctxReg 0x128 (by omega) (by omega)]
    unfold State.ctrFull
    rw [hsize, (hctx1 x.ctx).1, (hctx1 x.ctx).2]
  have hphase : (t.cqs x.cq).phase = (s.cqs x.cq).phase := by rw [← hcqs1, State.cqs, State.cqs, hhost2]
  rw [hdue, hfull] at hcompl
  obtain ⟨hmem, htail, -⟩ := State.cqWrite_record hm2 x due (due && full) ((congrArg (· == 1) (hrf 8 (by omega) 16 1)).trans he)
  obtain ⟨hgone, hmem', hregs'⟩ := (t.cqWrite x due (due && full)).afterRecord_frame x
  have hpair : t.pairReg (cqOff x.cq 0) (cqOff x.cq 4) = s.pairReg (cqOff x.cq 0) (cqOff x.cq 4) := by
    rw [State.pairReg, State.pairReg, cqReg 0 (by omega), cqReg 4 (by omega)]
  have htl : t.cqTail x.cq = s.cqTail x.cq := hrf 0x10 (by omega) 0 16
  have hcs : t.cqSize x.cq = s.cqSize x.cq := congrArg ringSize (hrf 8 (by omega) 0 5)
  rw [hpair, htl, hphase] at hmem
  rw [htl, hcs] at htail
  refine ⟨_, run, ?_⟩
  rw [hc, hcompl, hmem', hmem, toWords_ofWords]
  obtain ⟨hlt, h0, h8, h16, h26, h27, h28, h29, h31⟩ := complWord1_fields hst hsq due (due && full) (s.cqs x.cq).phase
  have word1 : wd (complWords x due (due && full) (s.cqs x.cq).phase) 1 = complWord1 x due (due && full) (s.cqs x.cq).phase := by
    exact (BitVec.toNat_ofNat _ _).trans (Nat.mod_eq_of_lt hlt)
  have word0 : x.w 1 < 2 ^ 32 := BitVec.isLt _
  refine ⟨by rw [← hid]; exact hgone, ?_, rfl, ?_, ?_⟩
  · rw [← htail]
    exact hregs'.rf (by simp [sqOff, cqOff, ctxOff]; omega) _ _
  · exact (BitVec.toNat_ofNat _ _).trans (Nat.mod_eq_of_lt word0)
  · rw [word1]
    refine ⟨h0, h8, h16, h26, h27, h28, h29, h31, ?_, ?_⟩
    all_goals exact (BitVec.toNat_ofNat _ _).trans (Nat.mod_mod _ _)

end Sys2Proof.Machine
end

section
/-! PROOFS, family 02_command_model: the access side of a descriptor starts (O10). -/
namespace Sys2Proof.Machine

/-! ## Prefetches (R451, log entry 66) -/

/-- A MOVE OUTSET that a context issues on its own. -/
def Inst.IsPrefetch (n : Nat) (y : Inst) : Prop := y.opcode = 1 ∧ y.moveKind = 2 ∧ y.ctx = n ∧ y.sq = 1024 ∧ y.phase = .queued

/-- `m` prefetches of context `n` stand behind the descriptors of `s`; otherwise only staging places of contexts changed. -/
structure State.Prefetched (n m : Nat) (s t : State) : Prop where
  frame : ∃ ys c, t = { s with insts := s.insts ++ ys, nextInst := s.nextInst + m, ctxs := c } ∧ ∀ y ∈ ys, y.IsPrefetch n
  sets : (t.ctx n).ofl.length = (s.ctx n).ofl.length
  backs : (t.ctx n).backs = (s.ctx n).backs

theorem State.Prefetched.refl (n : Nat) (s : State) : State.Prefetched n 0 s s :=
  ⟨⟨[], s.ctxs, by simp, by simp⟩, rfl, rfl⟩

theorem State.Prefetched.trans {n m k : Nat} {s t u : State} (h : State.Prefetched n m s t) (g : State.Prefetched n k t u) :
    State.Prefetched n (m + k) s u := by
  obtain ⟨⟨ys, c, e, hy⟩, sets, backs⟩ := h
  obtain ⟨⟨zs, d, f, hz⟩, sets', backs'⟩ := g
  refine ⟨⟨ys ++ zs, d, ?_, fun y h => (List.mem_append.1 h).elim (hy y) (hz y)⟩, sets'.trans sets, backs'.trans backs⟩
  rw [f, e, ← List.append_assoc, ← Nat.add_assoc]

/-- What a write to a context does not reach is as before. -/
theorem State.ctx_modCtx_keeps {β : Type} (s : State) (p : Ctx → β) (n m : Nat) {f : Ctx → Ctx} (hf : ∀ c, p (f c) = p c) :
    p ((s.modCtx n f).ctx m) = p (s.ctx m) := by
  rcases s.ctx_modCtx_or n m f with h | h <;> rw [h]
  exact hf _

theorem State.prefetch_prefetched {s : State} {n k : Nat} (l : Nat) (hk : k < (s.ctx n).ofl.length) :
    State.Prefetched n 1 s (s.prefetch n k l) := by
  unfold State.prefetch
  rw [List.getElem?_eq_getElem hk]
  dsimp only
  refine ⟨⟨_, _, rfl, fun y hy => ?_⟩, ?_, ?_⟩
  · obtain rfl := List.mem_singleton.1 hy
    refine ⟨?_, ?_, rfl, rfl, rfl⟩
    · show bits ((1 + 2 ^ 13 + s.jobId n * 2 ^ 16) % 2 ^ 32) 0 8 = 1
      unfold bits
      omega
    · show bits ((2 * 2 ^ 14 + 2 ^ 16) % 2 ^ 32) 14 2 = 2
      decide
  · exact s.ctx_modCtx_keeps (fun c => c.ofl.length) n n fun c => by simp
  · exact s.ctx_modCtx_keeps (fun c => c.backs) n n fun c => rfl

theorem State.foldl_prefetch (n : Nat) (l : List (Nat × Nat)) (s : State) (h : ∀ p ∈ l, p.1 < (s.ctx n).ofl.length) :
    State.Prefetched n l.length s (l.foldl (fun s p => s.prefetch n p.1 p.2) s) := by
  induction l generalizing s with
  | nil => exact .refl n s
  | cons p l ih =>
    have first := s.prefetch_prefetched p.2 (h p (by simp))
    rw [List.foldl_cons, List.length_cons, Nat.add_comm]
    exact first.trans (ih _ fun q hq => by rw [first.sets]; exact h q (by simp [hq]))

/-- A due prefetch names a set of its context. -/
theorem Ctx.due_lt {c : Ctx} {a : Nat} {b : Bool} {p : Nat × Nat} (h : p ∈ c.due a b) : p.1 < c.ofl.length := by
  unfold Ctx.due at h
  obtain ⟨q, hq, rfl⟩ := List.mem_map.1 h
  obtain ⟨r, hr, rfl⟩ := List.mem_map.1 (List.mem_reverse.1 (List.mem_of_mem_filter hq))
  exact (List.mem_zipIdx' hr).1

/-- The first basic descriptor of a layer group's backward issues the prefetches that are due. -/
theorem State.startBackward_first {s : State} {x : Inst} {lg : Nat} (hg : x.gradLg = some lg) (ho : (s.ctx x.ctx).ofl ≠ [])
    (hb : (s.ctx x.ctx).backs.contains lg = false) :
    State.Prefetched x.ctx ((s.ctx x.ctx).due ((s.ctx x.ctx).layers.idxOf lg) (s.ctx x.ctx).backs.isEmpty).length
      (s.modCtx x.ctx fun c => { c with backs := lg :: c.backs }) (s.startBackward x) := by
  have sets : ((s.modCtx x.ctx fun c => { c with backs := lg :: c.backs }).ctx x.ctx).ofl = (s.ctx x.ctx).ofl :=
    s.ctx_modCtx_keeps Ctx.ofl _ _ fun c => rfl
  unfold State.startBackward
  rw [hg]
  dsimp only
  rw [if_neg (by rw [hb, List.isEmpty_iff]; simpa using ho)]
  exact State.foldl_prefetch _ _ _ fun p hp => by rw [sets]; exact Ctx.due_lt hp

/-- What the start of a backward reaches: contexts, and descriptors behind those already there. -/
theorem State.startBackward_frame (s : State) (x : Inst) :
    ∃ ys m c, s.startBackward x = { s with insts := s.insts ++ ys, nextInst := m, ctxs := c } := by
  have same : ∃ ys m c, s = { s with insts := s.insts ++ ys, nextInst := m, ctxs := c } := ⟨[], s.nextInst, s.ctxs, by simp⟩
  cases hg : x.gradLg with
  | none => unfold State.startBackward; rw [hg]; exact same
  | some lg =>
    by_cases h : (s.ctx x.ctx).ofl.isEmpty = true ∨ (s.ctx x.ctx).backs.contains lg = true
    · unfold State.startBackward
      rw [hg]
      dsimp only
      rw [if_pos h]
      exact same
    · obtain ⟨ho, hb⟩ := not_or.1 h
      obtain ⟨⟨ys, c, e, -⟩, -, -⟩ := State.startBackward_first hg (by simpa [List.isEmpty_iff] using ho) (by simpa using hb)
      exact ⟨ys, _, c, e⟩

/-! ## The version of a table slot (R359) -/

theorem State.foldl_hotCount (l : List Nat) (s : State) :
    ∃ r, l.foldl (fun s e => s.hotCount e) s = { s with regs := r } ∧ s.RegsKept { s with regs := r } (l.map (lexOff · 8)) := by
  induction l generalizing s with
  | nil => exact ⟨s.regs, rfl, .refl s _⟩
  | cons e l ih =>
    obtain ⟨r, hr, kept⟩ := ih (s.hotCount e)
    refine ⟨r, hr, ?_⟩
    exact (((s.regsKept_setF (lexOff e 8) 0 18 _).trans (kept : (s.hotCount e).RegsKept _ _))).congr rfl

/-- A version of a table slot moves: that register, and the directory with its counts. -/
theorem State.bumpTable_frame (s : State) (n t : Nat) : ∃ r h, s.bumpTable n t = { s with regs := r, hot := h } ∧
    s.RegsKept (s.bumpTable n t) (tblOff n t 28 :: (List.range 8).map (lexOff · 8)) := by
  unfold State.bumpTable
  dsimp only
  split
  · exact ⟨_, _, rfl, (s.regsKept_setF _ _ _ _).mono (by simp)⟩
  · generalize hu : ({ s.setF (tblOff n t 28) 0 16 ((s.rf (tblOff n t 28) 0 16 + 1) % 65536) with
      hot := _ } : State) = u
    have hru : s.RegsKept u [tblOff n t 28] := by
      rw [← hu]
      exact (s.regsKept_setF (tblOff n t 28) 0 16 _).congr rfl
    have eu : ∃ r h, u = { s with regs := r, hot := h } := ⟨_, _, hu.symm⟩
    obtain ⟨r, hr, kept⟩ := State.foldl_hotCount (List.range 8) u
    rw [hr]
    obtain ⟨r', h', e⟩ := eu
    exact ⟨r, h', by rw [e], hru.trans kept⟩

end Sys2Proof.Machine
end

section
/-! PROOFS, family 02_command_model: what a start leaves, and the header WAIT (O10). -/
namespace Sys2Proof.Machine

/-! ## The start of an access side (R82) -/

/-- A descriptor as the start of its access side in `s` leaves it. -/
def Inst.startedIn (x : Inst) (s : State) : Inst :=
  { x with phase := .started, wait := none, waited := true, lends := false, startTs := s.clock.fab,
           step := s.fsStep x.ctx + 1, epoch := s.epoch x.ctx,
           slot := match x.slotOf with | some t => s.slotRegs x.ctx t | none => [] }

/-- Its state then, before the version of its table slot moves. -/
def State.withStarted (s : State) (x : Inst) : State :=
  ((s.setInst (x.startedIn s)).touch (queueUnit x.queue)).startBackward x

theorem State.startAccess_eq {s : State} {i : Nat} {x : Inst} (hx : s.inst? i = some x) :
    s.startAccess i = match x.slotOf with
      | some t => if x.opcode = 8 ∨ x.lexOp = 1 then (s.withStarted x).bumpTable x.ctx t else s.withStarted x
      | none => s.withStarted x := by
  unfold State.startAccess
  rw [hx]
  rfl

/-- The registers that a start may reach: versions of the context's table slots, and counts of the directory. -/
def startTouch (n : Nat) : List Nat := (List.range 64).map (tblOff n · 28) ++ (List.range 8).map (lexOff · 8)

theorem Inst.slotOf_lt {x : Inst} {t : Nat} (h : x.slotOf = some t) : t < 64 := by
  unfold Inst.slotOf at h
  split at h
  · cases h; exact bits_lt ..
  · split at h
    · cases h; exact bits_lt ..
    · cases h

/-- The access side of `x` started in `s`, which became `t`. -/
structure State.AccessStarted (s t : State) (x : Inst) : Prop where
  inst : t.inst? x.id = some (x.startedIn s)
  stores : s.StoresKept t
  regs : s.RegsKept t (startTouch x.ctx)

theorem State.inst?_of_append {s t : State} {l : List Inst} (h : t.insts = s.insts ++ l) {i : Nat} {x : Inst}
    (hx : s.inst? i = some x) : t.inst? i = some x := by
  unfold State.inst? at *
  rw [h, List.find?_append, hx]
  rfl

theorem State.withStarted_started {s : State} {x : Inst} (hx : s.inst? x.id = some x) : s.AccessStarted (s.withStarted x) x := by
  obtain ⟨ys, m, c, e⟩ := ((s.setInst (x.startedIn s)).touch (queueUnit x.queue)).startBackward_frame x
  have set : (s.setInst (x.startedIn s)).inst? x.id = some (x.startedIn s) :=
    (s.inst?_setInst (x.startedIn s) x.id).trans ((if_pos rfl).trans (by rw [hx]; rfl))
  have e' : s.withStarted x = _ := e
  refine ⟨State.inst?_of_append (l := ys) ?_ set, ?_, ?_⟩ <;> rw [e']
  · rfl
  · exact State.storesKept_of_eq rfl rfl rfl
  · exact State.regsKept_of_eq rfl _

/-- A start leaves its descriptor stamped, the stores as they were, and of the registers moves versions and counts only. -/
theorem State.startAccess_started {s : State} {x : Inst} (hx : s.inst? x.id = some x) : s.AccessStarted (s.startAccess x.id) x := by
  have plain := State.withStarted_started hx
  rw [State.startAccess_eq hx]
  split
  · rename_i t ht
    split
    · obtain ⟨r, h, e, kept⟩ := (s.withStarted x).bumpTable_frame x.ctx t
      have inTouch : tblOff x.ctx t 28 :: (List.range 8).map (lexOff · 8) ⊆ startTouch x.ctx :=
        List.cons_subset.2 ⟨List.mem_append_left _ (List.mem_map.2 ⟨t, List.mem_range.2 (Inst.slotOf_lt ht), rfl⟩),
          List.subset_append_right ..⟩
      refine ⟨?_, plain.stores.trans ?_, (plain.regs.trans (kept.mono inTouch)).mono (by simp)⟩ <;> rw [e]
      · exact plain.inst
      · exact State.storesKept_of_eq rfl rfl rfl
    · exact plain
  · exact plain

/-- No start reaches the value of a semaphore. -/
theorem semOff_not_mem_startTouch {u i n : Nat} (hu : u < 64) (hi : i < 8192) (hn : n < 16) : semOff u i ∉ startTouch n := by
  intro h
  have off : (u < 32 ∧ semOff u i = 0x1000000 + 0x40000 * u + (0x10000 + 4 * i)) ∨
      semOff u i = 0x100000 + 0x40000 * (u - 32) + (0x20000 + 4 * i) := by
    unfold semOff clusterOff dieOff
    split
    · exact .inl ⟨‹_›, rfl⟩
    · exact .inr rfl
  rcases List.mem_append.1 h with h | h
  · obtain ⟨t, ht, e⟩ := List.mem_map.1 h
    rw [List.mem_range] at ht
    simp only [tblOff, ctxOff] at e
    omega
  · obtain ⟨e, he, h⟩ := List.mem_map.1 h
    rw [List.mem_range] at he
    simp only [lexOff, clusterOff] at h
    omega

/-! ## The header WAIT (R82, R462, R472) -/

/-- The ring that a semaphore serves is told by the registers of its unit's rings. -/
theorem State.ringOf_congr {s t : State} {u : Nat} (i : Nat) (h : u < 32 → ∀ r < 64, t.ring u r = s.ring u r) : t.ringOf u i = s.ringOf u i := by
  unfold State.ringOf
  split
  · rw [List.map_congr_left fun r hr => h ‹_› r (List.mem_range.1 hr)]
  · rfl

/-- A semaphore of no ring takes a value: that register, its wake wire and Run-On counts (R475, R503). -/
theorem State.semPut_plain {s : State} {u i : Nat} (v : Nat) (hi : i < 8192) (hr : s.ringOf u i = none) :
    ∃ r w c, s.semPut u i v = { s with regs := r, wakes := w, ctxs := c } ∧ (s.semPut u i v).semVal u i = v % 2 ^ 32 := by
  unfold State.semPut
  split
  · rename_i h
    refine ⟨s.regs, s.wakes, s.ctxs, rfl, ?_⟩
    rw [← h]
    exact (Nat.mod_eq_of_lt (BitVec.isLt _)).symm
  · have other : ∀ r < 64, u < 32 → ∀ rel ≤ 28, ringOff u r rel ≠ semOff u i := fun r hr hu rel h e => by
      simp only [ringOff, semOff, clusterOff, if_pos hu] at e
      omega
    have rings : (s.setReg (semOff u i) (BitVec.ofNat 32 v)).ringOf u i = none := by
      refine (State.ringOf_congr i fun hu r hr => ?_).trans hr
      have kept : ∀ rel ≤ 28, (s.setReg (semOff u i) (BitVec.ofNat 32 v)).reg (ringOff u r rel) = s.reg (ringOff u r rel) := fun rel h =>
        s.regsKept_setReg _ _ _ (by simpa using other r hr hu rel h)
      unfold State.ring State.rf
      rw [kept 0 (by omega), kept 4 (by omega), kept 8 (by omega), kept 12 (by omega), kept 16 (by omega), kept 20 (by omega), kept 24 (by omega),
        kept 28 (by omega)]
    dsimp only
    generalize hq : ({ s.setReg (semOff u i) (BitVec.ofNat 32 v) with wakes := _ } : State) = q
    have eq : ∃ w, q = { s.setReg (semOff u i) (BitVec.ofNat 32 v) with wakes := w } := ⟨_, hq.symm⟩
    obtain ⟨w, eq⟩ := eq
    obtain ⟨c, ec⟩ := q.restartRunOn_eq (q.reg (ownerOff u (i / 64)))
    have none' : (q.restartRunOn (q.reg (ownerOff u (i / 64)))).ringOf u i = none := by
      rw [ec, eq]
      exact rings
    rw [none', ec, eq]
    exact ⟨_, w, c, rfl, by rw [State.semVal]; exact (congrArg BitVec.toNat (s.reg_setReg_same _ _)).trans (BitVec.toNat_ofNat ..)⟩

/-- A descriptor that may start tests its header WAIT, bound to its epilogue. -/
theorem State.accessStart_eq {s : State} {i : Nat} {x : Inst} (hx : s.inst? i = some x) (hph : x.phase = .queued)
    (hu : s.unitAwake x.queue = true) (ha : x.opcode ≠ 0xF → (s.ahead x).all (fun y => y.phase.begun) = true)
    (hf : s.fenced x = false) (ho : s.stepOpen x.ctx = false ∨ x.unheld = true) (he : s.epiUnread x = false)
    (hc : s.stateCheck x = none) : s.accessStart i = (s.setInst (s.bindEpi x)).headerWait (s.bindEpi x) := by
  have held : (s.fenced x || (s.stepOpen x.ctx && !x.unheld)) = false := by
    rcases ho with ho | ho <;> simp [hf, ho]
  unfold State.accessStart
  rw [hx]
  dsimp only
  rw [if_neg (by simp [hph, hu]), if_neg (fun h => by simp [ha h.1] at h), if_neg (by simp [held]), if_neg (by simp [he]), hc]

theorem State.bindEpi_eq (s : State) (x : Inst) : ∃ b, s.bindEpi x = { x with bound := b } := by
  unfold State.bindEpi
  split
  · exact ⟨_, rfl⟩
  · exact ⟨x.bound, rfl⟩

theorem State.headerWait_none {s : State} {x : Inst} (h : x.waitMode = 0) : s.headerWait x = s.startAccess x.id := if_pos h

section
variable {s : State} {x : Inst} (h : x.waitMode ≠ 0) (ho : s.semOwned x.headerWait.unit x.headerWait.index x.job = true)
  (hr : x.headerWait.acquire = false ∨ s.ringOf x.headerWait.unit x.headerWait.index = none)
include h ho hr

/-- A WAIT of a semaphore that its job may use: met. -/
theorem State.headerWait_met {t : State} (hw : s.tryWait x.headerWait = some t) : s.headerWait x = t.startAccess x.id := by
  have free : (x.headerWait.acquire && s.ringForbids x.headerWait.unit x.headerWait.index x.port true) = false := by
    rcases hr with hr | hr <;> simp [State.ringForbids, hr]
  unfold State.headerWait
  dsimp only
  rw [if_neg h, if_neg (by simp [ho]), if_neg (by simp [free]), hw]

/-- Slept on. -/
theorem State.headerWait_sleeps (hw : s.tryWait x.headerWait = none) : s.headerWait x =
    s.setInst { x with phase := .waiting, wait := some x.headerWait, sleepAt := s.clock.now, lends := false } := by
  have free : (x.headerWait.acquire && s.ringForbids x.headerWait.unit x.headerWait.index x.port true) = false := by
    rcases hr with hr | hr <;> simp [State.ringForbids, hr]
  unfold State.headerWait
  dsimp only
  rw [if_neg h, if_neg (by simp [ho]), if_neg (by simp [free]), hw]
end

theorem State.tryWait_short {s : State} {w : Wait} (h : s.semVal w.unit w.index < w.n) : s.tryWait w = none := if_pos h

/-- A value that suffices meets a WAIT_GE, and an ACQUIRE on a semaphore of no ring subtracts. -/
theorem State.tryWait_met {s : State} {w : Wait} (h : w.n ≤ s.semVal w.unit w.index) (ha : w.acquire = false) : s.tryWait w = some s := by
  unfold State.tryWait
  rw [if_neg (by omega), if_pos (by simp [ha])]

theorem State.tryWait_acquired {s : State} {w : Wait} (h : w.n ≤ s.semVal w.unit w.index) (ha : w.acquire = true)
    (hr : s.ringOf w.unit w.index = none) : s.tryWait w = some (s.semPut w.unit w.index (s.semVal w.unit w.index - w.n)) := by
  unfold State.tryWait
  rw [if_neg (by omega), if_neg (by simp [ha]), hr]

/-- The descriptor `x` has started in `s`, which became `t`: its stamps, its words, and the stores. -/
def State.Begins (s : State) (x : Inst) (t : State) : Prop :=
  ∃ y, t.inst? x.id = some y ∧ y.phase = .started ∧ y.startTs = s.clock.fab ∧ y.step = s.fsStep x.ctx + 1 ∧ y.words = x.words ∧
    s.StoresKept t

/-- A start in a state `u` with the clock, step and stores of `s` is a start in `s`. -/
theorem State.AccessStarted.begins {s u t : State} {x y : Inst} (h : u.AccessStarted t y) (hy : y.id = x.id ∧ y.ctx = x.ctx ∧ y.words = x.words)
    (hc : u.clock = s.clock) (hf : u.fsStep x.ctx = s.fsStep x.ctx) (hs : s.StoresKept u) : s.Begins x t := by
  obtain ⟨hid, hctx, hw⟩ := hy
  refine ⟨y.startedIn u, by rw [← hid]; exact h.inst, rfl, congrArg Clock.fab hc, ?_, hw, hs.trans h.stores⟩
  show u.fsStep y.ctx + 1 = s.fsStep x.ctx + 1
  rw [hctx, hf]

/-- No change of a semaphore reaches FS_STEP. -/
theorem fsStep_not_mem_semTouch {n u i : Nat} (hn : n < 16) : ctxOff n 0x804 ∉ semTouch u i := fun h => by
  have := le_of_mem_semTouch h
  unfold ctxOff at this
  omega

/-- A basic descriptor of a gradient captures no table slot. -/
theorem Inst.slotOf_of_gradLg {x : Inst} {lg : Nat} (h : x.gradLg = some lg) : x.slotOf = none := by
  have hop : x.opcode = 4 ∨ x.opcode = 2 := by
    unfold Inst.gradLg at h
    split at h
    · cases h
    · split at h
      · exact .inl ‹_›
      · split at h
        · exact .inr ‹_›
        · cases h
  unfold Inst.slotOf
  rw [if_neg (by omega), if_neg (by omega)]

theorem State.ctx_modCtx_same {s : State} {n : Nat} (h : n < s.ctxs.length) (f : Ctx → Ctx) : (s.modCtx n f).ctx n = f (s.ctx n) := by
  simp only [State.ctx, State.modCtx, getD_modNth, h, and_self, if_true]

/-- The start of the first basic descriptor of a layer group's backward. -/
theorem State.startAccess_first {s : State} {x : Inst} {lg : Nat} (hx : s.inst? x.id = some x) (hsz : x.ctx < s.ctxs.length)
    (hg : x.gradLg = some lg) (ho : (s.ctx x.ctx).ofl ≠ []) (hb : (s.ctx x.ctx).backs.contains lg = false) :
    lg ∈ ((s.startAccess x.id).ctx x.ctx).backs ∧
    (s.startAccess x.id).nextInst =
      s.nextInst + ((s.ctx x.ctx).due ((s.ctx x.ctx).layers.idxOf lg) (s.ctx x.ctx).backs.isEmpty).length ∧
    ∀ y ∈ (s.startAccess x.id).insts.drop s.insts.length, y.IsPrefetch x.ctx := by
  have pre : State.Prefetched x.ctx _ _ (s.withStarted x) :=
    State.startBackward_first (s := (s.setInst (x.startedIn s)).touch (queueUnit x.queue)) hg ho hb
  rw [State.startAccess_eq hx, Inst.slotOf_of_gradLg hg]
  obtain ⟨⟨ys, c, e, hys⟩, -, hbacks⟩ := pre
  refine ⟨?_, by rw [e]; rfl, fun y hy => ?_⟩
  · rw [hbacks, State.ctx_modCtx_same (s := (s.setInst (x.startedIn s)).touch (queueUnit x.queue)) hsz]
    exact List.mem_cons_self ..
  · refine hys y ?_
    have len : s.insts.length = (s.setInst (x.startedIn s)).insts.length := (List.length_map _).symm
    rw [e, len] at hy
    have hy : y ∈ ((s.setInst (x.startedIn s)).insts ++ ys).drop (s.setInst (x.startedIn s)).insts.length := hy
    rwa [List.drop_left' rfl] at hy

/-- Settles O10: the WAIT's four outcomes, each a start or a sleep, and the prefetches of a backward's first descriptor. -/
theorem accessSideStartsInOrder : Obligations.AccessSideStartsInOrder := by
  unfold Obligations.AccessSideStartsInOrder
  intro i s x hx hph hun ha hf ho he hc hctx w begins
  have hid : x.id = i := by simpa using List.find?_some hx
  subst hid
  have run : exec (.descriptorAccessStart x.id) s = .next (s.accessStart x.id) := act_of_wf (c := .descriptorAccessStart x.id) rfl _
  have start := State.accessStart_eq hx hph hun ha hf ho he hc
  obtain ⟨b, hb⟩ := s.bindEpi_eq x
  rw [hb] at start
  generalize hy : ({ x with bound := b } : Inst) = y at start
  have same : y.id = x.id ∧ y.ctx = x.ctx ∧ y.words = x.words := by subst hy; exact ⟨rfl, rfl, rfl⟩
  obtain ⟨hyid, hyctx, hyw⟩ := same
  have hset : (s.setInst y).inst? y.id = some y := (s.inst?_setInst y y.id).trans ((if_pos rfl).trans (by rw [hyid, hx]; rfl))
  have words : y.waitMode = x.waitMode ∧ y.headerWait = w ∧ y.job = x.job ∧ y.gradLg = x.gradLg := by subst hy; exact ⟨rfl, rfl, rfl, rfl⟩
  obtain ⟨hmode, hwait, hjob, hgrad⟩ := words
  have hun : w.unit < 64 := bits_lt ..
  have hix : w.index < 8192 := bits_lt ..
  -- a start in a state of the same clock, step and stores
  have begun : ∀ u : State, u.inst? y.id = some y → u.clock = s.clock → u.fsStep x.ctx = s.fsStep x.ctx → s.StoresKept u →
      begins (u.startAccess y.id) ∧ (u.startAccess y.id).semVal w.unit w.index = u.semVal w.unit w.index := fun u h hclk hfs hst => by
    have st := State.startAccess_started h
    exact ⟨st.begins (x := x) ⟨hyid, hyctx, hyw⟩ hclk hfs hst,
      congrArg BitVec.toNat (st.regs _ (semOff_not_mem_startTouch hun hix (hyctx ▸ hctx)))⟩
  have atOnce := begun (s.setInst y) hset rfl rfl (State.storesKept_of_eq rfl rfl rfl)
  have met := fun (h0 : x.waitMode ≠ 0) (ho : s.semOwned w.unit w.index x.job = true) hr (t : State) =>
    State.headerWait_met (s := s.setInst y) (x := y) (t := t) (hmode ▸ h0) (by rw [hwait, hjob]; exact ho) (by rw [hwait]; exact hr)
  rw [hwait] at met
  refine ⟨fun h0 => ⟨_, run, ?_⟩, fun h0 howned hacq hn => ⟨_, run, ?_⟩, fun h0 howned hacq hring hn => ⟨_, run, ?_⟩,
    fun h0 howned hacq hn => ⟨_, { y with phase := .waiting, wait := some w, sleepAt := s.clock.now, lends := false }, run, ?_⟩, fun lg h0 hsz hg hofl hbk => ⟨_, run, ?_⟩⟩
  · rw [start, State.headerWait_none (hmode.trans h0)]
    exact atOnce.1
  · rw [start, met h0 howned (.inl hacq) _ (State.tryWait_met hn hacq)]
    exact atOnce
  · obtain ⟨r, wk, c, e, hval⟩ := State.semPut_plain (s := s.setInst y) (s.semVal w.unit w.index - w.n) hix hring
    have hfs : ((s.setInst y).semPut w.unit w.index (s.semVal w.unit w.index - w.n)).fsStep x.ctx = s.fsStep x.ctx :=
      congrArg BitVec.toNat (((s.setInst y).semPut_frame w.unit w.index _).1 _ (fsStep_not_mem_semTouch hctx))
    have small : s.semVal w.unit w.index < 2 ^ 32 := BitVec.isLt _
    rw [start, met h0 howned (.inr hring) _ (State.tryWait_acquired hn hacq hring)]
    obtain ⟨h1, h2⟩ := begun _ (by rw [e]; exact hset) (by rw [e]; rfl) hfs (by rw [e]; exact State.storesKept_of_eq rfl rfl rfl)
    exact ⟨h1, h2.trans (hval.trans (Nat.mod_eq_of_lt (by omega)))⟩
  · rw [start, State.headerWait_sleeps (s := s.setInst y) (hmode ▸ h0) (by rw [hwait, hjob]; exact howned) (.inl (by rw [hwait]; exact hacq))
      (by rw [hwait]; exact State.tryWait_short hn), hwait]
    exact ⟨((s.setInst y).inst?_setInst _ x.id).trans ((if_pos hyid.symm).trans (by rw [← hyid, hset]; rfl)), rfl, rfl⟩
  · rw [start, State.headerWait_none (hmode.trans h0)]
    have first := State.startAccess_first (s := s.setInst y) hset (by
      rw [hyctx]
      simp only [State.sized, Bool.and_eq_true, beq_iff_eq] at hsz
      exact hsz.1 ▸ hctx) (hgrad.trans hg) (by rw [hyctx]; exact hofl) (by rw [hyctx]; exact hbk)
    rw [hyctx, State.setInst, List.length_map] at first
    exact ⟨atOnce.1, first⟩

end Sys2Proof.Machine
end

section
/-! PROOFS, family 02_command_model: what a warm reset keeps (O32). -/
namespace Sys2Proof.Machine

/-! ## Steps of a reset that keep HBM and the registers of rings and contexts -/

/-- HBM, its Diacritics and the registers of `P` are as before; memory stays in canonical form. -/
structure State.WarmKept (P : Nat → Prop) (s t : State) : Prop where
  regs : ∀ o, P o → t.reg o = s.reg o
  mem : s.memOk = true → t.memOk = true ∧ ∀ a, hbmBase ≤ a → memByte t.mem a = memByte s.mem a ∧ t.diacPhys a = s.diacPhys a

section
variable {P : Nat → Prop} {s t u : State}

theorem State.WarmKept.of_regs (hr : ∀ o, P o → t.reg o = s.reg o) (hm : t.mem = s.mem) (hd : t.diacs = s.diacs) : s.WarmKept P t :=
  ⟨hr, fun h => ⟨(State.memOk_congr hm hd).trans h, fun a _ => ⟨by rw [hm], by rw [State.diacPhys, State.diacPhys, hd]⟩⟩⟩

theorem State.WarmKept.of_eq (hr : t.regs = s.regs) (hm : t.mem = s.mem) (hd : t.diacs = s.diacs) : s.WarmKept P t :=
  .of_regs (fun _ _ => State.reg_congr hr _) hm hd

theorem State.WarmKept.refl (s : State) : s.WarmKept P s := .of_eq rfl rfl rfl

theorem State.WarmKept.trans (h : s.WarmKept P t) (g : t.WarmKept P u) : s.WarmKept P u :=
  ⟨fun o ho => (g.regs o ho).trans (h.regs o ho), fun hm => by
    obtain ⟨ht, h1⟩ := h.mem hm
    obtain ⟨hu, h2⟩ := g.mem ht
    exact ⟨hu, fun a ha => ⟨(h2 a ha).1.trans (h1 a ha).1, (h2 a ha).2.trans (h1 a ha).2⟩⟩⟩

theorem State.WarmKept.setRst (h : s.WarmKept P t) (r : ResetM) : s.WarmKept P { t with rst := r } := h.trans (.of_eq rfl rfl rfl)

theorem State.WarmKept.mono {Q : Nat → Prop} (h : s.WarmKept P t) (hq : ∀ o, Q o → P o) : s.WarmKept Q t :=
  ⟨fun o ho => h.regs o (hq o ho), h.mem⟩

theorem State.WarmKept.setReg (h : s.WarmKept P t) {off : Nat} (ho : ¬P off) (v : Word) : s.WarmKept P (t.setReg off v) :=
  h.trans (.of_regs (fun o hP => t.regsKept_setReg off v o (by rintro hm; exact ho (List.mem_singleton.1 hm ▸ hP))) rfl rfl)

theorem State.WarmKept.setF (h : s.WarmKept P t) {off : Nat} (ho : ¬P off) (lo w x : Nat) : s.WarmKept P (t.setF off lo w x) :=
  h.setReg ho _

theorem State.WarmKept.dropRegs (h : s.WarmKept P t) {p : Nat → Bool} (hp : ∀ o, P o → p o = false) : s.WarmKept P (t.dropRegs p) :=
  h.trans (.of_regs (fun _ ho => t.dropRegs_reg (hp _ ho)) rfl rfl)

/-- A step that keeps them may be repeated. -/
theorem State.WarmKept.foldl {α : Type} {f : State → α → State} {l : List α} (h : s.WarmKept P t)
    (hf : ∀ a ∈ l, ∀ t : State, t.WarmKept P (f t a)) : s.WarmKept P (l.foldl f t) := by
  induction l generalizing t with
  | nil => exact h
  | cons a l ih => exact ih (h.trans (hf a (by simp) t)) fun b hb => hf b (by simp [hb])

theorem State.WarmKept.logEv (h : s.WarmKept P t) (k j : Nat) (ws : List Nat) : s.WarmKept P (t.logEv k j ws) := by
  obtain ⟨l, r, hd, e⟩ := t.logEv_eq k j ws
  exact h.trans (.of_eq (by rw [e]) (by rw [e]) (by rw [e]))
end

/-! ## The parts of a warm reset (R713, R726) -/

/-- Registers of submission rings and contexts, but for the words that hold ring enables. -/
def ringPos (o : Nat) : Prop := 0x50000 ≤ o ∧ o < 0x100000 ∧ o % 64 ≠ 8

theorem semOff_ge (u i : Nat) : 0x100000 ≤ semOff u i := by
  unfold semOff clusterOff dieOff
  split <;> omega

theorem ownerOff_ge (u b : Nat) : 0x100000 ≤ ownerOff u b := by
  unfold ownerOff clusterOff dieOff
  split <;> omega

theorem not_ringPos_of_ge {o : Nat} (h : 0x100000 ≤ o) : ¬ringPos o := fun hp => absurd hp.2.1 (by omega)

section
variable {s t : State}

theorem State.WarmKept.clearSync (h : s.WarmKept ringPos t) (u : Nat) : s.WarmKept ringPos (t.clearSync u) := by
  have hdrop := h.dropRegs (p := fun o => decide (semOff u 0 ≤ o) && decide (o < semOff u 0 + 4 * semCount u)) fun o ho => by
    have := semOff_ge u 0
    have := ho.2.1
    simp
    omega
  have owners := hdrop.foldl (f := fun s b => if s.rf (ownerOff u b) 12 1 = 1 then s.setF (ownerOff u b) 12 1 0 else s)
    (l := List.range (if u < 32 then 64 else 128)) fun b _ t =>
      ite_keeps (P := t.WarmKept ringPos) ((State.WarmKept.refl t).setF (not_ringPos_of_ge (ownerOff_ge u b)) _ _ _) (.refl t)
  unfold State.clearSync
  dsimp only
  refine ite_keeps (P := s.WarmKept ringPos) (State.WarmKept.foldl (owners.trans (.of_eq rfl rfl rfl)) fun r _ t => ?_)
    (owners.trans (.of_eq rfl rfl rfl))
  have high : ¬ringPos (ringOff u r 16) := not_ringPos_of_ge (by unfold ringOff clusterOff; omega)
  exact ite_keeps (P := t.WarmKept ringPos) ((State.WarmKept.refl t).setF high _ _ _) (.refl t)

/-- No SSM of the device reaches into HBM. -/
theorem ssm_below_hbm {c : Nat} (hc : c < 32) : ssmBase c + ssmSize ≤ hbmBase := by
  unfold ssmBase ssmSize hbmBase
  omega

theorem State.WarmKept.clearSsm (h : s.WarmKept ringPos t) {c : Nat} (hc : c < 32) : s.WarmKept ringPos (t.clearSsm c) := by
  refine h.trans ⟨fun _ _ => rfl, fun hm => ?_⟩
  obtain ⟨hmem, hdiac⟩ : Memory.wf t.mem = true ∧ Memory.wf t.diacs = true := by simpa [State.memOk] using hm
  have below := ssm_below_hbm hc
  refine ⟨?_, fun a ha => ⟨?_, ?_⟩⟩
  · simp only [State.memOk, State.clearSsm, Memory.wf_memClear hmem, Memory.wf_memClear hdiac, Bool.and_self]
  · exact (memByte_memClear hmem ..).trans (if_neg (by omega))
  · unfold State.diacPhys State.clearSsm
    dsimp only
    rw [memRead_eq (Memory.wf_memClear hdiac ..), memRead_eq hdiac]
    congr 2
    refine List.map_congr_left fun k _ => ?_
    exact (memByte_memClear hdiac ..).trans (if_neg (by omega))

theorem State.WarmKept.clearHot (h : s.WarmKept ringPos t) (c : Nat) : s.WarmKept ringPos (t.clearHot c) := by
  unfold State.clearHot
  split
  · refine State.WarmKept.dropRegs ?_ fun o ho => ?_
    · exact h.trans (.of_eq rfl rfl rfl)
    have := ho.2.1
    simp only [clusterOff, beq_eq_false_iff_ne]
    omega
  · exact h

end

/-- What a context's state becomes: RECOVERY where it runs (R101). -/
def warmState (v : Nat) : Nat := if v = 2 ∨ v = 3 ∨ v = 4 then 4 else v

/-- The rings of a context are disabled, and it is sent to RECOVERY where it runs. -/
def State.warmCtx (s : State) (n : Nat) : State :=
  let s := s.disableRings n
  if s.jobState n = 2 ∨ s.jobState n = 3 ∨ s.jobState n = 4 then s.setJobState n 4 else s

/-- Disabling rings clears enables only. -/
theorem State.disableRings_kept (s : State) (n : Nat) : s.WarmKept ringPos (s.disableRings n) := by
  have sq : ∀ g, ¬ringPos (sqOff g 8) := fun g h => by have := h.2.2; unfold sqOff at this; omega
  have cq : ∀ g, ¬ringPos (cqOff g 8) := fun g h => by have := h.2.2; unfold cqOff at this; omega
  refine State.WarmKept.trans (State.WarmKept.foldl (State.WarmKept.foldl (.refl s) fun g _ t => ?_) fun g _ t => ?_) (.of_eq rfl rfl rfl)
  · exact ite_keeps (P := t.WarmKept ringPos) ((State.WarmKept.refl t).setF (sq g) _ _ _) (.refl t)
  · exact ite_keeps (P := t.WarmKept ringPos) ((State.WarmKept.refl t).setF (cq g) _ _ _) (.refl t)

/-- Registers of submission rings and contexts, but for enables and the states of contexts. -/
def ringPosOnly (o : Nat) : Prop := ringPos o ∧ o % 0x8000 ≠ 4

theorem State.warmCtx_kept (s : State) (n : Nat) : s.WarmKept ringPosOnly (s.warmCtx n) := by
  have rings := (s.disableRings_kept n).mono (Q := ringPosOnly) fun o h => h.1
  exact ite_keeps (P := s.WarmKept ringPosOnly) (rings.setF (fun h => by have := h.2; unfold ctxOff at this; omega) _ _ _) rings

theorem ringPos_state {n : Nat} (hn : n < 16) : ringPos (ctxOff n 4) := by
  unfold ringPos ctxOff
  omega

theorem State.jobState_of_warmKept {s t : State} (h : s.WarmKept ringPos t) {n : Nat} (hn : n < 16) : t.jobState n = s.jobState n := by
  rw [State.jobState, State.rf, h.regs _ (ringPos_state hn)]
  rfl

theorem State.jobState_warmCtx (s : State) (n : Nat) {m : Nat} (hm : m < 16) :
    (s.warmCtx n).jobState m = if m = n then warmState (s.jobState n) else s.jobState m := by
  have rings := State.jobState_of_warmKept (s.disableRings_kept n) hm
  unfold State.warmCtx warmState
  dsimp only
  by_cases h : m = n
  · subst h
    rw [rings, if_pos rfl]
    split
    · exact State.jobState_setJobState ..
    · exact rings
  · rw [if_neg h]
    split
    · exact (State.jobState_setJobState_of_ne _ _ h).trans rings
    · exact rings

theorem warmState_idem (v : Nat) : warmState (warmState v) = warmState v := by
  unfold warmState
  split <;> simp_all

/-- Every context of a list is sent to RECOVERY where it runs. -/
theorem State.jobState_foldl_warmCtx (l : List Nat) (s : State) {m : Nat} (hm : m < 16) :
    (l.foldl State.warmCtx s).jobState m = if m ∈ l then warmState (s.jobState m) else s.jobState m := by
  induction l generalizing s with
  | nil => simp
  | cons n l ih =>
    rw [List.foldl_cons, ih, s.jobState_warmCtx n hm]
    by_cases h : m = n
    · subst h
      simp [warmState_idem]
    · simp [h]

/-- SSM, semaphores, cores, and the contexts' states: the parts of `warmClear` that reach registers or memory. -/
def State.warmUnits (s : State) : State :=
  let s := (List.range 32).foldl (fun s c =>
    ((((s.clearSync c).clearSsm c).clearHot c).modCore c fun _ => Core.reset).dropRegs fun o => o == clusterOff c 0x108) s
  (upto 32 4).foldl (fun s u => s.clearSync u) s

theorem State.warmUnits_kept (s : State) : s.WarmKept ringPos s.warmUnits := by
  refine State.WarmKept.foldl (State.WarmKept.foldl (.refl s) fun c hc t => ?_) fun u _ t => (State.WarmKept.refl t).clearSync u
  have cleared := (((State.WarmKept.refl t).clearSync c).clearSsm (List.mem_range.1 hc)).clearHot c
  refine State.WarmKept.dropRegs ?_ fun o ho => ?_
  · exact cleared.trans (.of_eq rfl rfl rfl)
  have := ho.2.1
  simp only [clusterOff, beq_eq_false_iff_ne]
  omega

/-- What `warmClear` clears outside registers and memory. -/
def State.warmRest (s : State) : State :=
  { s with
    insts := [], wakes := [], wc := [], hot := [], tileq := [], mcores := List.replicate 4 Hart.reset,
    host := { s.host with cqs := s.host.cqs.map (fun c => { c with reserved := 0, timer := none }), latches := [], planCache := [], raised := [], held := [] },
    fab := { Fabric.reset with
      links := s.fab.links, hopExpired := s.fab.hopExpired, pktAged := s.fab.pktAged, badKind := s.fab.badKind,
      injectOff := s.fab.injectOff },
    pow := { s.pow with asleep := [], deepDies := [], ioLight := [], wakes := [], lent := [], poolOffers := [] },
    rst := { s.rst with clusterInReset := [] } }

theorem State.warmClear_eq (s : State) : s.warmClear =
    ((((List.range 16).foldl State.warmCtx s.warmUnits).setF 0x10010 16 1 0).setF 0x30004 0 2 0).warmRest := rfl

theorem State.warmRest_kept {P : Nat → Prop} (s : State) : s.WarmKept P s.warmRest := .of_eq rfl rfl rfl

theorem not_ringPos_of_lt {o : Nat} (h : o < 0x50000) : ¬ringPos o := fun hp => absurd hp.1 (by omega)

/-- `warmClear` keeps HBM and the positions of rings, and sends running contexts to RECOVERY. -/
theorem State.warmClear_kept (s : State) : s.WarmKept ringPosOnly s.warmClear ∧ ∀ n < 16, s.warmClear.jobState n = warmState (s.jobState n) := by
  have units := s.warmUnits_kept
  rw [s.warmClear_eq]
  generalize s.warmUnits = u at units
  have after : ∀ v : State, v.WarmKept ringPos ((v.setF 0x10010 16 1 0).setF 0x30004 0 2 0).warmRest := fun v =>
    (((State.WarmKept.refl v).setF (not_ringPos_of_lt (by omega)) _ _ _).setF (not_ringPos_of_lt (by omega)) _ _ _).trans (State.warmRest_kept _)
  have only : ∀ o, ringPosOnly o → ringPos o := fun o h => h.1
  refine ⟨((units.mono only).foldl fun n _ t => t.warmCtx_kept n).trans ((after _).mono only), fun n hn => ?_⟩
  rw [State.jobState_of_warmKept (after _) hn, u.jobState_foldl_warmCtx _ hn, if_pos (List.mem_range.2 hn), State.jobState_of_warmKept units hn]

/-- The GLOBAL_STATUS and pins of READY touch neither ring, context nor memory. -/
theorem State.setReady_kept (s : State) (b : Bool) : s.WarmKept ringPos (s.setReady b) :=
  ((State.WarmKept.refl s).setF (not_ringPos_of_lt (by decide)) _ _ _).trans (.of_eq rfl rfl rfl)

theorem State.logWarm_kept (s : State) : s.WarmKept ringPos s.logWarm := by
  unfold State.logWarm
  exact ite_keeps (P := s.WarmKept ringPos) ((State.WarmKept.refl s).logEv ..) (State.WarmKept.foldl (.refl s) fun l _ t => (State.WarmKept.refl t).logEv ..)

/-- What an assertion does after `warmClear`: what its level clears beyond, and the registers and record that name it. -/
def State.assertRest (s : State) (level source : Nat) : State :=
  let s := if 2 ≤ level then { s.coldClear with rst := { s.rst with pins := s.fusePins } } else s
  let s := if level = 3 then s.standbyLost else s
  let s := s.setF globalStatus 1 1 (if s.rst.faultL then 1 else 0)
  let n := if level = 3 then 0 else satAdd 16 (s.rf 0x10004 8 16) 1
  let s := s.setReg 0x10004 (BitVec.ofNat 32 (source + level * 2 ^ 4 + n * 2 ^ 8))
  let s := { s with rst := { s.rst with phase := .asserted, level := level, source := source } }
  if level = 3 then s else s.logEv 0x0701 0 [source, level, 0, s.clock.cal % 2 ^ 32]

theorem State.assertReset_eq (s : State) (level source : Nat) :
    s.assertReset level source = (if level = 1 then (s.setReady false).logWarm else s.setReady false).warmClear.assertRest level source := rfl

/-- A level 1 reset clears nothing beyond `warmClear`. -/
theorem State.assertRest_kept (s : State) (source : Nat) : s.WarmKept ringPos (s.assertRest 1 source) := by
  unfold State.assertRest
  simp only [Nat.reduceLeDiff, Nat.reduceEqDiff, if_false]
  refine State.WarmKept.logEv (State.WarmKept.setRst ?_ _) ..
  exact ((State.WarmKept.refl s).setF (not_ringPos_of_lt (by decide)) _ _ _).setReg (not_ringPos_of_lt (by omega)) _

theorem ringPosOnly_sqOff {g rel : Nat} (hg : g < 1024) (hr : rel = 0xC ∨ rel = 0x10) : ringPosOnly (sqOff g rel) := by
  unfold ringPosOnly ringPos sqOff
  omega

/-- Settles O32: the reset's parts in turn. -/
theorem warmResetKeepsMemoryAndRingPositions : Obligations.WarmResetKeepsMemoryAndRingPositions := by
  unfold Obligations.WarmResetKeepsMemoryAndRingPositions
  intro s ns hm hph hlow hns
  have run : exec (.wrstL ns) s = .next (s.wrstPulse ns) := act_of_wf (c := .wrstL ns) rfl _
  have pulse : s.wrstPulse ns = State.assertReset { s with rst := { s.rst with wrstLow := s.rst.wrstLow || !s.absorbs 1 } } 1 4 := by
    have heard : s.pulse 1000 5000 ns = (true, s) := (if_neg (by omega)).trans (if_pos hns)
    unfold State.wrstPulse
    rw [heard]
    dsimp only
    rw [if_neg (by simp [hlow])]
    exact if_neg (by simp [State.absorbs, hph])
  refine ⟨_, run, ?_⟩
  rw [pulse, State.assertReset_eq, if_pos rfl]
  generalize hv : ({ s with rst := { s.rst with wrstLow := s.rst.wrstLow || !s.absorbs 1 } } : State) = v
  have begun : s.WarmKept ringPos (v.setReady false).logWarm :=
    (State.WarmKept.trans (by rw [← hv]; exact .of_eq rfl rfl rfl) (v.setReady_kept false)).trans (State.logWarm_kept _)
  generalize (v.setReady false).logWarm = u at begun
  obtain ⟨cleared, states⟩ := u.warmClear_kept
  have ended := u.warmClear.assertRest_kept 4
  have only : ∀ o, ringPosOnly o → ringPos o := fun o h => h.1
  have all := ((begun.mono only).trans cleared).trans (ended.mono only)
  obtain ⟨-, hmem⟩ := all.mem hm
  refine ⟨fun a ha => (hmem a ha).1, fun a ha => (hmem a ha).2, fun g hg => ⟨?_, ?_⟩, fun n hn => ?_⟩
  · rw [State.sqHead, State.rf, all.regs _ (ringPosOnly_sqOff hg (.inl rfl))]
    rfl
  · rw [State.sqTail, State.rf, all.regs _ (ringPosOnly_sqOff hg (.inr rfl))]
    rfl
  · rw [State.jobState_of_warmKept ended hn, states n hn, State.jobState_of_warmKept begun hn]
    rfl

end Sys2Proof.Machine
end

section
/-! PROOFS, family 02_command_model: registers at their reset values (O4). -/
namespace Sys2Proof.Machine

/-! ## Fields of registers at reset -/

/-- A field whose reset value no row of its block that holds the offset sets is 0. -/
theorem State.rf_reset_zero {off rel lo w : Nat} {b : Block} {rows : List RegRow} (hb : blockOf off = (b, rel)) (hsub : rowsOf b rel ⊆ rows)
    (hz : ∀ r ∈ rows, fld r.resetWord lo w ≠ 0 → r.hit rel = false) : State.reset.rf off lo w = 0 := by
  show fld (resetWordAt off) lo w = 0
  unfold resetWordAt findRow
  rw [hb]
  dsimp only
  split
  · rename_i r hr
    by_contra hne
    exact absurd (hz r (hsub (List.mem_of_find?_eq_some hr)) hne) (by simp [List.find?_some hr])
  · exact fld_zero ..

theorem blockOf_ctxOff {n rel : Nat} (hn : n < 16) (hr : rel < 0x8000) : blockOf (ctxOff n rel) = (.job n, rel) := by
  have e1 : (ctxOff n rel - 0x80000) / 0x8000 = n := by unfold ctxOff; omega
  have e2 : (ctxOff n rel - 0x80000) % 0x8000 = rel := by unfold ctxOff; omega
  have lo : 0x80000 ≤ ctxOff n rel := by unfold ctxOff; omega
  have hi : ctxOff n rel < 0x100000 := by unfold ctxOff; omega
  unfold blockOf
  rw [if_neg (by omega), if_neg (by omega), if_neg (by omega), if_neg (by omega), if_neg (by omega), if_pos hi, e1, e2]

theorem blockOf_host {off : Nat} (h1 : 0x40000 ≤ off) (h2 : off < 0x80000) : blockOf off = (.host, off - 0x40000) := by
  unfold blockOf
  rw [if_neg (by omega), if_neg (by omega), if_neg (by omega), if_neg (by omega), if_pos h2]

theorem blockOf_dieOff {d rel : Nat} (hd : d < 4) (hr : rel < 0x40000) : blockOf (dieOff d rel) = (.fabric d, rel) := by
  have e1 : (dieOff d rel - 0x100000) / 0x40000 = d := by unfold dieOff; omega
  have e2 : (dieOff d rel - 0x100000) % 0x40000 = rel := by unfold dieOff; omega
  have lo : 0x100000 ≤ dieOff d rel := by unfold dieOff; omega
  have hi : dieOff d rel < 0x200000 := by unfold dieOff; omega
  unfold blockOf
  rw [if_neg (by omega), if_neg (by omega), if_neg (by omega), if_neg (by omega), if_neg (by omega), if_neg (by omega), if_pos hi, e1, e2]

theorem blockOf_clusterOff {c rel : Nat} (hc : c < 32) (hr : rel < 0x40000) : blockOf (clusterOff c rel) = (.compute c, rel) := by
  have e1 : (clusterOff c rel - 0x1000000) / 0x40000 = c := by unfold clusterOff; omega
  have e2 : (clusterOff c rel - 0x1000000) % 0x40000 = rel := by unfold clusterOff; omega
  have lo : 0x1000000 ≤ clusterOff c rel := by unfold clusterOff; omega
  have hi : clusterOff c rel < 0x1800000 := by unfold clusterOff; omega
  unfold blockOf
  rw [if_neg (by omega), if_neg (by omega), if_neg (by omega), if_neg (by omega), if_neg (by omega), if_neg (by omega), if_neg (by omega),
    if_neg (by omega), if_neg (by omega), if_neg (by omega), if_pos hi, e1, e2]

theorem rowsOf_fabric (d rel : Nat) : rowsOf (.fabric d) rel ⊆ fabricRows :=
  ite_keeps (P := (· ⊆ fabricRows)) (List.Subset.refl _) (List.nil_subset _)

theorem rowsOf_compute (c rel : Nat) : rowsOf (.compute c) rel ⊆ computeRows :=
  ite_keeps (P := (· ⊆ computeRows)) (List.Subset.refl _) (List.nil_subset _)

theorem State.rf_reset_job {n rel lo w : Nat} (hn : n < 16) (hr : rel < 0x8000)
    (hz : ∀ r ∈ jobRows, fld r.resetWord lo w ≠ 0 → r.hit rel = false) : State.reset.rf (ctxOff n rel) lo w = 0 :=
  State.rf_reset_zero (blockOf_ctxOff hn hr) (List.Subset.refl _) hz

theorem State.rf_reset_cluster {c rel lo w : Nat} (hc : c < 32) (hr : rel < 0x40000)
    (hz : ∀ r ∈ computeRows, fld r.resetWord lo w ≠ 0 → r.hit rel = false) : State.reset.rf (clusterOff c rel) lo w = 0 :=
  State.rf_reset_zero (blockOf_clusterOff hc hr) (rowsOf_compute c rel) hz

theorem State.rf_reset_die {d rel lo w : Nat} (hd : d < 4) (hr : rel < 0x40000)
    (hz : ∀ r ∈ fabricRows, fld r.resetWord lo w ≠ 0 → r.hit rel = false) : State.reset.rf (dieOff d rel) lo w = 0 :=
  State.rf_reset_zero (blockOf_dieOff hd hr) (rowsOf_fabric d rel) hz

/-- No row that holds a semaphore of a cluster resets to another value than 0: only RING_GEOM does, below them. -/
theorem computeRows_sem {rel : Nat} (h : 0x10000 ≤ rel) {r : RegRow} (hr : r ∈ computeRows) (hz : fld r.resetWord 0 32 ≠ 0) : r.hit rel = false := by
  have geom : ∀ r ∈ computeRows, fld r.resetWord 0 32 ≠ 0 → r.base = 0x2004 ∧ r.dims = [(64, 64)] := by decide
  obtain ⟨hb, hd⟩ := geom r hr hz
  have : ¬(rel - 0x2004) / 64 < 64 := by omega
  simp [RegRow.hit, hb, hd, inDims, this]

/-- The same of an I/O die: LINK_CFG lies below, FAB_CTL1 and MGR_CFG above. -/
theorem fabricRows_sem {rel : Nat} (h : 0x20000 ≤ rel) (h' : rel < 0x38000) {r : RegRow} (hr : r ∈ fabricRows) (hz : fld r.resetWord 0 32 ≠ 0) :
    r.hit rel = false := by
  have apart : ∀ r ∈ fabricRows, fld r.resetWord 0 32 ≠ 0 → r.base = 0 ∧ r.dims = [(8192, 16)] ∨ 0x38000 ≤ r.base := by decide
  rcases apart r hr hz with ⟨hb, hd⟩ | hb
  · have : ¬rel / 8192 < 16 := by omega
    simp [RegRow.hit, hb, hd, inDims, this]
  · have : ¬r.base ≤ rel := by omega
    simp [RegRow.hit, this]

/-- RING_GEOM, the one row of a cluster whose bit 0 is set at reset, holds no RING_CTL. -/
theorem computeRows_ringCtl (r : Nat) {row : RegRow} (hr : row ∈ computeRows) (hz : fld row.resetWord 0 1 ≠ 0) :
    row.hit (0x2000 + 0x40 * r + 16) = false := by
  have geom : ∀ r ∈ computeRows, fld r.resetWord 0 1 ≠ 0 → r.base = 0x2004 ∧ r.dims = [(64, 64)] := by decide
  obtain ⟨hb, hd⟩ := geom row hr hz
  have : (0x2000 + 0x40 * r + 16 - 0x2004) % 64 ≠ 0 := by omega
  simp only [RegRow.hit, hb, hd, inDims, beq_eq_false_iff_ne.2 this, Bool.and_false]

theorem State.semVal_reset {u i : Nat} (hu : u < 36) (hi : i < semCount u) : State.reset.semVal u i = 0 := by
  have word : State.reset.semVal u i = State.reset.rf (semOff u i) 0 32 := by
    show _ = bits _ 0 32
    unfold bits
    rw [Nat.pow_zero, Nat.div_one]
    exact (Nat.mod_eq_of_lt (BitVec.isLt _)).symm
  unfold semCount at hi
  rw [word, semOff]
  split <;> rename_i h <;> simp only [h, if_true, if_false] at hi
  · exact State.rf_reset_cluster h (by omega) fun r hr hz => computeRows_sem (by omega) hr hz
  · exact State.rf_reset_die (by omega) (by omega) fun r hr hz => fabricRows_sem (by omega) (by omega) hr hz

theorem State.owner_reset {u i : Nat} (hu : u < 36) (hi : i < semCount u) : State.reset.rf (ownerOff u (i / 64)) 12 1 = 0 := by
  have cluster : ∀ r ∈ computeRows, fld r.resetWord 12 1 = 0 := by decide
  have die : ∀ r ∈ fabricRows, fld r.resetWord 12 1 = 0 := by decide
  unfold semCount at hi
  rw [ownerOff]
  split <;> rename_i h <;> simp only [h, if_true, if_false] at hi
  · exact State.rf_reset_cluster h (by omega) fun r hr hz => absurd (cluster r hr) hz
  · exact State.rf_reset_die (by omega) (by omega) fun r hr hz => absurd (die r hr) hz

theorem State.enables_reset {g : Nat} (hg : g < 1024) : State.reset.sqEnabled g = false ∧ State.reset.cqEnabled g = false := by
  have host : ∀ r ∈ hostRows, fld r.resetWord 16 1 = 0 := by decide
  have off : ∀ o, 0x40000 ≤ o → o < 0x80000 → State.reset.rf o 16 1 = 0 := fun o h1 h2 =>
    State.rf_reset_zero (blockOf_host h1 h2) (List.Subset.refl _) fun r hr hz => absurd (host r hr) hz
  exact ⟨by rw [State.sqEnabled, off _ (by unfold sqOff; omega) (by unfold sqOff; omega)]; rfl,
    by rw [State.cqEnabled, off _ (by unfold cqOff; omega) (by unfold cqOff; omega)]; rfl⟩

theorem State.ctx_reset {n : Nat} (hn : n < 16) : State.reset.jobState n = 0 ∧ State.reset.fsStep n = 0 ∧ State.reset.parityEn n = false := by
  refine ⟨State.rf_reset_job hn (by omega) (by decide), ?_, ?_⟩
  · have word : fld (State.reset.reg (ctxOff n 0x804)) 0 32 = 0 := State.rf_reset_job hn (by omega) (by decide)
    rw [fld, bits, Nat.pow_zero, Nat.div_one, Nat.mod_eq_of_lt (BitVec.isLt _)] at word
    exact word
  · rw [State.parityEn, State.rf_reset_job hn (by omega) (by decide)]
    rfl

/-- Settles O4: fields of register arrays by the rows of their block, the rest by evaluation. -/
theorem resetStateAsStated : Obligations.ResetStateAsStated := by
  unfold Obligations.ResetStateAsStated
  refine ⟨⟨rfl, by decide, fun n hn => State.ctx_reset hn, fun g hg => State.enables_reset hg,
    fun u hu i hi => ⟨State.semVal_reset hu hi, State.owner_reset hu hi⟩, fun c hc r hr => ?_, by decide, by decide, by decide, rfl, rfl, rfl⟩,
    rfl, rfl, rfl⟩
  show (State.reset.rf (clusterOff c (0x2000 + 0x40 * r + 16)) 0 1 == 1) = false
  rw [State.rf_reset_cluster hc (by omega) fun row hrow hz => computeRows_ringCtl r hrow hz]
  rfl

end Sys2Proof.Machine
end

section
/-! PROOFS, family 02_command_model: a MOVE COPY whose staged bytes stand out of order (O43). -/
namespace Sys2Proof.Machine

/-! ## A copy of two bytes of device 1 across a granule boundary of SSM 0

`memRead` walks a list in canonical form, and the statement asks that form of memory but not of the bytes that READ_RSP packets have
staged in the descriptor. Out of order, one read of both bytes misses the second, which the read for its own destination granule finds. -/

/-- The staged bytes: 1 and 7 of device 1, with a cell of a lower address between them. -/
def strayStaged : List Host.Cell := [(2 ^ 48, 1#8), (0, 3#8), (2 ^ 48 + 1, 7#8)]

/-- The MOVE: two bytes from address 0 of device 1 to the last byte of the first granule of SSM 0 and the byte behind it; its read
has been answered. -/
def strayMove : Inst :=
  { Inst.fresh 0 0 0 0 true [1#32, 0#32, 0#32, 0#32, 0#32, 0#32, 0#32, 0#32, 0x10000#32, 0x100003FF#32, 0#32, 2#32, 0#32, 0#32, 0#32, 0#32] with
    phase := .started, staged := strayStaged, asked := [(2 ^ 48, 2)] }

def strayState : State := { State.reset with insts := [strayMove], nextInst := 1 }

def strayWork : Work := ⟨[(2 ^ 48, 2)], strayState.copyChunks strayMove strayMove.moveCfg (2 ^ 48) 0x100003FF 2, Chunk.empty, 255, 0, 0⟩

theorem strayWork_allOuts : strayWork.allOuts = [⟨0x100003FF, [1#8], 0x40000⟩, ⟨0x10000400, [7#8], 0x40001⟩] := by decide +kernel

theorem strayWork_parts : strayWork.chunks ++ [strayWork.fin] =
    [{ Chunk.empty with use := [(2 ^ 48, 1)], outs := [⟨0x100003FF, [1#8], 0x40000⟩] },
      { Chunk.empty with use := [(2 ^ 48 + 1, 1)], outs := [⟨0x10000400, [7#8], 0x40001⟩] }, Chunk.empty] := by decide +kernel

/-- The work meets no failure: only this device's SSM is written, and no Diacritic. -/
theorem strayWork_plain : strayState.WorkPlain strayMove strayWork where
  clear :=
    { granted := by decide +kernel
      reachable := by decide +kernel
      passes := by decide +kernel
      journal := by rw [strayWork_allOuts]; decide +kernel
      here := by rw [strayWork_allOuts]; decide +kernel
      diacsHere := by rw [strayWork_parts]; decide +kernel }
  mapped := by rw [strayWork_allOuts]; decide +kernel
  hbm := by rw [strayWork_parts]; decide +kernel

/-- The copy leaves 1 and 7 where one read of its source answers 1 and 0. -/
theorem strayMove_copy : memRead (strayState.move 0).mem 0x100003FF 2 = [1#8, 7#8] ∧ strayState.rdx strayMove (2 ^ 48) 2 = [1#8, 0#8] := by
  decide +kernel

/-- Refutes O43: its MOVE clause does not ask that the bytes staged from another device stand in canonical form (`Memory.wf x.staged`, as
READ_RSP keeps them). Out of order, the source read as one differs from the source read by destination granules, which the MOVE copies. -/
theorem not_moveFencePlanAndDump : ¬ Obligations.MoveFencePlanAndDump := by
  unfold Obligations.MoveFencePlanAndDump
  intro h
  obtain ⟨copy, -⟩ := h strayState strayMove rfl rfl rfl
  obtain ⟨t, ht, -, hmem, -⟩ := copy (by decide) (by decide) (by decide) (by decide) (by decide) (by decide +kernel) (by decide +kernel)
    (by decide +kernel) (by decide +kernel) strayWork_plain
  have run : exec (.move 0) strayState = .next (strayState.move 0) := act_of_wf (c := .move 0) rfl _
  cases (run.symm.trans ht)
  have := (strayMove_copy.1.symm.trans hmem).trans strayMove_copy.2
  exact absurd this (by decide)

end Sys2Proof.Machine
end

section
/-! PROOFS, family 02_command_model: a manager message that its receiver accepts (O56). -/
namespace Sys2Proof.Machine
variable (s : State)

/-! ## Receive flows (R597, R598) -/

theorem mem_insNat (k : Nat) (l : List Nat) : k ∈ insNat k l := by
  induction l with
  | nil => exact List.mem_singleton_self k
  | cons a t ih =>
    unfold insNat
    split
    · exact List.mem_cons_self ..
    · split
      · exact List.mem_cons.2 (.inl ‹_›)
      · exact List.mem_cons_of_mem _ ih

/-- A flow that is stored is the one found, and nothing but the receive flows changes. -/
theorem State.putRecv_frame (f : RecvFlow) : (s.putRecv f).flow? f.src = some f ∧
    ∃ r, s.putRecv f = { s with fab := { s.fab with recv := r } } := by
  unfold State.putRecv
  split
  · rename_i h
    refine ⟨?_, _, rfl⟩
    unfold State.flow?
    dsimp only
    rw [find?_map_replace RecvFlow.src, if_pos rfl, if_pos h]
  · rename_i h
    refine ⟨?_, _, rfl⟩
    unfold State.flow?
    rw [List.find?_append, List.find?_eq_none.2 fun g hg hs => h (List.any_eq_true.2 ⟨g, hg, hs⟩)]
    simp

/-- An ACK changes counts of its receive flow and the outbox; what is delivered stays so. -/
theorem State.sendAck_frame {f : RecvFlow} {src : Nat} (hf : s.flow? src = some f) :
    (∃ g, (s.sendAck src).flow? src = some g ∧ g.got = f.got) ∧
    ∃ r b, s.sendAck src = { s with fab := { s.fab with recv := r, outbox := b } } := by
  have hsrc : f.src = src := by simpa using List.find?_some hf
  obtain ⟨hg, r, e⟩ := s.putRecv_frame { f with unacked := 0, ackDue := none }
  unfold State.sendAck
  rw [hf]
  dsimp only
  constructor
  · refine ⟨{ f with unacked := 0, ackDue := none }, ?_, rfl⟩
    rw [← hsrc]
    exact hg
  · rw [e]
    exact ⟨r, _, rfl⟩

/-- A flow with one more packet delivered, at a moment. -/
def RecvFlow.mark (f : RecvFlow) (seq now : Nat) : RecvFlow :=
  { f with got := insNat seq f.got, unacked := f.unacked + 1, ackDue := some (f.ackDue.getD (now + 1000)), lastAt := now }

/-- A delivered packet is marked in its flow; nothing but receive flows and the outbox changes. -/
theorem State.noteDelivered_frame {f : RecvFlow} {p : Packet} (hf : s.flow? p.src = some f) :
    (s.noteDelivered p.src p.seq).Took p ∧
    ∃ r b, s.noteDelivered p.src p.seq = { s with fab := { s.fab with recv := r, outbox := b } } := by
  have hsrc : f.src = p.src := by simpa using List.find?_some hf
  have step : s.noteDelivered p.src p.seq =
      if 32 ≤ f.unacked + 1 then (s.putRecv (f.mark p.seq s.clock.now)).sendAck p.src else s.putRecv (f.mark p.seq s.clock.now) := by
    unfold State.noteDelivered
    rw [hf]
    rfl
  have marked : p.seq ∈ (f.mark p.seq s.clock.now).got := mem_insNat ..
  obtain ⟨found, r, e⟩ := s.putRecv_frame (f.mark p.seq s.clock.now)
  rw [show (f.mark p.seq s.clock.now).src = p.src from hsrc] at found
  rw [step]
  split
  · obtain ⟨⟨k, hk, hgot⟩, r', b, e'⟩ := State.sendAck_frame _ found
    refine ⟨⟨k, hk, hgot ▸ marked⟩, r', b, ?_⟩
    rw [e', e]
  · exact ⟨⟨_, found, marked⟩, r, s.fab.outbox, e⟩

/-! ## A manager message (R674, R798) -/

/-- The flow of an accepted packet, its window moved to the floor that the packet carries. -/
def State.flowAt (s : State) (p : Packet) : RecvFlow :=
  ((s.flow? p.src).getD ⟨p.src, p.seqFloor, [], 0, none, s.clock.now⟩).slide p.seqFloor

theorem State.flowAt_src (p : Packet) : (s.flowAt p).src = p.src := by
  have slide : ∀ f : RecvFlow, (f.slide p.seqFloor).src = f.src := fun f =>
    ite_keeps (P := fun g : RecvFlow => g.src = f.src) rfl rfl
  unfold State.flowAt
  rw [slide]
  cases h : s.flow? p.src with
  | none => rfl
  | some f => simpa using List.find?_some h

/-- A packet that is new in its flow, of no group and not held, acts on the state with its flow open. -/
theorem State.takeSeq_new {p : Packet} {go : State → State × Verdict} (hroom : (s.flow? p.src).isSome = true ∨ s.fab.recv.length < 16384)
    (hnew : seqDist p.seq (s.flowAt p).rbase < 4096 ∧ (s.flowAt p).got.contains p.seq = false)
    (hheld : (s.fab.groups.any fun g => g.src == p.src && g.held.any fun h => h.seq == p.seq) = false) :
    s.takeSeq p [] go = (s.putRecv (s.flowAt p)).deliver p [] go := by
  obtain ⟨near, seen⟩ := hnew
  have room : ¬((s.flow? p.src).isNone = true ∧ 16384 ≤ s.fab.recv.length) := by
    rintro ⟨h1, h2⟩
    rcases hroom with h | h
    · rw [Option.isNone_iff_eq_none.1 h1] at h; cases h
    · omega
  have fresh : ¬(2 ^ 23 ≤ seqDist p.seq (s.flowAt p).rbase ∨ (s.flowAt p).got.contains p.seq = true) := by
    rw [seen]
    have : (4096 : Nat) < 2 ^ 23 := by decide
    simp only [Bool.false_eq_true, or_false]
    omega
  have unheld : ¬((s.putRecv (s.flowAt p)).fab.groups.any fun g => g.src == p.src && g.held.any fun h => h.seq == p.seq) = true := by
    obtain ⟨-, r, e⟩ := s.putRecv_frame (s.flowAt p)
    rw [e]
    simpa using hheld
  unfold State.takeSeq
  rw [if_neg room]
  exact (if_neg fresh).trans ((if_neg (Nat.not_le.2 near)).trans (if_neg unheld))

/-- A message of no count group is delivered as its meaning says. -/
theorem State.deliver_ctrl {p : Packet} {go : State → State × Verdict} (hk : p.kind = .ctrlMsg) (hg : p.group = 0)
    (hd : (go s).2 = .delivered) : s.deliver p [] go = (go s).1.noteDelivered p.src p.seq := by
  unfold State.deliver
  dsimp only
  rw [if_neg (by simp [hg]), if_neg (by simp [hk])]
  generalize go s = r at hd
  obtain ⟨t, v⟩ := r
  cases hd
  exact if_pos (.inl hg)

/-- The state in which an accepted packet acts: it has left its die's buffer, and its flow is open. -/
def State.opened (s : State) (p : Packet) : State := (s.popLocal p).putRecv (s.flowAt p)

theorem State.opened_frame (p : Packet) : (s.opened p).flow? p.src = some (s.flowAt p) ∧
    ∃ b r, s.opened p = { s with fab := { s.fab with buf := b, recv := r } } := by
  obtain ⟨found, r, e⟩ := (s.popLocal p).putRecv_frame (s.flowAt p)
  rw [s.flowAt_src] at found
  exact ⟨found, _, r, e⟩

/-- An accepted message of its type acts, and is marked delivered. -/
theorem State.arriveCtrl_eq {p : Packet} {type : Nat} {time : Bool} (h : s.Told p type time) (go : State → State) :
    s.arriveCtrl p type time go = (go (s.opened p)).noteDelivered p.src p.seq := by
  obtain ⟨⟨fields, ready, here, header, crc, room, new, unheld⟩, kind, htype, plain, sender⟩ := h
  obtain ⟨-, b, r, e⟩ := s.opened_frame p
  have sender' : (s.opened p).ctrlOk p time = true := by rw [e]; exact sender
  have pass : ¬(p.kind ≠ .ctrlMsg ∨ p.dst ≠ (s.popLocal p).devId ∨ (!(s.popLocal p).ready) = true ∨ (!intact p) = true) := by
    rintro (h | h | h | h)
    · exact h kind
    · exact h here
    · rw [show (s.popLocal p).ready = true from ready] at h; cases h
    · rw [header] at h; cases h
  unfold State.arriveCtrl State.arrive
  dsimp only
  rw [if_neg (by simpa using htype), if_neg pass, if_neg (by simp [crc]), (s.popLocal p).takeSeq_new room new unheld]
  refine (State.deliver_ctrl (s.opened p) kind plain ?_).trans ?_
  · rw [if_pos sender']
  · rw [if_pos sender']

/-- What an accepted message leaves: the state of its meaning but for the fabric, and its packet taken. -/
theorem State.arriveCtrl_took {p : Packet} {type : Nat} {time : Bool} (h : s.Told p type time) {go : State → State}
    (hgo : (go (s.opened p)).fab.recv = (s.opened p).fab.recv) :
    (s.arriveCtrl p type time go).Took p ∧ ∃ F, s.arriveCtrl p type time go = { go (s.opened p) with fab := F } := by
  obtain ⟨found, -⟩ := s.opened_frame p
  have found' : (go (s.opened p)).flow? p.src = some (s.flowAt p) := by
    unfold State.flow? at *
    rw [hgo]
    exact found
  rw [s.arriveCtrl_eq h]
  obtain ⟨took, r, b, e⟩ := State.noteDelivered_frame _ found'
  exact ⟨took, _, e⟩

end Sys2Proof.Machine
end

section
/-! PROOFS, family 02_command_model: what the end of a descriptor, and of a context's work, leaves (O56). -/
namespace Sys2Proof.Machine
variable (s : State)

/-! ## Ends of descriptors and the fabric's receive side -/

theorem State.sendSeq_frame (o : Option Nat) (die : Nat) (p : Packet) : (s.sendSeq o die p).fab.recv = s.fab.recv ∧
    (s.sendSeq o die p).insts = s.insts := by
  obtain ⟨g, b, e⟩ := s.sendSeq_eq o die p
  rw [e]
  exact ⟨rfl, rfl⟩

theorem State.openGroup_frame (d : Nat) (lane : Option (Nat × Nat)) : (s.openGroup d lane).1.fab.recv = s.fab.recv ∧
    (s.openGroup d lane).1.insts = s.insts := by
  unfold State.openGroup
  dsimp only
  obtain ⟨g, e⟩ := s.putSend_eq { s.sendFlow d with group := s.nextGroup d }
  rw [e]
  exact ⟨rfl, rfl⟩

theorem State.sendSignal_frame (x : Inst) (d u k inc : Nat) (g : Option Nat) : (s.sendSignal x d u k inc g).fab.recv = s.fab.recv ∧
    (s.sendSignal x d u k inc g).insts = s.insts :=
  State.sendSeq_frame (s.modGroup d (g.getD 0) fun g => { g with lane := none }) _ _ _

/-- The counted SIGNAL of a descriptor marks it, if anything. -/
theorem State.sendCounted_frame (x : Inst) : (s.sendCounted x).fab.recv = s.fab.recv ∧
    ((s.sendCounted x).insts = s.insts ∨ (s.sendCounted x).insts = s.insts.map fun y => if y.id == x.id then { y with sigSent := true } else y) := by
  have marked : ∀ (u : State) (n : Nat), u.fab.recv = s.fab.recv → u.insts = s.insts →
      ((u.sendSignal x x.sigDev x.sigUnit x.sigIndex x.sigInc (some n)).modInst x.id fun y => { y with sigSent := true }).fab.recv = s.fab.recv ∧
      ((u.sendSignal x x.sigDev x.sigUnit x.sigIndex x.sigInc (some n)).modInst x.id fun y => { y with sigSent := true }).insts =
        s.insts.map fun y => if y.id == x.id then { y with sigSent := true } else y := fun u n h1 h2 => by
    obtain ⟨e1, e2⟩ := u.sendSignal_frame x x.sigDev x.sigUnit x.sigIndex x.sigInc (some n)
    exact ⟨e1.trans h1, by rw [State.modInst, e2, h2]⟩
  unfold State.sendCounted
  split
  · exact ⟨rfl, .inl rfl⟩
  · cases x.cgroup with
    | some g => exact ⟨(marked s g.2 rfl rfl).1, .inr (marked s g.2 rfl rfl).2⟩
    | none =>
      obtain ⟨h1, h2⟩ := s.openGroup_frame x.sigDev none
      exact ⟨(marked _ _ h1 h2).1, .inr (marked _ _ h1 h2).2⟩

/-- A descriptor as its end leaves it; `sent`: its counted SIGNAL has been sent. -/
def Inst.ended (y : Inst) (s : State) (status detail : Nat) (cnt : Counters) (sent : Bool) : Inst :=
  { y with phase := .done, status := status, detail := detail, cnt := cnt, endTs := s.clock.fab, wait := none, sigSent := sent }

/-- An end leaves its descriptor ended and every other as it was. -/
theorem State.endInst_frame (x : Inst) (st d : Nat) (c : Counters) : (s.endInst x st d c).fab.recv = s.fab.recv ∧
    ∃ b, (s.endInst x st d c).insts = (s.setInst (((s.inst? x.id).getD x).ended s st d c b)).insts := by
  unfold State.endInst
  dsimp only
  generalize (s.inst? x.id).getD x = y
  have plain : (s.finish y st d c).fab.recv = s.fab.recv ∧ ∃ b, (s.finish y st d c).insts = (s.setInst (y.ended s st d c b)).insts :=
    ⟨rfl, y.sigSent, rfl⟩
  split
  · exact plain
  · split
    · obtain ⟨h1, h2 | h2⟩ := (s.finish y st d c).sendCounted_frame y
      · exact ⟨h1, y.sigSent, h2⟩
      · refine ⟨h1, true, h2.trans ?_⟩
        unfold State.finish State.setInst
        dsimp only
        rw [List.map_map]
        refine List.map_congr_left fun z _ => ?_
        by_cases hz : z.id = y.id
        · simp [hz, Inst.ended]
        · simp [hz, Inst.ended]
    · split
      · split
        · obtain ⟨h1, h2⟩ := State.sendSeq_frame (s.finish y st d c) (some y.id) (queueDie y.queue) { mkPkt .cgCancel _ y.job 0 0 0 [] with group := _ }
          exact ⟨h1, y.sigSent, h2⟩
        · exact plain
      · exact plain

theorem State.inst?_congr {s t : State} (h : t.insts = s.insts) (i : Nat) : t.inst? i = s.inst? i := by
  unfold State.inst?
  rw [h]

/-- A descriptor that is there has ended with the status of its end. -/
theorem State.ended_endInst {x y : Inst} (h : s.inst? x.id = some y) (st d : Nat) (c : Counters) : (s.endInst x st d c).Ended x.id st d := by
  obtain ⟨-, b, e⟩ := s.endInst_frame x st d c
  have hid : y.id = x.id := by simpa using List.find?_some h
  rw [h] at e
  refine ⟨y.ended s st d c b, ?_, rfl, rfl, rfl⟩
  rw [State.inst?_congr e, State.inst?_setInst]
  exact (if_pos hid.symm).trans (by rw [h]; rfl)

/-! ## Aborts (R101, R727) -/

theorem State.endInst_rest (x : Inst) (st d : Nat) (c : Counters) :
    ∃ f i, s.endInst x st d c = { s with fab := f, insts := i } ∧ f.recv = s.fab.recv := by
  obtain ⟨f, i, e⟩ := s.endInst_eq x st d c
  exact ⟨f, i, e, by rw [← (s.endInst_frame x st d c).1, e]⟩

/-- An abort changes descriptors and the fabric's sending side. -/
theorem State.abortInst_rest (st : Nat) (x : Inst) : ∃ f i, s.abortInst st x = { s with fab := f, insts := i } ∧ f.recv = s.fab.recv := by
  unfold State.abortInst
  split
  · exact ⟨s.fab, s.insts, rfl, rfl⟩
  · split
    · exact s.endInst_rest x st 0 {}
    · obtain ⟨f, i, e, h⟩ := (s.modInst x.id fun y => { y with startTs := s.clock.fab }).endInst_rest x st 0 {}
      exact ⟨f, i, e, h⟩

theorem State.foldl_abortInst_rest (st : Nat) (l : List Inst) : ∃ f i,
    l.foldl (fun s x => s.abortInst st x) s = { s with fab := f, insts := i } ∧ f.recv = s.fab.recv := by
  induction l generalizing s with
  | nil => exact ⟨s.fab, s.insts, rfl, rfl⟩
  | cons x l ih =>
    obtain ⟨f, i, e, h⟩ := s.abortInst_rest st x
    obtain ⟨f', i', e', h'⟩ := ih (s.abortInst st x)
    refine ⟨f', i', ?_, ?_⟩
    · rw [List.foldl_cons, e', e]
    · rw [h', e]
      exact h

/-- Descriptors of `t` beside those of `s`: done, or one of `s`; each with the PLAN of one of `s`. -/
structure State.Aborting (s t : State) : Prop where
  kept : ∀ y ∈ t.insts, y.phase = .done ∨ y ∈ s.insts
  plans : ∀ y ∈ t.insts, ∃ z ∈ s.insts, z.parent = y.parent

theorem State.Aborting.planRuns {s t : State} (h : s.Aborting t) {x : Inst} (hx : t.planRuns x = true) : s.planRuns x = true := by
  unfold State.planRuns at *
  rw [Bool.and_eq_true, List.any_eq_true] at *
  obtain ⟨hop, y, hy, hp⟩ := hx
  obtain ⟨z, hz, e⟩ := h.plans y hy
  exact ⟨hop, z, hz, by rw [e]; exact hp⟩

/-- One abort: skipped, or every descriptor of its number is done and no other changes. -/
theorem State.abortInst_insts (st : Nat) (x : Inst) :
    ((x.phase = .done ∨ s.planRuns x = true) ∧ s.abortInst st x = s) ∨
      ∀ y ∈ (s.abortInst st x).insts, (∃ z ∈ s.insts, z.parent = y.parent) ∧ (y.phase = .done ∨ (y ∈ s.insts ∧ y.id ≠ x.id)) := by
  have ending : ∀ u : State, (∀ y ∈ u.insts, (∃ z ∈ s.insts, z.parent = y.parent) ∧ (y.id ≠ x.id → y ∈ s.insts)) →
      ∀ y ∈ (u.endInst x st 0 {}).insts, (∃ z ∈ s.insts, z.parent = y.parent) ∧ (y.phase = .done ∨ (y ∈ s.insts ∧ y.id ≠ x.id)) := by
    intro u hu y hy
    obtain ⟨-, b, e⟩ := u.endInst_frame x st 0 {}
    have hid : ((u.inst? x.id).getD x).id = x.id := by
      cases h : u.inst? x.id with
      | none => rfl
      | some z => simpa using List.find?_some h
    rw [e] at hy
    obtain ⟨z, hz, rfl⟩ := List.mem_map.1 hy
    obtain ⟨hp, hin⟩ := hu z hz
    by_cases hzx : z.id = x.id
    · rw [if_pos (by simpa [Inst.ended, hid] using hzx)]
      refine ⟨?_, .inl rfl⟩
      cases h : u.inst? x.id with
      | none => exact absurd hzx (by simpa using List.find?_eq_none.1 h z hz)
      | some w => exact (hu w (List.mem_of_find?_eq_some h)).1
    · rw [if_neg (by simpa [Inst.ended, hid] using hzx)]
      exact ⟨hp, .inr ⟨hin hzx, hzx⟩⟩
  unfold State.abortInst
  split
  · exact .inl ⟨‹_›, rfl⟩
  · refine .inr ?_
    split
    · exact ending s fun y hy => ⟨⟨y, hy, rfl⟩, fun _ => hy⟩
    · refine ending _ fun y hy => ?_
      obtain ⟨z, hz, rfl⟩ := List.mem_map.1 hy
      split
      · rename_i h
        exact ⟨⟨z, hz, rfl⟩, fun hne => absurd (by simpa using h) hne⟩
      · exact ⟨⟨z, hz, rfl⟩, fun _ => hz⟩

/-- After the aborts of a list, what of it is not done is a PLAN with records in flight. -/
theorem State.foldl_abortInst_done (st : Nat) (l : List Inst) {t : State} (h : s.Aborting t) :
    s.Aborting (l.foldl (fun s x => s.abortInst st x) t) ∧
    (∀ y ∈ (l.foldl (fun s x => s.abortInst st x) t).insts, y ∈ t.insts ∨ y.phase = .done) ∧
    ∀ y ∈ (l.foldl (fun s x => s.abortInst st x) t).insts, y ∈ l → y.phase = .done ∨ s.planRuns y = true := by
  induction l generalizing t with
  | nil => exact ⟨h, fun y hy => .inl hy, fun y _ hy => nomatch hy⟩
  | cons x l ih =>
    rw [List.foldl_cons]
    have one : s.Aborting (t.abortInst st x) ∧ (∀ y ∈ (t.abortInst st x).insts, y ∈ t.insts ∨ y.phase = .done) ∧
        ((x.phase = .done ∨ s.planRuns x = true) ∨ x ∉ (t.abortInst st x).insts ∨ x.phase = .done) := by
      rcases t.abortInst_insts st x with ⟨skip, e⟩ | all
      · rw [e]
        exact ⟨h, fun y hy => .inl hy, .inl (skip.imp_right h.planRuns)⟩
      · refine ⟨⟨fun y hy => ?_, fun y hy => ?_⟩, fun y hy => ?_, ?_⟩
        · exact (all y hy).2.elim .inl fun ⟨hin, _⟩ => h.kept y hin
        · obtain ⟨z, hz, e⟩ := (all y hy).1
          obtain ⟨w, hw, e'⟩ := h.plans z hz
          exact ⟨w, hw, e'.trans e⟩
        · exact (all y hy).2.elim .inr fun ⟨hin, _⟩ => .inl hin
        · by_cases hx : x ∈ (t.abortInst st x).insts
          · exact .inr (.inr ((all x hx).2.elim id fun ⟨_, hne⟩ => absurd rfl hne))
          · exact .inr (.inl hx)
    obtain ⟨ab, sub, first⟩ := one
    obtain ⟨ab', sub', rest⟩ := ih ab
    refine ⟨ab', fun y hy => ?_, fun y hy hmem => ?_⟩
    · exact (sub' y hy).elim (fun h => sub y h) .inr
    · rcases List.mem_cons.1 hmem with rfl | hmem
      · rcases first with h | h | h
        · exact h
        · exact (sub' y hy).elim (fun hin => absurd hin h) .inl
        · exact .inl h
      · exact rest y hy hmem

/-- Every descriptor of a kind has ended, but PLANs with records in flight. -/
theorem State.foldl_abortInst_filter (st : Nat) (q : Inst → Bool) {y : Inst}
    (hy : y ∈ ((s.insts.filter q).foldl (fun s x => s.abortInst st x) s).insts) (hq : q y = true) : y.phase = .done ∨ s.planRuns y = true := by
  obtain ⟨ab, -, all⟩ := s.foldl_abortInst_done st (s.insts.filter q) (t := s) ⟨fun y hy => .inr hy, fun y hy => ⟨y, hy, rfl⟩⟩
  exact (ab.kept y hy).elim .inl fun hin => all y hy (List.mem_filter.2 ⟨hin, hq⟩)

end Sys2Proof.Machine
end

section
/-! PROOFS, family 02_command_model: steps that change a context's registers and stores only (O56). -/
namespace Sys2Proof.Machine

/-! ## Quiet steps -/

/-- Contexts, descriptors, fabric, log and clock are as before, and the registers but those listed; the stores keep their form. -/
structure State.Quiet (offs : List Nat) (s t : State) : Prop where
  ctxs : t.ctxs = s.ctxs
  insts : t.insts = s.insts
  fab : t.fab = s.fab
  log : t.log = s.log
  clock : t.clock = s.clock
  regs : s.RegsKept t offs
  ok : s.memOk = true → t.memOk = true

section
variable {offs : List Nat} {s t u : State}

theorem State.Quiet.refl (offs : List Nat) (s : State) : State.Quiet offs s s := ⟨rfl, rfl, rfl, rfl, rfl, .refl s _, id⟩

theorem State.Quiet.trans (h : State.Quiet offs s t) (g : State.Quiet offs t u) : State.Quiet offs s u :=
  ⟨g.ctxs.trans h.ctxs, g.insts.trans h.insts, g.fab.trans h.fab, g.log.trans h.log, g.clock.trans h.clock, (h.regs.trans g.regs).mono (by simp), g.ok ∘ h.ok⟩

theorem State.Quiet.mono {more : List Nat} (h : State.Quiet offs s t) (hm : offs ⊆ more) : State.Quiet more s t :=
  ⟨h.ctxs, h.insts, h.fab, h.log, h.clock, h.regs.mono hm, h.ok⟩

theorem State.Quiet.setReg (h : State.Quiet offs s t) {off : Nat} (ho : off ∈ offs) (v : Word) : State.Quiet offs s (t.setReg off v) :=
  ⟨h.ctxs, h.insts, h.fab, h.log, h.clock, h.regs.setReg ho v, h.ok⟩

theorem State.Quiet.setF (h : State.Quiet offs s t) {off : Nat} (ho : off ∈ offs) (lo w x : Nat) : State.Quiet offs s (t.setF off lo w x) :=
  h.setReg ho _

theorem State.Quiet.wrPhys (h : State.Quiet offs s t) (a : Nat) (bs : List Byte) : State.Quiet offs s (t.wrPhys a bs) :=
  h.trans ⟨State.wrPhys_ctxs .., State.wrPhys_insts .., State.wrPhys_fab .., State.wrPhys_log .., State.wrPhys_clock .., State.regsKept_of_eq (State.wrPhys_regs ..) _,
    fun hm => State.memOk_wrPhys hm a bs⟩

theorem State.Quiet.setDiacPhys (h : State.Quiet offs s t) (a : Nat) (w : Word) : State.Quiet offs s (t.setDiacPhys a w) :=
  h.trans ⟨rfl, rfl, rfl, rfl, rfl, State.regsKept_of_eq rfl _, fun hm => State.memOk_setDiacPhys hm a w⟩

theorem State.Quiet.setTags (h : State.Quiet offs s t) (g : Region) (k l p : Nat) : State.Quiet offs s (t.setTags g k l p) :=
  h.trans ⟨rfl, rfl, rfl, rfl, rfl, State.regsKept_of_eq rfl _, fun hm => State.memOk_setTags hm g k l p⟩

theorem State.Quiet.copyGranule (h : State.Quiet offs s t) (a b : Nat) : State.Quiet offs s (t.copyGranule a b) :=
  (((h.wrPhys b (memRead t.mem a 1024)).setDiacPhys b (t.diacPhys a))).trans ⟨rfl, rfl, rfl, rfl, rfl, State.regsKept_of_eq rfl _, id⟩

theorem State.Quiet.foldl {α : Type} {f : State → α → State} {l : List α} (h : State.Quiet offs s t)
    (hf : ∀ (t : State) (a : α), State.Quiet offs t (f t a)) : State.Quiet offs s (l.foldl f t) := by
  induction l generalizing t with
  | nil => exact h
  | cons a l ih => exact ih (h.trans (hf t a))

theorem State.Quiet.fillRegion (h : State.Quiet offs s t) (n k : Nat) (g : Region) : State.Quiet offs s (t.fillRegion n k g) :=
  h.foldl fun u _ => ite_keeps (P := State.Quiet offs u) (.refl _ u) ((State.Quiet.refl offs u).copyGranule _ _)

theorem State.Quiet.clearTags (h : State.Quiet offs s t) (n f : Nat) : State.Quiet offs s (t.clearTags n f) :=
  h.foldl fun u g => (State.Quiet.refl offs u).foldl fun v k =>
    ite_keeps (P := State.Quiet offs v) ((State.Quiet.refl offs v).setTags g k 0 0) (.refl _ v)

theorem State.Quiet.undoJournal {n : Nat} (h : State.Quiet offs s t) (ho : ctxOff n 0x82C ∈ offs) (f : Nat) :
    State.Quiet offs s (t.undoJournal n f) := by
  refine State.Quiet.setF (State.Quiet.foldl h fun u (e : JnlEntry) => ?_) ho _ _ _
  exact ((State.Quiet.refl offs u).wrPhys _ _).setDiacPhys _ _
end

/-! ## A context goes back to a retained step (R692) -/

/-- Registers that a way back reaches. -/
def backOffs (n : Nat) : List Nat := [0x82C, 0x804, 0x808, 0x20C, 0x814, 0x818].map (ctxOff n)

section
variable {s t : State} {n rel : Nat}

theorem State.jr_setReg (s : State) (n rel : Nat) {v : Nat} (hv : v < 2 ^ 32) : (s.setReg (ctxOff n rel) (BitVec.ofNat 32 v)).jr n rel = v := by
  rw [State.jr, State.reg_setReg_same, BitVec.toNat_ofNat, Nat.mod_eq_of_lt hv]

theorem State.RegsKept.jr {l : List Nat} (h : s.RegsKept t l) (ho : ctxOff n rel ∉ l) : t.jr n rel = s.jr n rel :=
  congrArg BitVec.toNat (h _ ho)

theorem State.jr_setReg_of_ne (s : State) {o : Nat} (h : ctxOff n rel ≠ o) (v : Word) : (s.setReg o v).jr n rel = s.jr n rel :=
  (s.regsKept_setReg o v).jr (by simpa using h)

/-- Words of one context differ where their offsets do. -/
theorem ctxOff_ne {a b : Nat} (h : a ≠ b) : ctxOff n a ≠ ctxOff n b := by simpa [ctxOff] using h
end

/-- A ROLLBACK to `f` that is retained: quiet steps to the state `v`, the repair where there is one, what the context forgets, and one record. -/
theorem State.rollbackTo_frame (s : State) (n : Nat) {f : Nat} (hf : f < 2 ^ 32) (cause : Nat) : ∃ (v w : State) (g : Ctx → Ctx),
    State.Quiet (backOffs n) s v ∧ v.fsStep n = f ∧ v.psStep n = min (s.psStep n) f ∧
    w = (if cause = 3 ∧ (v.ctx n).lastBad ≠ 0 then v.beginRepair n f else v) ∧ (∀ c, (g c).repair = c.repair) ∧
    s.rollbackTo n f cause = (w.modCtx n g).logTimed 0x0602 ((w.modCtx n g).jobId n) f cause := by
  unfold State.rollbackTo
  extract_lets u1 u2 u3 u4 d u5 u6 u7
  have k1 : State.Quiet [ctxOff n 0x82C] s u1 := ((State.Quiet.refl _ s).undoJournal (by simp) f).clearTags n f
  have p1 : u1.psStep n = s.psStep n := k1.regs.jr (by simpa using ctxOff_ne (by omega))
  have q1 : State.Quiet (backOffs n) s u1 := k1.mono (by simp [backOffs])
  clear_value u1
  have q2 : State.Quiet (backOffs n) s u2 := q1.setReg (by simp [backOffs]) _
  have f2 : u2.fsStep n = f := u1.jr_setReg n _ hf
  have p2 : u2.psStep n = s.psStep n := (u1.jr_setReg_of_ne (ctxOff_ne (by omega)) _).trans p1
  clear_value u2
  have q3 : State.Quiet (backOffs n) s u3 := q2.setReg (by simp [backOffs]) _
  have f3 : u3.fsStep n = f := (u2.jr_setReg_of_ne (ctxOff_ne (by omega)) _).trans f2
  have p3 : u3.psStep n = min (s.psStep n) f := by
    rw [← p2]
    exact u2.jr_setReg n _ (Nat.lt_of_le_of_lt (Nat.min_le_right ..) hf)
  clear_value u3
  have k5 : State.Quiet [ctxOff n 0x20C, ctxOff n 0x814, ctxOff n 0x818] u3 u5 :=
    (((State.Quiet.refl _ u3).setF (by simp) _ _ _).setReg (by simp) _).setReg (by simp) _
  have q5 : State.Quiet (backOffs n) s u5 := q3.trans (k5.mono (by simp [backOffs]))
  have f5 : u5.fsStep n = f := (k5.regs.jr (by simp [ctxOff])).trans f3
  have p5 : u5.psStep n = min (s.psStep n) f := (k5.regs.jr (by simp [ctxOff])).trans p3
  clear_value u5
  refine ⟨u5, u6, _, q5, f5, p5, rfl, ?_, rfl⟩
  exact fun c => rfl

end Sys2Proof.Machine
end

section
/-! PROOFS, family 02_command_model: roll back and repair of a context (O56). -/
namespace Sys2Proof.Machine

/-- A granule's place in memory, read as zero with no Diacritic. -/
def State.emptied (s : State) (b : Nat) : State := (s.wrPhys b (List.replicate 1024 0#8)).setDiacPhys b 0#32

theorem State.emptied_quiet (s : State) (b : Nat) : State.Quiet [] s (s.emptied b) := ((State.Quiet.refl [] s).wrPhys b _).setDiacPhys b _

theorem State.emptied_reads {s : State} (hm : s.memOk = true) (b : Nat) :
    memRead (s.emptied b).mem b 1024 = List.replicate 1024 0#8 ∧ (s.emptied b).diacPhys b = 0#32 := by
  unfold State.emptied
  have hread := (State.memRead_wrPhys_same hm b (d := List.replicate 1024 0#8) (List.ne_nil_of_length_eq_add_one List.length_replicate)).1
  have ok := State.memOk_wrPhys hm b (List.replicate 1024 0#8)
  generalize s.wrPhys b (List.replicate 1024 0#8) = u at *
  rw [List.length_replicate] at hread
  exact ⟨hread, (State.diacPhys_setDiacPhys ok b b 0#32).trans (if_pos rfl)⟩

/-- The region of the granule that a rejected STEP_DONE named. -/
def State.badRegion (s : State) (n : Nat) : Option Region :=
  (s.stateRegions n).find? fun g => decide (g.base ≤ (s.ctx n).lastBad) && decide ((s.ctx n).lastBad < g.base + g.size)

/-- A ROLLBACK for a repair does nothing, or empties the bad granule's copy and notes it with others (R708, log entry 64).
`beginRepair` is opened by steps that the kernel checks without evaluating the region's search. -/
theorem State.beginRepair_eq (s : State) (n f : Nat) : (s.badRegion n = none ∧ s.beginRepair n f = s) ∨ ∃ g others, s.badRegion n = some g ∧
    s.beginRepair n f = (s.emptied (s.granAt n g f (((s.ctx n).lastBad - g.base) / 1024))).modCtx n
      fun c => { c with repair := some (s.granAt n g f (((s.ctx n).lastBad - g.base) / 1024), others) } := by
  unfold State.badRegion
  obtain ⟨F, hF⟩ : ∃ F, F = State.beginRepair := ⟨_, rfl⟩
  rw [← hF]
  delta State.beginRepair at hF
  subst hF
  beta_reduce
  extract_lets +onlyGivenNames a
  have ha : a = (s.ctx n).lastBad := rfl
  clear_value a
  subst ha
  cases (s.stateRegions n).find? fun g => decide (g.base ≤ (s.ctx n).lastBad) && decide ((s.ctx n).lastBad < g.base + g.size) with
  | none => exact .inl ⟨rfl, rfl⟩
  | some g => exact .inr ⟨g, _, rfl, rfl⟩

/-- A repair changes memory and contexts only. -/
theorem State.beginRepair_frame (s : State) (n f : Nat) : ∃ (u : State) (c : List Ctx), State.Quiet [] s u ∧ s.beginRepair n f = { u with ctxs := c } := by
  rcases s.beginRepair_eq n f with ⟨-, e⟩ | ⟨g, others, -, e⟩
  · exact ⟨s, s.ctxs, .refl _ s, e⟩
  · exact ⟨_, _, s.emptied_quiet _, e⟩

end Sys2Proof.Machine
end

section
/-! PROOFS, family 02_command_model: manager messages to the one context of their job; RANK_TABLE, PARITY_STOP (O56). -/
namespace Sys2Proof.Machine
variable {s t : State} {n : Nat} {p : Packet}

theorem leNat_lt (l : List Byte) : leNat l < 256 ^ l.length := by
  induction l with
  | nil => decide
  | cons b l ih =>
    have := b.isLt
    simp only [leNat, List.length_cons, Nat.pow_succ]
    omega

theorem pktWord_lt (p : Packet) (k : Nat) : pktWord p k < 2 ^ 32 :=
  lt_of_lt_of_le (leNat_lt _) (Nat.pow_le_pow_right (i := (List.take 4 (List.drop (4 * k) p.payload)).length) (j := 4) (by omega) (List.length_take_le ..))

theorem State.sized_ctxs (h : s.sized = true) (hn : n < 16) : n < s.ctxs.length := by
  unfold State.sized at h
  rw [Bool.and_eq_true, beq_iff_eq] at h
  omega

/-- A state with another fabric. -/
def State.withFab (s : State) (F : Fabric) : State := { s with fab := F }

/-- An accepted message for one context does there what its meaning does, whatever stands in the fabric meanwhile. -/
theorem State.tell_one {type job : Nat} {c : Instr} {op : State → Nat → State} (R : State → State → Prop) (hw : c.wf = p.wf)
    (h : s.Told p type false) (hj : s.ctxsOf job = [n]) (hR : ∀ s F t G, R (State.withFab s F) t → R s (State.withFab t G))
    (hop : ∀ F, (op (s.withFab F) n).fab.recv = (s.withFab F).fab.recv ∧ R (s.withFab F) (op (s.withFab F) n)) :
    ∃ t, act c (s.arriveCtrl p type false fun s => (s.ctxsOf job).foldl op s) = .next t ∧ t.Took p ∧ R s t := by
  obtain ⟨-, b, r, e⟩ := s.opened_frame p
  obtain ⟨F, e'⟩ : ∃ F, s.opened p = s.withFab F := ⟨_, e⟩
  have one : ((s.withFab F).ctxsOf job).foldl op (s.withFab F) = op (s.withFab F) n := by
    rw [show (s.withFab F).ctxsOf job = [n] from hj]
    rfl
  obtain ⟨took, G, eG⟩ := s.arriveCtrl_took h (go := fun s => (s.ctxsOf job).foldl op s) (by rw [e', one]; exact (hop F).1)
  rw [e', one] at eG
  refine ⟨_, act_of_wf (hw.trans h.taken.fields) _, took, ?_⟩
  rw [eG]
  exact hR s F _ G (hop F).2

/-! ## RANK_TABLE (R695) -/

theorem State.rankTable_eq (h : (s.ctx n).lostDev = none) (v : Nat) (ranks : List Nat) :
    s.rankTable n v ranks = s.modCtx n fun c => { c with ranks := ranks, rankVersion := v } := by
  unfold State.rankTable
  dsimp only
  rw [h]

/-- What a RANK_TABLE leaves. -/
def State.RanksSet (n v : Nat) (ranks : List Nat) (s t : State) : Prop :=
  (t.ctx n).ranks = ranks ∧ (t.ctx n).rankVersion = v ∧ t.regs = s.regs ∧ t.insts = s.insts ∧ s.StoresKept t

theorem State.rankTable_sets (hn : n < s.ctxs.length) (hl : (s.ctx n).lostDev = none) (v : Nat) (ranks : List Nat) :
    (s.rankTable n v ranks).fab.recv = s.fab.recv ∧ State.RanksSet n v ranks s (s.rankTable n v ranks) := by
  rw [State.rankTable_eq hl]
  have hc := State.ctx_modCtx_same hn fun c => { c with ranks := ranks, rankVersion := v }
  exact ⟨rfl, congrArg Ctx.ranks hc, congrArg Ctx.rankVersion hc, rfl, rfl, fun _ => rfl, fun _ => rfl, rfl⟩

theorem rankTable_acts (hn : n < s.ctxs.length) (h : s.Told p 0x26 false) (hj : s.ctxsOf (pktWord p 0 % 4096) = [n])
    (hl : (s.ctx n).lostDev = none) : ∃ t, exec (.rankTable p) s = .next t ∧ t.Took p ∧
      State.RanksSet n (pktWord p 1) (tableRanks p) s t :=
  State.tell_one (op := fun s n => s.rankTable n (pktWord p 1) (tableRanks p)) _ rfl h hj (fun _ _ _ _ h => h)
    fun F => State.rankTable_sets (s := s.withFab F) hn hl _ _

/-! ## PARITY_STOP (R699, R700) -/

theorem State.parityBanks_quiet (s : State) (n f : Nat) : State.Quiet [] s (s.parityBanks n f) :=
  (State.Quiet.refl [] s).foldl fun u g => by
    split
    · exact (State.Quiet.refl [] u).foldl fun v k => by
        split
        · exact ((State.Quiet.refl [] v).copyGranule _ _).setTags ..
        · exact .refl [] v
    · exact (State.Quiet.refl [] u).fillRegion ..

/-- The Parity Stop after PS_STEP, for which no STEP and no ROLLBACK waits. -/
theorem State.parityStop_eq {f : Nat} (he : s.parityEn n = true) (hf : f = s.psStep n + 1) (hw : (s.ctx n).waitParity = none)
    (h3 : s.stepOf n 3 = none) : s.parityStop n f = (s.parityBanks n f).setReg (ctxOff n 0x808) (BitVec.ofNat 32 f) := by
  have q := (s.parityBanks_quiet n f)
  unfold State.parityStop
  rw [if_neg (by simp [he, hf])]
  generalize s.parityBanks n f = u at q
  extract_lets +onlyGivenNames v
  have hv : v = u.setReg (ctxOff n 0x808) (BitVec.ofNat 32 f) := rfl
  clear_value v
  have h3' : v.stepOf n 3 = none := by
    unfold State.stepOf at *
    rw [hv, State.setReg_insts, q.insts]
    exact h3
  rw [h3']
  extract_lets +onlyGivenNames w
  have hw' : (v.ctx n).waitParity = none := by
    unfold State.ctx at *
    rw [hv, State.setReg_ctxs, q.ctxs]
    exact hw
  have hv' : w = v := rfl
  clear_value w
  rw [hv', hw', hv]

/-- What a Parity Stop `f` leaves. -/
def State.ParityStopped (n f : Nat) (s t : State) : Prop := t.psStep n = f ∧ t.fsStep n = s.fsStep n ∧ t.insts = s.insts

theorem State.Quiet.parityStopped (q : State.Quiet [] s t) {f : Nat} (hf : f < 2 ^ 32) :
    (t.setReg (ctxOff n 0x808) (BitVec.ofNat 32 f)).fab.recv = s.fab.recv ∧
    State.ParityStopped n f s (t.setReg (ctxOff n 0x808) (BitVec.ofNat 32 f)) :=
  ⟨congrArg Fabric.recv q.fab, t.jr_setReg n _ hf, (t.jr_setReg_of_ne (ctxOff_ne (by omega)) _).trans (q.regs.jr (by simp)), q.insts⟩

theorem parityStop_acts (h : s.Told p 0x24 false) (hj : s.ctxsOf (pktWord p 0 % 4096) = [n]) (he : s.parityEn n = true)
    (hf : pktWord p 1 = s.psStep n + 1) (hw : (s.ctx n).waitParity = none) (h3 : s.stepOf n 3 = none) :
    ∃ t, exec (.parityStop p) s = .next t ∧ t.Took p ∧ State.ParityStopped n (pktWord p 1) s t :=
  State.tell_one (op := fun s n => s.parityStop n (pktWord p 1)) _ rfl h hj (fun _ _ _ _ h => h) fun F => by
    rw [State.parityStop_eq (s := s.withFab F) he hf hw h3]
    exact ((s.withFab F).parityBanks_quiet n _).parityStopped (pktWord_lt p 1)

end Sys2Proof.Machine
end

section
/-! PROOFS, family 02_command_model: RESUME and the copies of a repaired granule (O56). -/
namespace Sys2Proof.Machine
variable {s t u : State} {n : Nat} {p : Packet}

/-! ## Copies of a granule -/

/-- The bytes of a granule's place and its Diacritic. -/
def State.gran (s : State) (a : Nat) : List Byte × Word := (memRead s.mem a 1024, s.diacPhys a)

theorem State.mem_wrPhys (a : Nat) {d : List Byte} (hd : d ≠ []) : (s.wrPhys a d).mem = memWrite s.mem a d := by
  obtain ⟨p, w, e⟩ := s.wrPhys_eq a d
  rw [e]
  exact if_neg (by simpa using hd)

theorem State.diacPhys_congr (h : t.diacs = s.diacs) (a : Nat) : t.diacPhys a = s.diacPhys a := by
  unfold State.diacPhys
  rw [h]

theorem State.memOk_copyGranule (hm : s.memOk = true) (a b : Nat) : (s.copyGranule a b).memOk = true :=
  ((State.Quiet.refl [] s).copyGranule a b).ok hm

/-- A granule's copy holds its bytes and Diacritic; other granules are as before. -/
theorem State.gran_copyGranule (hm : s.memOk = true) {a b c : Nat} (hb : b % 1024 = 0) (hc : c % 1024 = 0) :
    (s.copyGranule a b).gran c = if c = b then s.gran a else s.gran c := by
  have hw := ((State.memOk_iff s).1 hm).1
  have hl : (memRead s.mem a 1024).length = 1024 := memRead_length hw a 1024
  have hmem : (s.copyGranule a b).mem = memWrite s.mem b (memRead s.mem a 1024) :=
    State.mem_wrPhys b (List.ne_nil_of_length_eq_add_one hl)
  have hdiac : (s.copyGranule a b).diacPhys c = if c / 1024 = b / 1024 then s.diacPhys a else s.diacPhys c :=
    (State.diacPhys_setDiacPhys (State.memOk_wrPhys hm b _) b c (s.diacPhys a)).trans
      (by rw [State.diacPhys_congr (State.wrPhys_diacs ..)])
  unfold State.gran
  rw [hmem, hdiac]
  by_cases h : c = b
  · subst c
    rw [if_pos rfl, if_pos rfl]
    exact congrArg (·, s.diacPhys a) ((congrArg (memRead _ b) hl.symm).trans (memRead_memWrite_same hw b _))
  · rw [if_neg h, if_neg (by omega), memRead_memWrite_of_disjoint hw (by omega)]

/-- Copies of one granule into others. -/
theorem State.gran_foldl_copyGranule {b : Nat} (hb : b % 1024 = 0) (l : List Nat) (hl : ∀ a ∈ l, a % 1024 = 0) (hn : b ∉ l) (s : State)
    (hm : s.memOk = true) {c : Nat} (hc : c % 1024 = 0) :
    (l.foldl (fun s a => s.copyGranule b a) s).gran c = if c ∈ l then s.gran b else s.gran c := by
  induction l generalizing s with
  | nil => rfl
  | cons a l ih =>
    rw [List.mem_cons, not_or] at hn
    have ha := hl a (List.mem_cons_self ..)
    rw [List.foldl_cons, ih (fun x hx => hl x (List.mem_cons_of_mem _ hx)) hn.2 _ (State.memOk_copyGranule hm b a),
      State.gran_copyGranule hm ha hb, State.gran_copyGranule hm ha hc, if_neg hn.1]
    by_cases h1 : c ∈ l
    · simp [h1]
    · by_cases h2 : c = a <;> simp [h1, h2]

/-! ## The end of a repair (R708, log entry 64) -/

/-- The granule rebuilt at `b`, with the Diacritic of a free value, in the other banks too. -/
def State.repaired (s : State) (b : Nat) (others : List Nat) : State :=
  others.foldl (fun s a => s.copyGranule b a) ((s.free 32).2.setDiacPhys b (BitVec.ofNat 32 (s.free 32).1))

theorem State.free_quiet (s : State) (w : Nat) : State.Quiet [] s (s.free w).2 :=
  ⟨rfl, rfl, rfl, rfl, rfl, .refl s [], id⟩

theorem State.repaired_quiet (s : State) (b : Nat) (others : List Nat) : State.Quiet [] s (s.repaired b others) :=
  ((s.free_quiet 32).setDiacPhys b _).foldl fun t a => (State.Quiet.refl [] t).copyGranule b a

theorem State.repaired_copies {b : Nat} {others : List Nat} (hm : s.memOk = true) (hn : (b :: others).Nodup)
    (hal : ∀ a ∈ b :: others, a % 1024 = 0) {a : Nat} (ha : a ∈ others) :
    memRead (s.repaired b others).mem a 1024 = memRead s.mem b 1024 ∧ (s.repaired b others).diacPhys a = (s.repaired b others).diacPhys b := by
  have hb := hal b (List.mem_cons_self ..)
  have others_al := fun x hx => hal x (List.mem_cons_of_mem _ hx)
  have b_out := (List.nodup_cons.1 hn).1
  have ok := ((s.free_quiet 32).setDiacPhys b (BitVec.ofNat 32 (s.free 32).1)).ok hm
  have at_a := State.gran_foldl_copyGranule hb others others_al b_out _ ok (others_al a ha)
  have at_b := State.gran_foldl_copyGranule hb others others_al b_out _ ok hb
  rw [if_pos ha] at at_a
  rw [if_neg b_out] at at_b
  exact ⟨congrArg Prod.fst at_a, congrArg Prod.snd (at_a.trans at_b.symm)⟩

/-- A context whose repair is over. -/
def Ctx.repairOver (c : Ctx) : Ctx := { c with repair := none }

theorem State.endRepair_of_none (h : (s.ctx n).repair = none) : s.endRepair n = s := by
  unfold State.endRepair
  rw [h]

theorem State.endRepair_of_some {b : Nat} {others : List Nat} (h : (s.ctx n).repair = some (b, others)) :
    s.endRepair n = (s.repaired b others).modCtx n Ctx.repairOver := by
  unfold State.endRepair
  rw [h]
  rfl

/-- Words 4 to 7 of a record with fabric time. -/
def State.timed (s : State) (a b : Nat) : List Nat := [s.clock.fab % 2 ^ 32, s.clock.fab / 2 ^ 32 % 2 ^ 32, a, b]

/-- A timed record, written where log and clock are as in `s`. -/
theorem State.logged_logTimed (hl : u.log = s.log) (hc : u.clock = s.clock) (k j a b : Nat) (hk : k < 2 ^ 16) :
    s.Logged (u.logTimed k j a b) k (s.timed a b) := by
  have one : u.Logged (u.logTimed k j a b) k (u.timed a b) := u.logged_logEv k j _ hk
  unfold State.Logged State.timed at *
  rwa [hl, hc] at one

/-! ## RESUME (R101, R694) -/

/-- A context made ACTIVE again, with its record. -/
def State.resumed (s : State) (n : Nat) : State :=
  let s := (s.setJobState n 2).modCtx n fun c => { c with errMask := 0, waitParity := none, lostDev := none }
  s.logTimed 0x0603 (s.jobId n) (s.fsStep n) (s.ctx n).rankVersion

theorem State.resume_eq (h : s.jobState n = 4) : s.resume n = (s.endRepair n).resumed n := by
  unfold State.resume
  rw [if_neg (not_not_intro h)]
  rfl

/-- Memory, Diacritics, poison and the fabric stay. -/
theorem State.resumed_rest (s : State) (n : Nat) : (s.resumed n).mem = s.mem ∧ (s.resumed n).diacs = s.diacs ∧ (s.resumed n).poison = s.poison ∧
    (s.resumed n).fab = s.fab :=
  ⟨State.logEv_mem .., State.logEv_diacs .., State.logEv_poison .., State.logEv_fab ..⟩

/-- What RESUME makes of a context. -/
structure State.Active (n : Nat) (s t : State) : Prop where
  state : t.jobState n = 2
  regs : s.RegsKept t [ctxOff n 4]
  repair : (t.ctx n).repair = (s.ctx n).repair
  logged : s.Logged t 0x0603 (s.timed (s.fsStep n) (s.ctx n).rankVersion)

theorem State.resumed_active (s : State) (n : Nat) : State.Active n s (s.resumed n) := by
  have state := s.jobState_setJobState n 2
  have regs : s.RegsKept (s.setJobState n 2) [ctxOff n 4] := State.RegsKept.setF (State.RegsKept.refl s _) (List.mem_singleton_self _) 0 3 2
  unfold State.resumed
  extract_lets u
  have hregs : u.regs = (s.setJobState n 2).regs := rfl
  have hrepair : (u.ctx n).repair = (s.ctx n).repair := State.ctx_modCtx_keeps (s.setJobState n 2) Ctx.repair n n fun _ => rfl
  have hlog : u.log = s.log := rfl
  have hclock : u.clock = s.clock := rfl
  have hranks : (u.ctx n).rankVersion = (s.ctx n).rankVersion := State.ctx_modCtx_keeps (s.setJobState n 2) Ctx.rankVersion n n fun _ => rfl
  clear_value u
  have hfs : u.fsStep n = s.fsStep n := (regs.congr hregs).jr (by simp [ctxOff])
  have one := State.logged_logTimed hlog hclock 0x0603 (u.jobId n) (u.fsStep n) (u.ctx n).rankVersion (by omega)
  have hl : (u.logTimed 0x0603 (u.jobId n) (u.fsStep n) (u.ctx n).rankVersion).regs = (s.setJobState n 2).regs := (State.logEv_regs ..).trans hregs
  have hc : (u.logTimed 0x0603 (u.jobId n) (u.fsStep n) (u.ctx n).rankVersion).ctxs = u.ctxs := State.logEv_ctxs ..
  rw [hfs, hranks] at *
  generalize u.logTimed 0x0603 (u.jobId n) (s.fsStep n) (s.ctx n).rankVersion = v at *
  refine ⟨?_, regs.congr hl, ?_, one⟩
  · exact (State.rf_congr hl _ _ _).trans state
  · rw [← hrepair]
    unfold State.ctx
    rw [hc]

/-- What a RESUME leaves. -/
def State.Resumed (n : Nat) (s t : State) : Prop :=
  t.jobState n = 2 ∧ (t.ctx n).repair = none ∧ s.Logged t 0x0603 (s.timed (s.fsStep n) (s.ctx n).rankVersion) ∧ s.RegsKept t [ctxOff n 4] ∧
  ((s.ctx n).repair = none → s.StoresKept t) ∧
  ∀ b others, (s.ctx n).repair = some (b, others) → s.memOk = true → (b :: others).Nodup → (∀ a ∈ b :: others, a % 1024 = 0) →
    ∀ a ∈ others, memRead t.mem a 1024 = memRead s.mem b 1024 ∧ t.diacPhys a = t.diacPhys b

/-- The same after quiet steps, and the repair's note taken back. -/
theorem State.Quiet.resumed (q : State.Quiet [] s u) (e : ∃ c, t = { u with ctxs := c }) {b : Nat} {others : List Nat}
    (h : (s.ctx n).repair = some (b, others)) (hnone : (t.ctx n).repair = none) (hv : (t.ctx n).rankVersion = (s.ctx n).rankVersion)
    (copies : s.memOk = true → (b :: others).Nodup → (∀ a ∈ b :: others, a % 1024 = 0) →
      ∀ a ∈ others, memRead u.mem a 1024 = memRead s.mem b 1024 ∧ u.diacPhys a = u.diacPhys b) :
    State.Resumed n s (t.resumed n) := by
  obtain ⟨state, regs, repair, logged⟩ := t.resumed_active n
  obtain ⟨hm, hd, hp, -⟩ := t.resumed_rest n
  obtain ⟨c, e⟩ := e
  have hregs : s.RegsKept t [] := by rw [e]; exact q.regs
  have hlog : t.log = s.log := by rw [e]; exact q.log
  have hclock : t.clock = s.clock := by rw [e]; exact q.clock
  have hmem : t.mem = u.mem := by rw [e]
  have hdiacs : t.diacs = u.diacs := by rw [e]
  have hfs : t.fsStep n = s.fsStep n := hregs.jr (by simp)
  refine ⟨state, repair.trans hnone, ?_, (hregs.trans regs).mono (by simp), fun h' => ?_, fun b' others' h' ok nodup al a ha => ?_⟩
  · unfold State.Logged State.timed at *
    rwa [hlog, hclock, hfs, hv] at logged
  · rw [h] at h'
    nomatch h'
  · obtain ⟨rfl, rfl⟩ : b = b' ∧ others = others' := by simpa [h] using h'
    rw [hm, hmem, State.diacPhys_congr (hd.trans hdiacs), State.diacPhys_congr (hd.trans hdiacs)]
    exact copies ok nodup al a ha

/-- RESUME of a context in RECOVERY. -/
theorem State.resume_resumes (h4 : s.jobState n = 4) (hn : n < s.ctxs.length) :
    (s.resume n).fab.recv = s.fab.recv ∧ State.Resumed n s (s.resume n) := by
  rw [State.resume_eq h4]
  cases h : (s.ctx n).repair with
  | none =>
    obtain ⟨state, regs, repair, logged⟩ := s.resumed_active n
    obtain ⟨hm, hd, hp, hf⟩ := s.resumed_rest n
    rw [State.endRepair_of_none h]
    exact ⟨congrArg Fabric.recv hf, state, repair.trans h, logged, regs, fun _ => State.storesKept_of_eq hm hd hp, fun b others hr => by simp [h] at hr⟩
  | some r =>
    obtain ⟨b, others⟩ := r
    have q := s.repaired_quiet b others
    have hctx : (s.repaired b others).ctx n = s.ctx n := by
      unfold State.ctx
      rw [q.ctxs]
    have hnone := State.ctx_modCtx_same (s := s.repaired b others) (by rw [q.ctxs]; exact hn) Ctx.repairOver
    rw [State.endRepair_of_some h]
    refine ⟨congrArg Fabric.recv (((State.resumed_rest _ n).2.2.2).trans q.fab), q.resumed ⟨_, rfl⟩ h (congrArg Ctx.repair hnone) ?_ fun hm h1 h2 a ha => ?_⟩
    · exact (congrArg Ctx.rankVersion hnone).trans (congrArg (fun c => (Ctx.repairOver c).rankVersion) hctx)
    · exact State.repaired_copies hm h1 h2 ha

theorem resume_acts (hn : n < s.ctxs.length) (h : s.Told p 0x25 false) (hj : s.ctxsOf (pktWord p 0 % 4096) = [n]) (h4 : s.jobState n = 4) :
    ∃ t, exec (.resume p) s = .next t ∧ t.Took p ∧ State.Resumed n s t :=
  State.tell_one (op := fun s n => s.resume n) _ rfl h hj (fun _ _ _ _ h => h) fun F => State.resume_resumes (s := s.withFab F) h4 hn

end Sys2Proof.Machine
end

section
/-! PROOFS, family 02_command_model: ROLLBACK of a context (O56). -/
namespace Sys2Proof.Machine
variable {s t u r : State} {n f : Nat} {p : Packet}

/-! ## The configuration of a context stays -/

/-- Registers of a context that a ROLLBACK reaches. -/
def recoverOffs (n : Nat) : List Nat := ctxOff n 4 :: backOffs n

theorem ctxOff_mem_recoverOffs {rel : Nat} : ctxOff n rel ∈ recoverOffs n ↔ rel ∈ [4, 0x82C, 0x804, 0x808, 0x20C, 0x814, 0x818] := by
  simp [recoverOffs, backOffs, ctxOff_inj]

section
variable (h : s.RegsKept t (recoverOffs n))
include h

theorem State.RegsKept.banks_eq : t.banks n = s.banks n := by
  unfold State.banks
  rw [h.rf (by simp [ctxOff_mem_recoverOffs])]

theorem State.RegsKept.parityEn_eq : t.parityEn n = s.parityEn n := by
  unfold State.parityEn
  rw [h.rf (by simp [ctxOff_mem_recoverOffs])]

theorem State.RegsKept.granAt_eq (g : Region) (f k : Nat) : t.granAt n g f k = s.granAt n g f k := by
  unfold State.granAt
  rw [h.banks_eq]

theorem State.RegsKept.region_eq (r : Nat) : t.region n r = s.region n r := by
  have high : ∀ k, 0x900 ≤ k → ctxOff n k ∉ recoverOffs n := fun k hk => by
    simp only [ctxOff_mem_recoverOffs, List.mem_cons, List.not_mem_nil, or_false]
    omega
  unfold State.region State.jr64
  dsimp only
  rw [h.jr (high _ (by omega)), h.jr (high _ (by omega)), h.jr (high _ (by omega)), h.jr (high _ (by omega)),
    h.rf (high _ (by omega)), h.rf (high _ (by omega)), h.rf (high _ (by omega)), h.rf (high _ (by omega))]

theorem State.RegsKept.stateRegions_eq : t.stateRegions n = s.stateRegions n := by
  unfold State.stateRegions State.regions
  rw [show t.region n = s.region n from funext h.region_eq]
end

/-! ## A context enters RECOVERY (R101, R539) -/

/-- The state of a context in RECOVERY, its work ended but for PLANs with records in flight and the device's own delta sender. -/
theorem State.enterRecovery_frame (h : s.running n = true) : ∃ F i, s.enterRecovery n = { s.setJobState n 4 with fab := F, insts := i } ∧
    F.recv = s.fab.recv ∧ ∀ y ∈ i, y.ctx = n → ¬(y.sq = 1024 ∧ y.opcode = 0x10) → y.phase = .done ∨ s.planRuns y = true := by
  unfold State.enterRecovery
  rw [if_neg (by simp [h])]
  extract_lets u v
  have plan : ∀ y, u.planRuns y = s.planRuns y := fun _ => rfl
  have hfab : u.fab = s.fab := rfl
  have hu : u = s.setJobState n 4 := rfl
  have ended := fun y hy => u.foldl_abortInst_filter 0xE (fun x => x.ctx == n && !(x.sq == 1024 && x.opcode == 0x10)) (y := y) hy
  obtain ⟨F, i, e, hF⟩ := u.foldl_abortInst_rest 0xE (u.insts.filter fun x => x.ctx == n && !(x.sq == 1024 && x.opcode == 0x10))
  have hv : v = { u with fab := F, insts := i } := e
  rw [e] at ended
  clear_value v u
  subst hv hu
  refine ⟨_, i, rfl, hF.trans (congrArg Fabric.recv hfab), fun y hy hn hd => ?_⟩
  rw [← plan]
  exact ended y hy (by simpa [hn, imp_iff_not_or] using hd)

/-- A context that has just entered RECOVERY. -/
structure State.Entered (n : Nat) (s r : State) : Prop where
  state : r.jobState n = 4
  regs : s.RegsKept r [ctxOff n 4]
  mem : r.mem = s.mem
  diacs : r.diacs = s.diacs
  log : r.log = s.log
  clock : r.clock = s.clock
  recv : r.fab.recv = s.fab.recv
  ended : ∀ y ∈ r.insts, y.ctx = n → ¬(y.sq = 1024 ∧ y.opcode = 0x10) → y.phase = .done ∨ s.planRuns y = true
  size : r.ctxs.length = s.ctxs.length
  bad : (r.ctx n).lastBad = (s.ctx n).lastBad

/-- A context notes on its way what ROLLBACK says; the bad granule of its last step it keeps. -/
theorem State.enterRecovery_entered (h : s.running n = true) {g : Ctx → Ctx} (hg : ∀ c, (g c).lastBad = c.lastBad) :
    State.Entered n s ((s.enterRecovery n).modCtx n g) := by
  obtain ⟨F, i, e, recv, ended⟩ := State.enterRecovery_frame h
  have state : (s.setJobState n 4).jobState n = 4 := s.jobState_setJobState n 4
  have regs : s.RegsKept (s.setJobState n 4) [ctxOff n 4] := State.RegsKept.setF (State.RegsKept.refl s _) (List.mem_singleton_self _) 0 3 4
  have bad := State.ctx_modCtx_keeps (s.setJobState n 4) Ctx.lastBad n n hg
  rw [e]
  exact ⟨state, regs, rfl, rfl, rfl, rfl, recv, ended, modNth_length .., bad⟩

/-- What a ROLLBACK to a retained step does. -/
theorem State.rollback_eq (hr : s.running n = true) (hf : s.retained n f = true) (hp : s.parityEn n = false) (cause lost : Nat) :
    ∃ r, State.Entered n s r ∧ s.rollback n f cause lost = r.rollbackTo n f cause := by
  unfold State.rollback
  rw [if_neg (by simp [hr])]
  extract_lets r
  have entered : State.Entered n s r := State.enterRecovery_entered hr fun _ => rfl
  clear_value r
  have regs : s.RegsKept r (recoverOffs n) := entered.regs.mono (by simp [recoverOffs])
  have fs : r.fsStep n = s.fsStep n := entered.regs.jr (by simp [ctxOff_inj])
  have ret : r.retained n f = true := by
    unfold State.retained at *
    rw [fs, regs.banks_eq]
    exact hf
  rw [if_neg (by simp [ret]), if_neg (by simp [regs.parityEn_eq, hp])]
  exact ⟨r, entered, rfl⟩

/-! ## The way back (R692, R708) -/

/-- What a ROLLBACK to the retained step `f` leaves. -/
def State.RolledBack (n f cause : Nat) (s t : State) : Prop :=
  t.jobState n = 4 ∧ t.fsStep n = f ∧ t.psStep n = min (s.psStep n) f ∧
  (∀ y ∈ t.insts, y.ctx = n → ¬(y.sq = 1024 ∧ y.opcode = 0x10) → y.phase = .done ∨ s.planRuns y = true) ∧ s.Logged t 0x0602 (s.timed f cause)

/-- The repair that a ROLLBACK to `f` begins in a region. -/
def State.Repairing (n f : Nat) (g : Region) (s t : State) : Prop :=
  ∃ b others, (t.ctx n).repair = some (b, others) ∧ b = s.granAt n g f (((s.ctx n).lastBad - g.base) / 1024) ∧
    memRead t.mem b 1024 = List.replicate 1024 0#8 ∧ t.diacPhys b = 0#32

/-- The last part of a ROLLBACK: what the context forgets, and the record. -/
def State.wentBack (w : State) (n f cause : Nat) (g : Ctx → Ctx) : State := (w.modCtx n g).logTimed 0x0602 ((w.modCtx n g).jobId n) f cause

theorem State.wentBack_rest (w : State) (n f cause : Nat) (g : Ctx → Ctx) : (w.wentBack n f cause g).regs = w.regs ∧
    (w.wentBack n f cause g).insts = w.insts ∧ (w.wentBack n f cause g).fab = w.fab ∧ (w.wentBack n f cause g).mem = w.mem ∧
    (w.wentBack n f cause g).diacs = w.diacs ∧ (w.wentBack n f cause g).ctxs = modNth g n w.ctxs :=
  ⟨State.logEv_regs .., State.logEv_insts .., State.logEv_fab .., State.logEv_mem .., State.logEv_diacs .., State.logEv_ctxs ..⟩

theorem State.wentBack_logged {w : State} (hl : w.log = s.log) (hc : w.clock = s.clock) (n f cause : Nat) (g : Ctx → Ctx) :
    s.Logged (w.wentBack n f cause g) 0x0602 (s.timed f cause) :=
  State.logged_logTimed (u := w.modCtx n g) hl hc 0x0602 _ f cause (by omega)

/-- A state after a way back that quiet steps, but for contexts, lead to. -/
theorem State.Entered.rolledBack {v w : State} {c : List Ctx} (h : State.Entered n s r) (q : State.Quiet (backOffs n) r v) (hf : v.fsStep n = f)
    (hp : v.psStep n = min (r.psStep n) f) (hu : State.Quiet [] v u) (hw : w = { u with ctxs := c }) (cause : Nat) (g : Ctx → Ctx) :
    (w.wentBack n f cause g).fab.recv = s.fab.recv ∧ State.RolledBack n f cause s (w.wentBack n f cause g) := by
  have hregs : w.regs = u.regs := by rw [hw]
  have hinsts : w.insts = u.insts := by rw [hw]
  have hfab : w.fab = u.fab := by rw [hw]
  have hlog : w.log = u.log := by rw [hw]
  have hclock : w.clock = u.clock := by rw [hw]
  have logged := State.wentBack_logged ((hlog.trans (hu.log.trans q.log)).trans h.log) ((hclock.trans (hu.clock.trans q.clock)).trans h.clock) n f cause g
  obtain ⟨r1, i1, f1, -⟩ := w.wentBack_rest n f cause g
  generalize w.wentBack n f cause g = t at *
  have kept : v.RegsKept t [] := hu.regs.congr (r1.trans hregs)
  have ps : r.psStep n = s.psStep n := h.regs.jr (by simp [ctxOff_inj])
  have insts : t.insts = r.insts := i1.trans (hinsts.trans (hu.insts.trans q.insts))
  refine ⟨?_, ?_, (kept.jr (by simp)).trans hf, (kept.jr (by simp)).trans (hp.trans (by rw [ps])), ?_, logged⟩
  · rw [f1, hfab, hu.fab, q.fab]
    exact h.recv
  · exact ((kept.rf (by simp) 0 3).trans (q.regs.rf (by simp [backOffs, ctxOff_inj]) 0 3)).trans h.state
  · rw [insts]
    exact h.ended

theorem State.rollback_back (hr : s.running n = true) (hf : s.retained n f = true) (hp : s.parityEn n = false) (h32 : f < 2 ^ 32) (cause lost : Nat) :
    (s.rollback n f cause lost).fab.recv = s.fab.recv ∧ State.RolledBack n f cause s (s.rollback n f cause lost) := by
  obtain ⟨r, entered, e⟩ := State.rollback_eq hr hf hp cause lost
  obtain ⟨v, w, g, q, hfs, hps, hw, -, e'⟩ := r.rollbackTo_frame n h32 cause
  have quiet : ∃ u c, State.Quiet [] v u ∧ w = { u with ctxs := c } := by
    rw [hw]
    split
    · exact v.beginRepair_frame n f
    · exact ⟨v, v.ctxs, .refl _ v, rfl⟩
  obtain ⟨u, c, hu, hw'⟩ := quiet
  rw [e, e']
  exact entered.rolledBack q hfs hps hu hw' cause g

theorem rollback_acts (h : s.Told p 0x22 false) (hj : s.ctxsOf (pktWord p 0 % 4096) = [n]) (hr : s.running n = true)
    (hf : s.retained n (pktWord p 1) = true) (hp : s.parityEn n = false) :
    ∃ t, exec (.rollback p) s = .next t ∧ t.Took p ∧ State.RolledBack n (pktWord p 1) (pktWord p 2 % 4) s t :=
  State.tell_one (op := fun s n => s.rollback n (pktWord p 1) (pktWord p 2 % 4) (pktWord p 3 % 65536)) _ rfl h hj (fun _ _ _ _ h => h)
    fun F => State.rollback_back (s := s.withFab F) hr hf hp (pktWord_lt p 1) _ _

/-- The note of a repair outlives the way back, and what stands at the granule. -/
theorem State.wentBack_repair {b : Nat} {others : List Nat} (hn : n < u.ctxs.length) {g : Ctx → Ctx} (hg : ∀ c, (g c).repair = c.repair) (cause : Nat) :
    (((u.modCtx n fun c => { c with repair := some (b, others) }).wentBack n f cause g).ctx n).repair = some (b, others) ∧
    ((u.modCtx n fun c => { c with repair := some (b, others) }).wentBack n f cause g).mem = u.mem ∧
    ((u.modCtx n fun c => { c with repair := some (b, others) }).wentBack n f cause g).diacs = u.diacs := by
  have noted : ((u.modCtx n fun c => { c with repair := some (b, others) }).ctx n).repair = some (b, others) := congrArg Ctx.repair (State.ctx_modCtx_same hn _)
  have mem : (u.modCtx n fun c => { c with repair := some (b, others) }).mem = u.mem := rfl
  have diacs : (u.modCtx n fun c => { c with repair := some (b, others) }).diacs = u.diacs := rfl
  generalize (u.modCtx n fun c => { c with repair := some (b, others) }) = w at *
  obtain ⟨-, -, -, m1, d1, c1⟩ := w.wentBack_rest n f cause g
  refine ⟨?_, m1.trans mem, d1.trans diacs⟩
  have keep := State.ctx_modCtx_keeps w Ctx.repair n n hg
  unfold State.ctx at *
  rw [c1]
  exact keep.trans noted

theorem State.rollback_repairs (hr : s.running n = true) (hf : s.retained n f = true) (hp : s.parityEn n = false) (h32 : f < 2 ^ 32) (lost : Nat)
    (hm : s.memOk = true) (hn : n < s.ctxs.length) (hbad : (s.ctx n).lastBad ≠ 0) {g : Region} (hg : s.badRegion n = some g) :
    State.Repairing n f g s (s.rollback n f 3 lost) := by
  obtain ⟨r, entered, e⟩ := State.rollback_eq hr hf hp 3 lost
  obtain ⟨v, w, k, q, -, -, hw, hk, e'⟩ := r.rollbackTo_frame n h32 3
  have regs : s.RegsKept v (recoverOffs n) := (entered.regs.trans q.regs).mono (by simp [recoverOffs])
  have bad : (v.ctx n).lastBad = (s.ctx n).lastBad := by
    rw [← entered.bad]
    unfold State.ctx
    rw [q.ctxs]
  have region : v.badRegion n = some g := by
    unfold State.badRegion at *
    rw [bad, regs.stateRegions_eq]
    exact hg
  have ok : v.memOk = true := q.ok ((State.memOk_congr entered.mem entered.diacs).trans hm)
  rw [if_pos ⟨rfl, by rw [bad]; exact hbad⟩] at hw
  rcases v.beginRepair_eq n f with ⟨none, -⟩ | ⟨g', others, some, eb⟩
  · rw [region] at none
    nomatch none
  · obtain rfl : g = g' := by simpa [region] using some
    rw [bad, regs.granAt_eq] at eb
    rw [e, e', hw, eb]
    have reads := State.emptied_reads ok (s.granAt n g f (((s.ctx n).lastBad - g.base) / 1024))
    have size : n < (v.emptied (s.granAt n g f (((s.ctx n).lastBad - g.base) / 1024))).ctxs.length := by
      rw [(v.emptied_quiet _).ctxs, q.ctxs, entered.size]
      exact hn
    obtain ⟨noted, mem, diacs⟩ := State.wentBack_repair (f := f) (b := s.granAt n g f (((s.ctx n).lastBad - g.base) / 1024)) (others := others) size hk 3
    refine ⟨_, others, noted, rfl, ?_, ?_⟩
    · exact (congrArg (memRead · _ 1024) mem).trans reads.1
    · exact (State.diacPhys_congr diacs _).trans reads.2

theorem rollback_repair_acts (h : s.Told p 0x22 false) (hj : s.ctxsOf (pktWord p 0 % 4096) = [n]) (h3 : pktWord p 2 % 4 = 3)
    (hr : s.running n = true) (hf : s.retained n (pktWord p 1) = true) (hp : s.parityEn n = false)
    (hm : s.memOk = true) (hn : n < s.ctxs.length) (hbad : (s.ctx n).lastBad ≠ 0) {g : Region} (hg : s.badRegion n = some g) :
    ∃ t, exec (.rollback p) s = .next t ∧ t.Took p ∧ State.Repairing n (pktWord p 1) g s t :=
  State.tell_one (op := fun s n => s.rollback n (pktWord p 1) (pktWord p 2 % 4) (pktWord p 3 % 65536)) _ rfl h hj (fun _ _ _ _ h => h)
    fun F => by
      refine ⟨(State.rollback_back (s := s.withFab F) hr hf hp (pktWord_lt p 1) _ _).1, ?_⟩
      rw [h3]
      exact State.rollback_repairs (s := s.withFab F) hr hf hp (pktWord_lt p 1) _ hm hn hbad hg

end Sys2Proof.Machine
end

section
/-! PROOFS, family 02_command_model: FULL_STOP at a STEP that awaits it (O56). -/
namespace Sys2Proof.Machine
variable {s t u : State} {n f : Nat} {p : Packet} {x : Inst}

/-! ## What a Full Stop commits (R679, R691) -/

/-- FS_STEP, JNL_STEP and the digest of the step. -/
def State.commit (s : State) (n f d : Nat) : State :=
  let s := s.setReg (ctxOff n 0x804) (BitVec.ofNat 32 f)
  let s := s.setReg (ctxOff n 0x80C) (BitVec.ofNat 32 (max (s.jr n 0x80C) (f + 1 - s.detectN n)))
  (s.setReg (ctxOff n 0x814) (BitVec.ofNat 32 d)).setReg (ctxOff n 0x818) (BitVec.ofNat 32 (d / 2 ^ 32))

/-- What follows: the journal shrinks, a record is written, the clusters in service are noted. -/
def State.closed (s : State) (n f : Nat) : State :=
  ((s.trimJournal n (f + 2 - s.banks n)).logTimed 0x0601 ((s.trimJournal n (f + 2 - s.banks n)).jobId n) f 0).noteService n

/-- Registers of a context that a Full Stop reaches. -/
def stopOffs (n : Nat) : List Nat := [0x804, 0x80C, 0x814, 0x818, 0x82C].map (ctxOff n)

/-- Stores, descriptors and fabric are as before. -/
structure State.Around (s t : State) : Prop where
  stores : s.StoresKept t
  insts : t.insts = s.insts
  fab : t.fab = s.fab

theorem State.detectN_pos (s : State) (n : Nat) : 1 ≤ s.detectN n := by
  unfold State.detectN
  dsimp only
  split <;> omega

theorem State.commit_regs (s : State) (n d : Nat) (hf : f < 2 ^ 32) : s.RegsKept (s.commit n f d) (stopOffs n) ∧ (s.commit n f d).fsStep n = f ∧
    (s.commit n f d).jr n 0x80C = max (s.jr n 0x80C) (f + 1 - s.detectN n) := by
  unfold State.commit
  extract_lets u v
  have ku : s.RegsKept u (stopOffs n) := (State.RegsKept.refl s _).setReg (by simp [stopOffs]) _
  have fu : u.fsStep n = f := s.jr_setReg n _ hf
  have ju : u.jr n 0x80C = s.jr n 0x80C := s.jr_setReg_of_ne (ctxOff_ne (by omega)) _
  have du : u.detectN n = s.detectN n := by
    unfold State.detectN
    rw [(s.regsKept_setReg (ctxOff n 0x804) _).rf (by simp [ctxOff_inj])]
  clear_value u
  have kv : s.RegsKept v (stopOffs n) := ku.setReg (by simp [stopOffs]) _
  have fv : v.fsStep n = f := (u.jr_setReg_of_ne (ctxOff_ne (by omega)) _).trans fu
  have jv : v.jr n 0x80C = max (s.jr n 0x80C) (f + 1 - s.detectN n) := by
    have h1 : s.jr n 0x80C < 2 ^ 32 := BitVec.isLt _
    have h2 := s.detectN_pos n
    rw [← ju, ← du] at *
    exact u.jr_setReg n _ (by omega)
  clear_value v
  have k : v.RegsKept ((v.setReg (ctxOff n 0x814) (BitVec.ofNat 32 d)).setReg (ctxOff n 0x818) (BitVec.ofNat 32 (d / 2 ^ 32))) [ctxOff n 0x814, ctxOff n 0x818] :=
    ((State.RegsKept.refl v _).setReg (by simp) _).setReg (by simp) _
  exact ⟨(kv.trans k).mono (by simp [stopOffs]), (k.jr (by simp [ctxOff_inj])).trans fv, (k.jr (by simp [ctxOff_inj])).trans jv⟩

theorem State.commit_around (s : State) (n f d : Nat) : State.Around s (s.commit n f d) ∧ (s.commit n f d).log = s.log ∧ (s.commit n f d).clock = s.clock :=
  ⟨⟨State.storesKept_of_eq rfl rfl rfl, rfl, rfl⟩, rfl, rfl⟩

theorem State.closed_regs (s : State) (n f : Nat) : s.RegsKept (s.closed n f) [ctxOff n 0x82C] := by
  have h : s.RegsKept (s.trimJournal n (f + 2 - s.banks n)) [ctxOff n 0x82C] :=
    State.RegsKept.setF (s := s) (State.regsKept_of_eq rfl _) (List.mem_singleton_self _) _ _ _
  exact h.congr (State.logEv_regs ..)

theorem State.closed_around (s : State) (n f : Nat) : State.Around s (s.closed n f) :=
  ⟨State.storesKept_of_eq (State.logEv_mem ..) (State.logEv_diacs ..) (State.logEv_poison ..), State.logEv_insts .., State.logEv_fab ..⟩

theorem State.closed_logged (hl : u.log = s.log) (hc : u.clock = s.clock) (n f : Nat) : s.Logged (u.closed n f) 0x0601 (s.timed f 0) :=
  State.logged_logTimed (u := u.trimJournal n (f + 2 - u.banks n)) hl hc 0x0601 _ f 0 (by omega)

/-- Without parity and without a switch of recipe versions, the STEP ends at once. -/
theorem State.applyFullStop_eq (hi : s.inst? x.id = some x) (hp : s.parityEn x.ctx = false) (hf : f < 2 ^ 32) : ∃ d,
    s.applyFullStop x f false = ((s.commit x.ctx f d).closed x.ctx f).endInst x 0 0 x.cnt := by
  unfold State.applyFullStop
  extract_lets m d u1 u2 u3 u4 u5 u6 v y
  have hm : m = x.ctx := rfl
  have h3 : u3 = s.commit x.ctx f d := rfl
  have h6 : u6 = u4.closed m f := rfl
  have hv : v = u6 := if_neg (by simp)
  have hy : y = (v.inst? x.id).getD x := rfl
  have h4 : u4 = if u3.parityEn m then u3.startDeltas m f else u3 := rfl
  clear_value y v u6 u5 u4 u3 u2 u1 m
  subst hm h3
  obtain ⟨kc, -, -⟩ := s.commit_regs x.ctx d hf
  obtain ⟨ac, -, -⟩ := s.commit_around x.ctx f d
  have plain : ∀ u, s.RegsKept u (stopOffs x.ctx) → u.parityEn x.ctx = false := fun u h => by
    unfold State.parityEn at *
    rw [h.rf (by simp [stopOffs, ctxOff_inj])]
    exact hp
  rw [plain _ kc, if_neg (by simp)] at h4
  rw [h6, h4] at hv
  have kv : s.RegsKept v (stopOffs x.ctx) := by
    rw [hv]
    exact (kc.trans ((s.commit x.ctx f d).closed_regs x.ctx f)).mono (by simp [stopOffs])
  have iv : v.inst? x.id = some x := by
    rw [hv, State.inst?_congr (State.closed_around ..).insts, State.inst?_congr ac.insts]
    exact hi
  rw [plain v kv, if_neg (by simp), hy, iv, hv]
  exact ⟨d, rfl⟩

/-- What a Full Stop `f` leaves of the context of `x`. -/
def State.Committed (x : Inst) (f : Nat) (s t : State) : Prop :=
  t.fsStep x.ctx = f ∧ t.Ended x.id 0 0 ∧ s.Logged t 0x0601 (s.timed f 0) ∧
  t.jr x.ctx 0x80C = max (s.jr x.ctx 0x80C) (f + 1 - s.detectN x.ctx) ∧ t.epoch x.ctx = s.epoch x.ctx ∧ s.StoresKept t

theorem State.applyFullStop_commits (hi : s.inst? x.id = some x) (hp : s.parityEn x.ctx = false) (hf : f < 2 ^ 32) :
    (s.applyFullStop x f false).fab.recv = s.fab.recv ∧ State.Committed x f s (s.applyFullStop x f false) := by
  obtain ⟨d, e⟩ := State.applyFullStop_eq hi hp hf
  obtain ⟨kc, fc, jc⟩ := s.commit_regs x.ctx d hf
  obtain ⟨ac, lc, cc⟩ := s.commit_around x.ctx f d
  rw [e]
  generalize s.commit x.ctx f d = u at *
  have k := u.closed_regs x.ctx f
  have a := u.closed_around x.ctx f
  have logged := State.closed_logged lc cc x.ctx f
  generalize u.closed x.ctx f = v at *
  have iv : v.inst? x.id = some x := by
    rw [State.inst?_congr a.insts, State.inst?_congr ac.insts]
    exact hi
  have ended := v.ended_endInst (x := x) iv 0 0 x.cnt
  obtain ⟨F, i, e', recv⟩ := v.endInst_rest x 0 0 x.cnt
  rw [e'] at ended ⊢
  have ep : v.epoch x.ctx = s.epoch x.ctx := ((kc.trans k).rf (by simp [stopOffs, ctxOff_inj]) 0 1)
  refine ⟨recv.trans (congrArg Fabric.recv (a.fab.trans ac.fab)), (k.jr (by simp [ctxOff_inj])).trans fc, ended, logged,
    (k.jr (by simp [ctxOff_inj])).trans jc, ep, (ac.stores.trans a.stores)⟩

theorem State.ctx_of_stepOf {stage : Nat} (h : s.stepOf n stage = some x) : x.ctx = n := by
  have h := List.find?_some h
  simp only [Bool.and_eq_true, beq_iff_eq] at h
  exact h.1.1.1

theorem fullStop_acts (h : s.Told p 0x21 false) (hj : s.ctxsOf (pktWord p 0 % 4096) = [n]) (hx : s.stepOf n 2 = some x)
    (hi : s.inst? x.id = some x) (hr : s.running n = true) (hw : x.w 6 = pktWord p 1) (hp : s.parityEn n = false) (hb : bit (pktWord p 2) 0 = false) :
    ∃ t, exec (.fullStop p) s = .next t ∧ t.Took p ∧ State.Committed x (pktWord p 1) s t := by
  obtain rfl := State.ctx_of_stepOf hx
  refine State.tell_one (State.Committed x (pktWord p 1)) rfl h hj (fun _ _ _ _ h => h) fun F => ?_
  rw [show (s.withFab F).stepOf x.ctx 2 = some x from hx]
  dsimp only
  rw [if_pos ⟨hr, hw⟩, hb]
  exact State.applyFullStop_commits (s := s.withFab F) hi hp (pktWord_lt p 1)

end Sys2Proof.Machine
end

section
/-! PROOFS, family 02_command_model: the Run-On detector (O56). -/
namespace Sys2Proof.Machine
variable {s t u v : State} {n : Nat}

/-! ## Ends of a context's work -/

theorem State.abortCtx_frame (s : State) (n st : Nat) : ∃ F i, s.abortCtx n st = { s with fab := F, insts := i } := by
  obtain ⟨f, i, e, -⟩ := s.foldl_abortInst_rest st (s.insts.filter fun x => x.ctx == n)
  unfold State.abortCtx
  rw [e]
  exact ⟨_, i, rfl⟩

/-- A fault changes descriptors, fabric and the state register of the context. -/
theorem State.faultCtx_frame (s : State) (n cause : Nat) (h : s.jobState n ≠ 0) : (s.faultCtx n cause).jobState n = 5 ∧
    s.RegsKept (s.faultCtx n cause) [ctxOff n 4] ∧ ∃ r F i, s.faultCtx n cause = { s with regs := r, fab := F, insts := i } := by
  obtain ⟨F, i, e⟩ := s.abortCtx_frame n 0xC
  unfold State.faultCtx
  rw [if_neg h]
  have kept : s.RegsKept (s.abortCtx n 0xC) [ctxOff n 4] := State.regsKept_of_eq (by rw [e]) _
  have five : ((s.abortCtx n 0xC).setJobState n 5).jobState n = 5 := State.jobState_setJobState ..
  refine ⟨?_, ((kept.setF (by simp) 0 3 5).setF (by simp) 4 1 1).setF (by simp) 8 8 cause, ?_⟩
  · unfold State.jobState at *
    exact (State.rf_setF_of_disjoint _ (by omega) (.inl (by omega))).trans ((State.rf_setF_of_disjoint _ (by omega) (.inl (by omega))).trans five)
  · rw [e]
    exact ⟨_, F, i, rfl⟩

/-! ## The detector fires (R502 to R505) -/

/-- What the detector leaves in any case: its status, its record, and memory as it was. -/
structure State.Fired (n : Nat) (s t : State) : Prop where
  status : t.rf (ctxOff n 0x308) 0 1 = 1
  once : (t.ctx n).runOnFired = true
  logged : s.Logged t 0x0304 [n]
  stores : s.StoresKept t
  regs : s.RegsKept t [ctxOff n 0x308, ctxOff n 4]

/-- The same after steps that change neither context nor log nor stores, and of the registers the state of a context at most. -/
theorem State.Fired.of (h : State.Fired n s t) (hr : t.RegsKept u [ctxOff n 4]) (hc : u.ctxs = t.ctxs) (hl : u.log = t.log)
    (hm : u.mem = t.mem) (hd : u.diacs = t.diacs) (hp : u.poison = t.poison) : State.Fired n s u := by
  obtain ⟨status, once, logged, stores, regs⟩ := h
  refine ⟨(hr.rf (by simp [ctxOff_inj]) 0 1).trans status, ?_, ?_, stores.trans (State.storesKept_of_eq hm hd hp), (regs.trans hr).mono (by simp)⟩
  · unfold State.ctx at *
    rwa [hc]
  · unfold State.Logged at *
    rwa [hl]

/-- The count of a context that reached T_RUNON is latched and recorded. -/
def State.latched (s : State) (n : Nat) : State :=
  ((s.setF (ctxOff n 0x308) 0 1 1).logEv 0x0304 (s.jobId n) [n]).modCtx n fun c => { c with runOnFired := true }

theorem State.latched_fired (hn : n < s.ctxs.length) : State.Fired n s (s.latched n) ∧ (s.latched n).jobState n = s.jobState n ∧
    (s.latched n).insts = s.insts := by
  have regs : s.RegsKept (s.setF (ctxOff n 0x308) 0 1 1) [ctxOff n 0x308] := State.RegsKept.setF (State.RegsKept.refl s _) (List.mem_singleton_self _) 0 1 1
  have status : (s.setF (ctxOff n 0x308) 0 1 1).rf (ctxOff n 0x308) 0 1 = 1 := State.rf_setF_same _ (by omega)
  unfold State.latched
  obtain ⟨w, hw, hl, hm, hd, hp, hi, hc⟩ : ∃ w, w = s.setF (ctxOff n 0x308) 0 1 1 ∧ w.log = s.log ∧ w.mem = s.mem ∧ w.diacs = s.diacs ∧
    w.poison = s.poison ∧ w.insts = s.insts ∧ w.ctxs = s.ctxs := ⟨_, rfl, rfl, rfl, rfl, rfl, rfl, rfl⟩
  rw [← hw] at regs status ⊢
  have one : w.Logged (w.logEv 0x0304 (s.jobId n) [n]) 0x0304 [n] := w.logged_logEv _ _ _ (by omega)
  have stores : s.StoresKept (w.logEv 0x0304 (s.jobId n) [n]) :=
    State.storesKept_of_eq ((State.logEv_mem ..).trans hm) ((State.logEv_diacs ..).trans hd) ((State.logEv_poison ..).trans hp)
  have hregs := w.logEv_regs 0x0304 (s.jobId n) [n]
  have hctxs := w.logEv_ctxs 0x0304 (s.jobId n) [n]
  have hinsts := w.logEv_insts 0x0304 (s.jobId n) [n]
  generalize w.logEv 0x0304 (s.jobId n) [n] = u at *
  have kept := regs.congr hregs
  refine ⟨⟨(State.rf_congr hregs _ _ _).trans status, ?_, ?_, stores, kept.mono (by simp)⟩, kept.rf (by simp [ctxOff_inj]) 0 3, hinsts.trans hi⟩
  · exact congrArg Ctx.runOnFired (State.ctx_modCtx_same (by rw [hctxs, hc]; exact hn) _)
  · unfold State.Logged at *
    rwa [hl] at one

/-- The detector beyond its record: its interrupt, and where told so the end of the work that waits and a fault. -/
def State.firedRest (s : State) (n : Nat) : State :=
  let s := if s.rf (ctxOff n 0x30C) 16 1 = 1 then s.raise (n + 1) (s.rf (ctxOff n 0x30C) 0 11) else s
  if s.rf (ctxOff n 0x304) 16 1 = 0 then s
  else ((s.insts.filter fun x => x.ctx == n && x.waits).foldl (fun s x => s.abortInst 0xA x) s).faultCtx n 0xA

theorem State.runOnFire_eq (hr : s.running n = true) (h1 : (s.ctx n).runOnFired = false) (hc : 25000 * s.tRunOn n ≤ (s.ctx n).runOn)
    (hd : s.jr64 n 0x310 = 0) (hn : n < s.ctxs.length) : s.runOnFire n = (s.latched n).firedRest n := by
  have kept := (State.latched_fired hn).1.regs
  have nodump : (s.latched n).runOnDump n = s.latched n := by
    unfold State.runOnDump State.jr64 at *
    rw [kept.jr (by simp [ctxOff_inj]), kept.jr (by simp [ctxOff_inj]), hd]
    exact if_pos (.inl rfl)
  unfold State.runOnFire
  rw [if_neg (by simp [hr, h1]; omega)]
  exact congrArg (fun u => State.firedRest u n) nodump

theorem State.firedRest_eq (s : State) (n : Nat) (hj : s.jobState n ≠ 0) :
    (∀ u, State.Fired n u s → State.Fired n u (s.firedRest n)) ∧
    (s.rf (ctxOff n 0x304) 16 1 = 0 → (s.firedRest n).jobState n = s.jobState n ∧ (s.firedRest n).insts = s.insts) ∧
    (s.rf (ctxOff n 0x304) 16 1 = 1 → (s.firedRest n).jobState n = 5) := by
  unfold State.firedRest
  extract_lets v
  have told : ∃ h, v = { s with host := h } := by
    obtain ⟨r, h, e⟩ := s.raise_eq (n + 1) (s.rf (ctxOff n 0x30C) 0 11)
    exact ite_keeps (P := fun t : State => ∃ h, t = { s with host := h }) ⟨_, e⟩ ⟨s.host, rfl⟩
  clear_value v
  obtain ⟨h, e⟩ := told
  have same : ∀ u, State.Fired n u s → State.Fired n u v := fun u f =>
    f.of (State.regsKept_of_eq (by rw [e]) _) (by rw [e]) (by rw [e]) (by rw [e]) (by rw [e]) (by rw [e])
  have state : v.jobState n = s.jobState n := by rw [e]; rfl
  have insts : v.insts = s.insts := by rw [e]
  have told0 : v.rf (ctxOff n 0x304) 16 1 = s.rf (ctxOff n 0x304) 16 1 := by rw [e]; rfl
  clear e
  rw [told0]
  by_cases h0 : s.rf (ctxOff n 0x304) 16 1 = 0
  · rw [if_pos h0]
    exact ⟨same, fun _ => ⟨state, insts⟩, fun h1 => absurd (h0.symm.trans h1) (by omega)⟩
  · rw [if_neg h0]
    obtain ⟨F, i, e, -⟩ := v.foldl_abortInst_rest 0xA (v.insts.filter fun x => x.ctx == n && x.waits)
    rw [e]
    obtain ⟨five, kept, r, F', i', e'⟩ := State.faultCtx_frame { v with fab := F, insts := i } n 0xA (fun h => hj (state.symm.trans h))
    rw [e'] at five kept ⊢
    exact ⟨fun u f => (same u f).of kept rfl rfl rfl rfl rfl, fun h1 => absurd h1 h0, fun _ => five⟩

theorem runOnFire_acts (h16 : n < 16) (hn : n < s.ctxs.length) (hr : s.running n = true) (h1 : (s.ctx n).runOnFired = false)
    (hc : 25000 * s.tRunOn n ≤ (s.ctx n).runOn) (hd : s.jr64 n 0x310 = 0) :
    ∃ t, exec (.runOnFire n) s = .next t ∧ t.rf (ctxOff n 0x308) 0 1 = 1 ∧ (t.ctx n).runOnFired = true ∧ s.Logged t 0x0304 [n] ∧ s.StoresKept t ∧
      (s.rf (ctxOff n 0x304) 16 1 = 0 → t.jobState n = s.jobState n ∧ t.insts = s.insts) ∧
      (s.rf (ctxOff n 0x304) 16 1 = 1 → t.jobState n = 5) := by
  obtain ⟨fired, state, insts⟩ := State.latched_fired (s := s) hn
  have running : (s.latched n).jobState n ≠ 0 := by
    rw [state]
    intro h0
    simp [State.running, h0] at hr
  obtain ⟨rest, quiet, fault⟩ := (s.latched n).firedRest_eq n running
  rw [fired.regs.rf (by simp [ctxOff_inj])] at quiet fault
  obtain ⟨status, once, logged, stores, -⟩ := rest s fired
  refine ⟨_, act_of_wf (c := .runOnFire n) (decide_eq_true h16) _, ?_⟩
  rw [State.runOnFire_eq hr h1 hc hd hn]
  exact ⟨status, once, logged, stores, fun h0 => ⟨(quiet h0).1.trans state, (quiet h0).2.trans insts⟩, fault⟩

end Sys2Proof.Machine
end

section
/-! PROOFS, family 02_command_model: the close of a STEP and its STEP_DONE (O56). -/
namespace Sys2Proof.Machine
variable {s t u : State} {n : Nat} {x : Inst}

/-! ## What is sent -/

theorem State.sendFlow_dst (s : State) (d : Nat) : (s.sendFlow d).dst = d := by
  unfold State.sendFlow
  split
  · rename_i f h
    simpa using List.find?_some h
  · rfl

/-- A send flow just put is there, and the others are as before. -/
theorem State.sendFlow_putSend (s : State) (f : SendFlow) (d : Nat) : (s.putSend f).sendFlow d = if d = f.dst then f else s.sendFlow d := by
  unfold State.putSend State.sendFlow
  by_cases h : (s.fab.send.any fun g => g.dst == f.dst) = true
  · rw [if_pos h]
    dsimp only
    rw [find?_map_replace SendFlow.dst, if_pos h]
    by_cases hd : d = f.dst <;> simp [hd]
  · have hn : s.fab.send.find? (fun g => g.dst == f.dst) = none := by simpa using h
    rw [if_neg h]
    dsimp only
    rw [List.find?_append]
    by_cases hd : d = f.dst
    · subst hd
      simp [hn]
    · rw [if_neg hd]
      cases s.fab.send.find? (fun g => g.dst == d) <;> simp [Ne.symm hd]

/-- A sequenced packet is added to the flow of its destination. -/
theorem State.sent_sendSeq (s : State) (o : Option Nat) (die : Nat) (p : Packet) : s.Sent (s.sendSeq o die p) [p] := by
  intro d
  unfold State.sendSeq
  dsimp only
  have key : ∀ (q : Packet) (i : Nat) (f : SendFlow), bodyOf q = bodyOf p → f.dst = p.dst →
      ((s.putSend { f with next := i, stored := (s.sendFlow p.dst).stored ++ [⟨q, o, 0, s.clock.now, none⟩] }).inject die q).outTo d =
        s.outTo d ++ (([p].filter fun p => p.dst == d).map bodyOf) := by
    intro q i f hq hf
    have flow := s.sendFlow_putSend { f with next := i, stored := (s.sendFlow p.dst).stored ++ [⟨q, o, 0, s.clock.now, none⟩] } d
    refine (congrArg (fun g : SendFlow => g.stored.map fun e => bodyOf e.pkt) flow).trans ?_
    unfold State.outTo
    dsimp only
    by_cases hd : d = p.dst
    · subst hd
      rw [if_pos hf.symm, List.map_append]
      simp [hq]
    · rw [hf, if_neg hd]
      simp [Ne.symm hd]
  exact key _ _ _ rfl (s.sendFlow_dst _)

theorem State.outTo_congr (h : t.fab = s.fab) (d : Nat) : t.outTo d = s.outTo d := by
  unfold State.outTo State.sendFlow
  rw [h]

theorem State.Sent.of_fab {s' t' : State} {pk : List Packet} (h : s.Sent t pk) (hs : s.fab = s'.fab) (ht : t'.fab = t.fab) : s'.Sent t' pk := fun d => by
  rw [State.outTo_congr ht, ← State.outTo_congr hs]
  exact h d

/-! ## Steps that keep descriptors, fabric and configuration -/

/-- Registers that the close of a step reaches: flags, the journal's count, a counter of dropped events. -/
def closeOffs (n : Nat) : List Nat := 0x30204 :: [0x82C, 0x224, 0x22C, 0x230].map (ctxOff n)

/-- Descriptors, fabric, count of contexts and the registers but those of a close are as before. -/
structure State.Calm (n : Nat) (s t : State) : Prop where
  insts : t.insts = s.insts
  fab : t.fab = s.fab
  size : t.ctxs.length = s.ctxs.length
  regs : s.RegsKept t (closeOffs n)

theorem State.Calm.refl (n : Nat) (s : State) : State.Calm n s s := ⟨rfl, rfl, rfl, .refl s _⟩

theorem State.Calm.trans (h : State.Calm n s t) (g : State.Calm n t u) : State.Calm n s u :=
  ⟨g.insts.trans h.insts, g.fab.trans h.fab, g.size.trans h.size, (h.regs.trans g.regs).mono (by simp)⟩

theorem State.Quiet.calm (q : State.Quiet (closeOffs n) s t) : State.Calm n s t := ⟨q.insts, q.fab, congrArg List.length q.ctxs, q.regs⟩

theorem State.Calm.foldl {α : Type} {f : State → α → State} {l : List α} (h : State.Calm n s t) (hf : ∀ (t : State) (a : α), State.Calm n t (f t a)) :
    State.Calm n s (l.foldl f t) := by
  induction l generalizing t with
  | nil => exact h
  | cons a l ih => exact ih (h.trans (hf t a))

theorem State.Calm.setF (h : State.Calm n s t) {off : Nat} (ho : off ∈ closeOffs n) (lo w x : Nat) : State.Calm n s (t.setF off lo w x) :=
  ⟨h.insts, h.fab, h.size, h.regs.setF ho lo w x⟩

theorem State.Calm.modCtx (h : State.Calm n s t) (k : Nat) (f : Ctx → Ctx) : State.Calm n s (t.modCtx k f) :=
  ⟨h.insts, h.fab, (modNth_length ..).trans h.size, h.regs⟩

theorem State.Calm.raise (h : State.Calm n s t) (fn v : Nat) : State.Calm n s (t.raise fn v) := by
  obtain ⟨r, i, e⟩ := t.raise_eq fn v
  rw [e]
  exact ⟨h.insts, h.fab, h.size, h.regs⟩

theorem State.raiseFlag_calm (s : State) (n b lg : Nat) : State.Calm n s (s.raiseFlag n b lg) := by
  have here : ctxOff n (if b = 3 then 0x230 else 0x22C) ∈ closeOffs n := by split <;> simp [closeOffs]
  unfold State.raiseFlag
  extract_lets off lo had inStep u v
  have hu : State.Calm n s u := (State.Calm.refl n s).modCtx n _
  have hv : State.Calm n s v := (hu.setF (by simp [closeOffs]) b 1 1).setF here lo 8 lg
  split
  · split
    · exact hu.setF here ..
    · exact hu
  · split
    · exact hv.raise ..
    · exact hv

theorem State.lgFlags_calm (s : State) (n lg : Nat) : State.Calm n s (s.lgFlags n lg) := by
  unfold State.lgFlags
  split
  · exact .refl n s
  · extract_lets
    have flag : ∀ (t : State) (b : Nat) (c : Prop) [Decidable c], State.Calm n s t → State.Calm n s (if c then t.raiseFlag n b lg else t) :=
      fun t b c _ h => ite_keeps (P := State.Calm n s) (h.trans (t.raiseFlag_calm n b lg)) h
    exact flag _ 3 _ (flag _ 2 _ (flag _ 1 _ (.refl n s)))

theorem State.openGranule_calm (s : State) (n : Nat) (g : Region) (k : Nat) (w : Bool) : State.Calm n s (s.openGranule n g k w) := by
  have self := State.Quiet.refl (closeOffs n) s
  have appended : ∀ f, State.Calm n s (s.jnlAppend n g k f) := fun f => by
    unfold State.jnlAppend
    extract_lets a e u
    have hu : State.Calm n s u := ⟨rfl, rfl, rfl, State.regsKept_of_eq rfl _⟩
    exact hu.setF (off := ctxOff n 0x82C) (by simp [closeOffs]) ..
  have tagged : ∀ t f l, State.Calm n s t → State.Calm n s (t.setTags g k f l) := fun t f l h => h.trans ((State.Quiet.refl _ t).setTags g k f l).calm
  unfold State.openGranule
  extract_lets f last src dst bad u v
  split
  · exact .refl n s
  · refine tagged v f last ?_
    refine ite_keeps (P := State.Calm n s) (appended f) (ite_keeps (P := State.Calm n s) (.refl n s) ?_)
    exact ((self.wrPhys dst (memRead s.mem src 1024)).setDiacPhys dst (s.diacPhys src)).calm.trans ⟨rfl, rfl, rfl, State.regsKept_of_eq rfl _⟩

theorem State.wrPiece_calm (s : State) (n a : Nat) (bs : List Byte) : State.Calm n s (s.wrPiece (some n) a bs) := by
  have wrote : ∀ t b, State.Calm n s t → State.Calm n s (t.wrPhys b bs) := fun t b h => h.trans ((State.Quiet.refl _ t).wrPhys b bs).calm
  unfold State.wrPiece
  split
  · exact .refl n s
  · exact .refl n s
  · dsimp only
    split
    · exact wrote s a (.refl n s)
    · exact wrote _ _ (s.openGranule_calm n ‹Region› _ _)

theorem State.writeHealth_calm (s : State) (n f : Nat) : State.Calm n s (s.writeHealth n f) := by
  unfold State.writeHealth
  extract_lets a at_
  refine ite_keeps (P := State.Calm n s) (.refl n s) ?_
  exact (State.Calm.refl n s).foldl fun t p => t.wrPiece_calm n ..

theorem State.telemetry_calm (s : State) (n f : Nat) : State.Calm n s (s.telemetry n f) := by
  unfold State.telemetry
  extract_lets c u
  have hu : State.Calm n s u := ite_keeps (P := State.Calm n s) ((State.Calm.refl n s).setF (off := 0x30204) (by simp [closeOffs]) ..) (.refl n s)
  split
  · exact .refl n s
  · split
    · exact hu.modCtx ..
    · exact (hu.modCtx n _).trans ⟨rfl, rfl, rfl, State.regsKept_of_eq rfl _⟩

/-! ## STEP_CLOSE (R672, R674) -/

theorem State.regionFill_calm (s : State) (n f : Nat) (g : Region) : State.Calm n s (s.fillRegion n f g) :=
  ((State.Quiet.refl _ s).fillRegion n f g).calm

theorem State.inst?_modInst {i : Nat} {y : Inst} (h : s.inst? i = some y) {f : Inst → Inst} (hf : ∀ y, (f y).id = y.id) :
    (s.modInst i f).inst? i = some (f y) := by
  unfold State.modInst State.inst? at *
  dsimp only at *
  generalize s.insts = l at h
  induction l with
  | nil => nomatch h
  | cons z l ih =>
    rw [List.find?_cons] at h
    by_cases hz : z.id = i
    · rw [hz, beq_self_eq_true] at h
      obtain rfl : z = y := by simpa using h
      simp [hz, hf]
    · rw [beq_false_of_ne hz] at h
      simpa [hz] using ih h

/-- The context's step is over and the STEP waits for its Full Stop, with the digest. -/
def State.stepped (s : State) (x : Inst) (d : Nat) : State :=
  (s.modCtx x.ctx fun c => { c.newStep with lastBad := c.badGranule }).modInst x.id fun y => { y with stage := 2, slot := [d] }

theorem State.stepped_facts (hi : s.inst? x.id = some x) (hn : x.ctx < s.ctxs.length) (d : Nat) :
    (∃ y, (s.stepped x d).inst? x.id = some y ∧ y.stage = 2) ∧ ((s.stepped x d).ctx x.ctx).errMask = 0 ∧
    (s.stepped x d).regs = s.regs ∧ (s.stepped x d).fab = s.fab := by
  have hc := State.ctx_modCtx_same hn fun c => { c.newStep with lastBad := c.badGranule }
  have here := State.inst?_modInst (s := s.modCtx x.ctx fun c => { c.newStep with lastBad := c.badGranule }) hi
    (f := fun y => { y with stage := 2, slot := [d] }) fun _ => rfl
  exact ⟨⟨_, here, rfl⟩, congrArg Ctx.errMask hc, rfl, rfl⟩

/-- What a STEP leaves when it has sent STEP_DONE. -/
def State.StepClosed (x : Inst) (s t : State) : Prop := ∃ y ws, t.inst? x.id = some y ∧ y.stage = 2 ∧ (t.ctx x.ctx).errMask = 0 ∧
  t.fsStep x.ctx = s.fsStep x.ctx ∧ s.Sent t [ctrlPkt s.managerId 0x20 (s.jobId x.ctx :: x.w 6 :: ws)]

theorem State.Calm.stepClosed (h : State.Calm x.ctx s u) (hi : s.inst? x.id = some x) (hn : x.ctx < s.ctxs.length) (ws : List Nat) (d : Nat) :
    State.StepClosed x s ((u.sendCtrl u.managerId 0x20 (u.jobId x.ctx :: x.w 6 :: ws)).stepped x d) := by
  have sent : u.Sent (u.sendCtrl u.managerId 0x20 (u.jobId x.ctx :: x.w 6 :: ws)) [ctrlPkt u.managerId 0x20 (u.jobId x.ctx :: x.w 6 :: ws)] :=
    u.sent_sendSeq none 0 _
  obtain ⟨g, b, e⟩ := u.sendCtrl_eq u.managerId 0x20 (u.jobId x.ctx :: x.w 6 :: ws)
  have manager : u.managerId = s.managerId := by
    unfold State.managerId State.devId
    rw [h.regs.rf (by simp [closeOffs, ctxOff, dieOff]; omega)]
  have job : u.jobId x.ctx = s.jobId x.ctx := h.regs.rf (by simp [closeOffs, ctxOff]; omega) 0 12
  have fs : u.fsStep x.ctx = s.fsStep x.ctx := h.regs.jr (by simp [closeOffs, ctxOff]; omega)
  rw [manager, job] at sent e ⊢
  obtain ⟨v, hv, insts, size, regs⟩ : ∃ v, v = u.sendCtrl s.managerId 0x20 (s.jobId x.ctx :: x.w 6 :: ws) ∧ v.insts = s.insts ∧
      v.ctxs.length = s.ctxs.length ∧ v.regs = u.regs := ⟨_, rfl, by rw [e]; exact h.insts, by rw [e]; exact h.size, by rw [e]⟩
  rw [← hv] at sent ⊢
  obtain ⟨⟨y, here, stage⟩, err, regs', fab⟩ := State.stepped_facts (s := v) ((State.inst?_congr insts _).trans hi) (by rw [size]; exact hn) d
  refine ⟨y, ws, here, stage, err, ?_, sent.of_fab h.fab fab⟩
  exact (congrArg BitVec.toNat (State.reg_congr (regs'.trans regs) _)).trans fs

/-- The work of the close before STEP_DONE is sent. -/
theorem State.closeStep_closes (hi : s.inst? x.id = some x) (hn : x.ctx < s.ctxs.length) : State.StepClosed x s (s.closeStep x) := by
  unfold State.closeStep
  extract_lets n f u1 d u2 u3 u4
  have h1 : State.Calm x.ctx s u1 := (State.Calm.refl _ s).foldl fun t g => t.regionFill_calm ..
  have h2 : State.Calm x.ctx s u2 := h1.foldl fun t lg => ite_keeps (P := State.Calm x.ctx t) (t.lgFlags_calm ..) (.refl _ t)
  have h3 : State.Calm x.ctx s u3 := (h2.trans (u2.writeHealth_calm ..)).trans (State.telemetry_calm ..)
  exact h3.stepClosed hi hn _ d

end Sys2Proof.Machine
end

section
/-! PROOFS, family 02_command_model: steps of a context, settled (O56). -/
namespace Sys2Proof.Machine
variable {s : State} {x : Inst}

/-! ## STEP (R671, R672) -/

theorem State.inst?_of_started {i op : Nat} (h : s.started i op = some x) : s.inst? i = some x := by
  unfold State.started at h
  split at h
  · split at h
    · rw [← h]
      assumption
    · nomatch h
  · nomatch h

theorem State.inst?_of_stepAt {i stage : Nat} (h : s.stepAt i stage = some x) : s.inst? i = some x :=
  State.inst?_of_started (Option.filter_eq_some_iff.1 h).1

theorem stepDesc_holds (h : s.stepAt x.id 0 = some x) :
    ∃ t y, exec (.stepDesc x.id) s = .next t ∧ t.inst? x.id = some y ∧ y.stage = 1 ∧ t = { s with insts := t.insts } := by
  have here := State.inst?_modInst (State.inst?_of_stepAt h) (f := fun y => { y with stage := 1 }) fun _ => rfl
  have step : s.doStep x.id = s.modInst x.id fun y => { y with stage := 1 } := by
    unfold State.doStep
    rw [h]
  exact ⟨_, _, act_of_wf (c := .stepDesc x.id) rfl _, by rw [step]; exact here, rfl, by rw [step]; rfl⟩

theorem stepClose_closes (h : s.stepAt x.id 1 = some x) (hw : s.insts.any (stepWaits x) = false) (hp : s.parityReady x.ctx (x.w 6) = true)
    (hr : s.running x.ctx = true) (hn : x.ctx < s.ctxs.length) : ∃ t, exec (.stepClose x.id) s = .next t ∧ State.StepClosed x s t := by
  have step : s.stepClose x.id = s.closeStep x := by
    unfold State.stepClose
    rw [h]
    exact if_neg (by simp [hw, hp, hr])
  exact ⟨_, act_of_wf (c := .stepClose x.id) rfl _, by rw [step]; exact State.closeStep_closes (State.inst?_of_stepAt h) hn⟩

/-- Settles O56: each step and message of a context by what its operation leaves, the messages at the one context of their job. -/
theorem stepsOfAContext : Obligations.StepsOfAContext := by
  unfold Obligations.StepsOfAContext
  intro s p x n type hs hn job step stamp
  have size := State.sized_ctxs hs hn
  refine ⟨stepDesc_holds, fun h hc hw hp hr => ?_, fun h hj => ⟨?_, ?_, ?_, ?_, ?_, ?_⟩, fun hr h1 hc hd => runOnFire_acts hn size hr h1 hc hd⟩
  · subst hc
    obtain ⟨t, run, y, ws, closed⟩ := stepClose_closes h hw hp hr size
    exact ⟨t, y, ws, run, closed⟩
  · intro ht hx hi hr hw hp hb
    subst ht
    obtain rfl := State.ctx_of_stepOf hx
    exact fullStop_acts h hj hx hi hr hw hp hb
  · intro ht hr hf hp
    subst ht
    exact rollback_acts h hj hr hf hp
  · intro g ht h3 hm hr hf hp hbad hg
    subst ht
    obtain ⟨t, run, -, b, others, repair⟩ := rollback_repair_acts h hj h3 hr hf hp hm size hbad hg
    exact ⟨t, b, others, run, repair⟩
  · intro ht he hf hw h3
    subst ht
    exact parityStop_acts h hj he hf hw h3
  · intro ht h4
    subst ht
    exact resume_acts size h hj h4
  · intro ht hl
    subst ht
    exact rankTable_acts size h hj hl

end Sys2Proof.Machine
end

section
/-! PROOFS, family 04_quantisation_and_scaling: memories byte by byte, and ranges cut at granule boundaries. -/
namespace Sys2Proof.Machine
variable {m m' : List Host.Cell}

/-! ## Memories, byte by byte -/

/-- A memory in canonical form is given by its bytes. -/
theorem Memory.ext_of_wf (h : Memory.wf m = true) (h' : Memory.wf m' = true) (eq : ∀ a, memByte m a = memByte m' a) : m = m' := by
  have cell : ∀ e : Host.Cell, e ∈ m ↔ e ∈ m' := fun (a, v) => by
    by_cases hv : v = 0#8
    · exact ⟨fun he => absurd hv (((Memory.wf_iff m).1 h).2 _ he), fun he => absurd hv (((Memory.wf_iff m').1 h').2 _ he)⟩
    · rw [← memByte_eq_iff h a v hv, ← memByte_eq_iff h' a v hv, eq]
  have : Std.Irrefl fun x y : Host.Cell => x.1 < y.1 := ⟨fun _ => Nat.lt_irrefl _⟩
  have : Std.Antisymm fun x y : Host.Cell => x.1 < y.1 := ⟨fun _ _ hxy hyx => absurd hxy (Nat.lt_asymm hyx)⟩
  exact ((Memory.wf_iff m).1 h).1.eq_of_mem_iff ((Memory.wf_iff m').1 h').1 cell

theorem memWrite_nil (m : List Host.Cell) (a : Nat) : memWrite m a [] = m := by
  simp [memWrite, cells, List.takeWhile_append_dropWhile]

/-- Byte strings written one after another. -/
def memWrites (m : List Host.Cell) (l : List (Nat × List Byte)) : List Host.Cell := l.foldl (fun m p => memWrite m p.1 p.2) m

theorem Memory.wf_memWrites (h : Memory.wf m = true) (l : List (Nat × List Byte)) : Memory.wf (memWrites m l) = true := by
  induction l generalizing m with
  | nil => exact h
  | cons p t ih => exact ih (Memory.wf_memWrite h _ _)

/-! ## Ranges cut at granule boundaries -/

theorem slice_getD {bs : List Byte} {o n k : Nat} (hk : k < n) (hn : o + n ≤ bs.length) : (slice bs o n).getD k 0#8 = bs.getD (o + k) 0#8 := by
  have : k < ((bs.drop o).take n).length := by simp; omega
  simp only [slice, List.getD_eq_getElem?_getD]
  rw [List.getElem?_append_left this, List.getElem?_take_of_lt hk, List.getElem?_drop]

theorem mem_upto {a k x : Nat} : x ∈ upto a k ↔ a ≤ x ∧ x < a + k := by
  simp only [upto, List.mem_map, List.mem_range]
  exact ⟨by rintro ⟨i, hi, rfl⟩; omega, fun h => ⟨x - a, by omega, by omega⟩⟩

/-- Each piece of a range lies in it. -/
theorem granPieces_inside {a n : Nat} {p : Nat × Nat} (h : p ∈ granPieces a n) : a ≤ p.1 ∧ p.1 + p.2 ≤ a + n := by
  unfold granPieces at h
  split at h
  · cases h
  · obtain ⟨g, hg, rfl⟩ := List.mem_map.1 h
    rw [mem_upto] at hg
    dsimp only
    omega

/-- Each byte of a range lies in one of its pieces. -/
theorem granPieces_cover {a n b : Nat} (h1 : a ≤ b) (h2 : b < a + n) : ∃ p ∈ granPieces a n, p.1 ≤ b ∧ b < p.1 + p.2 := by
  unfold granPieces
  rw [if_neg (by omega)]
  refine ⟨_, List.mem_map_of_mem (mem_upto.2 (?_ : _ ≤ b / 1024 ∧ _)), ?_⟩
  · omega
  · dsimp only
    omega

/-- Pieces of one byte string written one after another leave its bytes where they reach, and all others as before. -/
theorem memByte_writePieces (h : Memory.wf m = true) (a : Nat) (bs : List Byte) (l : List (Nat × Nat)) (b : Nat)
    (inside : ∀ p ∈ l, a ≤ p.1 ∧ p.1 + p.2 ≤ a + bs.length) :
    memByte (memWrites m (l.map fun p => (p.1, slice bs (p.1 - a) p.2))) b =
      if ∃ p ∈ l, p.1 ≤ b ∧ b < p.1 + p.2 then bs.getD (b - a) 0#8 else memByte m b := by
  induction l generalizing m with
  | nil => simp [memWrites]
  | cons p t ih =>
    obtain ⟨h1, h2⟩ := inside p List.mem_cons_self
    have first : memByte (memWrite m p.1 (slice bs (p.1 - a) p.2)) b =
        if p.1 ≤ b ∧ b < p.1 + p.2 then bs.getD (b - a) 0#8 else memByte m b := by
      rw [memByte_memWrite h, slice_length]
      split
      · rw [slice_getD (by omega) (by omega)]
        congr 1
        omega
      · rfl
    refine (ih (Memory.wf_memWrite h _ _) fun q hq => inside q (List.mem_cons_of_mem _ hq)).trans ?_
    rw [first]
    simp only [List.exists_mem_cons_iff]
    by_cases hp : p.1 ≤ b ∧ b < p.1 + p.2
    · simp [hp]
    · rw [if_neg hp]
      simp only [hp, false_or]

/-- A byte string written granule by granule is the string written at once. -/
theorem memWrites_granPieces (h : Memory.wf m = true) (a : Nat) (bs : List Byte) :
    memWrites m ((granPieces a bs.length).map fun p => (p.1, slice bs (p.1 - a) p.2)) = memWrite m a bs := by
  refine Memory.ext_of_wf (Memory.wf_memWrites h _) (Memory.wf_memWrite h _ _) fun b => ?_
  rw [memByte_writePieces h a bs _ b fun p => granPieces_inside, memByte_memWrite h]
  refine if_congr ⟨?_, fun hb => granPieces_cover hb.1 hb.2⟩ rfl rfl
  rintro ⟨p, hp, h1, h2⟩
  have := granPieces_inside hp
  omega

end Sys2Proof.Machine
end

section
/-! PROOFS, family 04_quantisation_and_scaling: outputs written where their addresses say. -/
namespace Sys2Proof.Machine
variable {s : State}

/-! ## Outputs written where their addresses say -/

/-- A write of the range by context `n` stores its bytes at their addresses: it lies above the registers, in mapped memory, and no
checkpoint region redirects it. -/
def State.Direct (s : State) (n a len : Nat) : Prop :=
  0x4000000 ≤ a ∧ ∀ p ∈ granPieces a len, s.regionAt n p.1 = none ∧ s.place p.1 ≠ .none

theorem State.place_ne_reg {a : Nat} (h : 0x4000000 ≤ a) (o : Nat) : s.place a ≠ .reg o := by
  unfold State.place
  rw [if_neg (by omega)]
  split
  · split <;> nofun
  · split
    · nofun
    · split <;> nofun

theorem State.wrPiece_direct {n a : Nat} (bs : List Byte) (ha : 0x4000000 ≤ a) (hr : s.regionAt n a = none) (hp : s.place a ≠ .none) :
    ∃ p w, s.wrPiece (some n) a bs = { s with mem := memWrite s.mem a bs, poison := p, wc := w } := by
  have phys : s.wrPiece (some n) a bs = s.wrPhys a bs := by
    unfold State.wrPiece
    split
    · exact absurd ‹_› (State.place_ne_reg ha _)
    · exact absurd ‹_› hp
    · dsimp only
      rw [hr]
  obtain ⟨p, w, e⟩ := s.wrPhys_eq a bs
  refine ⟨p, w, phys.trans (e.trans ?_)⟩
  cases bs with
  | nil => rw [memWrite_nil]; rfl
  | cons b t => rfl

theorem State.wrPieces_direct {n : Nat} (l : List (Nat × List Byte))
    (h : ∀ p ∈ l, 0x4000000 ≤ p.1 ∧ s.regionAt n p.1 = none ∧ s.place p.1 ≠ .none) :
    ∃ p w, l.foldl (fun s q => s.wrPiece (some n) q.1 q.2) s = { s with mem := memWrites s.mem l, poison := p, wc := w } := by
  induction l generalizing s with
  | nil => exact ⟨s.poison, s.wc, rfl⟩
  | cons q t ih =>
    obtain ⟨ha, hr, hp⟩ := h q List.mem_cons_self
    obtain ⟨p, w, e⟩ := s.wrPiece_direct q.2 ha hr hp
    obtain ⟨p', w', e'⟩ := @ih { s with mem := memWrite s.mem q.1 q.2, poison := p, wc := w } fun r hr => h r (List.mem_cons_of_mem _ hr)
    exact ⟨p', w', by rw [List.foldl_cons, e, e']; rfl⟩

theorem State.wr_direct {n a : Nat} {bs : List Byte} (hm : s.memOk = true) (h : s.Direct n a bs.length) :
    ∃ p w, s.wr (some n) a bs = { s with mem := memWrite s.mem a bs, poison := p, wc := w } := by
  obtain ⟨p, w, e⟩ := s.wrPieces_direct (n := n) ((granPieces a bs.length).map fun p => (p.1, slice bs (p.1 - a) p.2)) fun q hq => by
    obtain ⟨r, hr, rfl⟩ := List.mem_map.1 hq
    exact ⟨h.1.trans (granPieces_inside hr).1, h.2 r hr⟩
  refine ⟨p, w, ?_⟩
  rw [memWrites_granPieces ((State.memOk_iff s).1 hm).1, List.foldl_map] at e
  exact e

/-- Memory after outputs, each at the local address that its address names. -/
def memOuts (m : List Host.Cell) (outs : List Out) : List Host.Cell := outs.foldl (fun m o => memWrite m (locOf o.a) o.bs) m

theorem Memory.wf_memOuts {m : List Host.Cell} (h : Memory.wf m = true) (outs : List Out) : Memory.wf (memOuts m outs) = true := by
  induction outs generalizing m with
  | nil => exact h
  | cons o t ih => exact ih (Memory.wf_memWrite h _ _)

/-- Outputs of this device are written in their order. -/
theorem State.putOuts_direct {x : Inst} (outs : List Out) (hm : s.memOk = true)
    (h : ∀ o ∈ outs, s.isOwn o.a = true ∧ s.Direct x.ctx (locOf o.a) o.bs.length) :
    ∃ p w, outs.foldl (fun s o => s.putOut x o) s = { s with mem := memOuts s.mem outs, poison := p, wc := w } := by
  induction outs generalizing s with
  | nil => exact ⟨s.poison, s.wc, rfl⟩
  | cons o t ih =>
    obtain ⟨own, direct⟩ := h o List.mem_cons_self
    obtain ⟨p, w, e⟩ := s.wr_direct hm direct
    have one : s.putOut x o = { s with mem := memWrite s.mem (locOf o.a) o.bs, poison := p, wc := w } := by
      unfold State.putOut
      rw [own, if_neg (by decide), if_neg (by have := direct.1; omega), e]
    obtain ⟨p', w', e'⟩ := @ih { s with mem := memWrite s.mem (locOf o.a) o.bs, poison := p, wc := w }
      (e ▸ State.memOk_wr hm (some x.ctx) (locOf o.a) o.bs) fun r hr => h r (List.mem_cons_of_mem _ hr)
    exact ⟨p', w', by rw [List.foldl_cons, one, e']; rfl⟩

/-- A Diacritic of a granule that is not host memory is stored with the others. -/
theorem State.setDiac_local {n a : Nat} (h : isHost a = false) (v : Word) : s.setDiac n a v = s.setDiacPhys (s.physRead (some n) a) v := by
  unfold State.setDiac
  rw [if_neg (by simp [h])]

theorem State.renews_local {x : Inst} (ren : List Gran) (h : ∀ g ∈ ren, isHost (locOf g.a) = false) :
    ∃ d, ren.foldl (fun s g => s.renew x g) s = { s with diacs := d } := by
  induction ren generalizing s with
  | nil => exact ⟨s.diacs, rfl⟩
  | cons g t ih =>
    have one : ∃ d, s.renew x g = { s with diacs := d } := by
      unfold State.renew
      split
      · exact ⟨s.diacs, rfl⟩
      · rw [State.setDiac_local (h g List.mem_cons_self)]; exact ⟨_, rfl⟩
    obtain ⟨d, e⟩ := one
    obtain ⟨d', e'⟩ := @ih { s with diacs := d } fun r hr => h r (List.mem_cons_of_mem _ hr)
    exact ⟨d', by rw [List.foldl_cons, e, e']⟩

theorem State.putCars_local {x : Inst} (cars : List (Nat × Nat × Nat × Word)) (h : ∀ c ∈ cars, isHost (locOf c.1) = false) :
    ∃ d, s.putCars x cars = { s with diacs := d } := by
  unfold State.putCars
  induction cars generalizing s with
  | nil => exact ⟨s.diacs, rfl⟩
  | cons c t ih =>
    have one : ∃ d, (if s.isOwn c.1 then s.setDiac x.ctx (locOf c.1) c.2.2.2 else s) = { s with diacs := d } := by
      split
      · rw [State.setDiac_local (h c List.mem_cons_self)]; exact ⟨_, rfl⟩
      · exact ⟨s.diacs, rfl⟩
    obtain ⟨d, e⟩ := one
    obtain ⟨d', e'⟩ := @ih { s with diacs := d } fun r hr => h r (List.mem_cons_of_mem _ hr)
    exact ⟨d', by rw [List.foldl_cons, e, e']⟩

end Sys2Proof.Machine
end

section
/-! PROOFS, family 04_quantisation_and_scaling: work that meets no failure. -/
namespace Sys2Proof.Machine
variable {s : State} {x : Inst} {w : Work}

/-! ## Work that meets no failure (R35, R229, R230) -/

theorem State.runChunks_of_passes (done cs : List Chunk) (h : (s.runChunks x done cs).2.2 = none) : s.runChunks x done cs = (done ++ cs, [], none) := by
  induction cs generalizing done with
  | nil => simp [State.runChunks]
  | cons c t ih =>
    unfold State.runChunks at h ⊢
    split
    · rename_i e
      rw [e] at h
      cases h
    · rename_i e
      rw [e] at h
      exact (ih _ h).trans (by simp)

theorem State.WorkClear.runPieces (h : s.WorkClear x w) : s.runPieces x w = (w.chunks, [], none) := by
  unfold State.runPieces
  rw [h.granted]
  exact State.runChunks_of_passes [] w.chunks h.passes

/-- Ranges that work reads are granted, where the whole work is. -/
theorem State.mayAcc_of_granted (h : s.workDenied x w = none) {r : Nat × Nat} (hr : r ∈ w.reads) : s.mayAcc x 0 r.1 r.2 = true := by
  unfold State.workDenied at h
  dsimp only at h
  simp only [Option.or_eq_none_iff, Option.map_eq_none_iff, List.find?_eq_none] at h
  simpa using h.1.1 r hr

theorem State.WorkClear.notShut (h : s.WorkClear x w) : s.workShut x w = none := by
  unfold State.workShut
  rw [Option.map_eq_none_iff, List.find?_eq_none]
  intro r hr
  simp [State.mayAcc_of_granted h.granted hr]

theorem keptOuts_all (good fin : List Chunk) : (keptOuts good [] fin false).1 = (good ++ fin).flatMap Chunk.outs := by simp [keptOuts]

theorem mem_keptOuts_ren {good rest fin : List Chunk} {halted : Bool} {g : Gran} (h : g ∈ (keptOuts good rest fin halted).2) :
    ∃ c ∈ good ++ fin, g ∈ c.ren := by
  have := List.mem_eraseDups.1 (List.mem_filter.1 h).1
  exact List.mem_flatMap.1 this

theorem mem_keptCars {good rest : List Chunk} {halted : Bool} {k : Nat × Nat × Nat × Word} (h : k ∈ keptCars good rest halted) :
    ∃ c ∈ good, k ∈ c.car :=
  List.mem_flatMap.1 (List.mem_filter.1 h).1

/-- No packet leaves where outputs and Diacritics are all of this device. -/
theorem State.remotePkts_local {tc : Nat} {outs : List Out} {ren : List Gran} {cars : List (Nat × Nat × Nat × Word)}
    (ho : ∀ o ∈ outs, s.isOwn o.a = true) (hr : ∀ g ∈ ren, s.isOwn g.a = true) (hc : ∀ k ∈ cars, s.isOwn k.1 = true) :
    s.remotePkts x tc outs ren cars = [] := by
  have e1 : outs.filter (fun o => !s.isOwn o.a) = [] := List.filter_eq_nil_iff.2 fun o h => by simp [ho o h]
  have e2 : ren.filter (fun g => !s.isOwn g.a && g.sl == 0 && g.pad == 0) = [] := List.filter_eq_nil_iff.2 fun g h => by simp [hr g h]
  have e3 : cars.filter (fun k => !s.isOwn k.1) = [] := List.filter_eq_nil_iff.2 fun k h => by simp [hc k h]
  unfold State.remotePkts
  dsimp only
  rw [e1, e2, e3]
  rfl

/-- The granules whose Diacritics work renews at its end, in order. -/
def Work.rens (w : Work) : List Gran := (keptOuts w.chunks [] [w.fin] false).2

/-- The stores after the outputs of work and their Diacritics. -/
def State.putWork (s : State) (x : Inst) (w : Work) : State := (s.putAll x w.allOuts w.rens).putCars x (keptCars w.chunks [] false)

theorem Work.keptOuts_eq (w : Work) : keptOuts w.chunks [] [w.fin] false = (w.allOuts, w.rens) := Prod.ext (keptOuts_all _ _) rfl

/-- Work that meets no failure runs to its end: its outputs and Diacritics are stored; beside them at most the free values and the stamps of
activity move on. -/
theorem State.WorkClear.partWork (h : s.WorkClear x w) : ∃ r, s.partWork x w = .ok r ∧ r.halt = none ∧
    ∃ c a, r.s = { s.putWork x w with freeCtr := c, pow := a } := by
  have own : w.allOuts.filter (fun o => s.isOwn o.a) = w.allOuts := List.filter_eq_self.2 fun o ho => (h.here o ho).1
  have quiet : s.remotePkts x w.tc w.allOuts w.rens (keptCars w.chunks [] false) = [] :=
    State.remotePkts_local (fun o ho => (h.here o ho).1)
      (fun g hg => by obtain ⟨c, hc, hgc⟩ := mem_keptOuts_ren hg; exact (h.diacsHere c hc).1 g hgc)
      (fun k hk => by obtain ⟨c, hc, hkc⟩ := mem_keptCars hk; exact (h.diacsHere c (List.mem_append_left _ hc)).2 k hkc)
  unfold State.partWork
  rw [h.notShut]
  dsimp only
  rw [h.reachable, h.runPieces]
  simp only [Option.isNone_none, Option.isSome_none, if_true, w.keptOuts_eq, own, h.journal, quiet, Bool.false_eq_true, if_false, Bool.not_true,
    List.drop_nil, State.sendSome, List.length_nil, Nat.lt_irrefl]
  refine ⟨_, rfl, rfl, ?_⟩
  dsimp only
  split
  · exact ⟨_, _, rfl⟩
  · exact ⟨_, _, rfl⟩

/-- What work that meets no failure leaves: its outputs and Diacritics stored, flags and counters noted, its descriptor ended OK. -/
theorem State.WorkClear.runWork (h : s.WorkClear x w) : ∃ c a k, s.runWork x w =
    State.endEngine { s.putWork x w with freeCtr := c, pow := a } x 0 w.detail k w.lg := by
  obtain ⟨r, run, halt, c, a, left⟩ := h.partWork
  refine ⟨c, a, r.cnt, ?_⟩
  unfold State.runWork
  rw [run]
  dsimp only
  unfold State.endWork
  rw [halt, left]

theorem State.WorkPlain.putWork (hm : s.memOk = true) (h : s.WorkPlain x w) :
    ∃ p v d, s.putWork x w = { s with mem := memOuts s.mem w.allOuts, poison := p, wc := v, diacs := d } := by
  obtain ⟨p, v, e⟩ := State.putOuts_direct (x := x) w.allOuts hm fun o ho =>
    ⟨(h.clear.here o ho).1, (h.clear.here o ho).2, h.mapped o ho⟩
  have renHere : ∀ g ∈ w.rens, isHost (locOf g.a) = false := fun g hg => by
    obtain ⟨c, hc, hgc⟩ := mem_keptOuts_ren hg
    exact (h.hbm c hc).1 g hgc
  have carHere : ∀ k ∈ keptCars w.chunks [] false, isHost (locOf k.1) = false := fun k hk => by
    obtain ⟨c, hc, hkc⟩ := mem_keptCars hk
    exact (h.hbm c (List.mem_append_left _ hc)).2 k hkc
  obtain ⟨d, e'⟩ := State.renews_local (s := { s with mem := memOuts s.mem w.allOuts, poison := p, wc := v }) (x := x) w.rens renHere
  obtain ⟨d', e''⟩ := State.putCars_local (s := { s with mem := memOuts s.mem w.allOuts, poison := p, wc := v, diacs := d }) (x := x) _ carHere
  refine ⟨p, v, d', ?_⟩
  unfold State.putWork State.putAll
  rw [e, e', e'']

/-- The end of an engine's descriptor ends it with the given status. -/
theorem State.ended_endEngine {t : State} {y : Inst} (h : t.inst? x.id = some y) (st d : Nat) (k : Counters) (lg : Nat) :
    (t.endEngine x st d k lg).Ended x.id st d := by
  unfold State.endEngine
  obtain ⟨r, c, g, e⟩ := t.noteCounts_eq x.ctx lg k
  rw [e]
  exact State.ended_endInst (s := { t with regs := r, ctxs := c, host := g }) h st d k

/-- Work that meets no failure writes its outputs and ends its descriptor OK; it makes no record. -/
theorem State.WorkPlain.wrote (hm : s.memOk = true) (hx : s.inst? x.id = some x) (h : s.WorkPlain x w) :
    s.Wrote (s.runWork x w) x w ∧ (s.runWork x w).log = s.log := by
  obtain ⟨c, a, k, run⟩ := h.clear.runWork
  obtain ⟨p, v, d, put⟩ := h.putWork hm
  have here : State.inst? { s.putWork x w with freeCtr := c, pow := a } x.id = some x := by rw [put]; exact hx
  obtain ⟨r, cs, g, f, i, ended⟩ := State.endEngine_eq { s.putWork x w with freeCtr := c, pow := a } x 0 w.detail k w.lg
  refine ⟨⟨run ▸ State.ended_endEngine here 0 w.detail k w.lg, ?_⟩, ?_⟩
  · rw [run, ended, put]; rfl
  · rw [run, ended, put]

end Sys2Proof.Machine
end

section
/-! PROOFS, family 04_quantisation_and_scaling: CRC-32C tells apart what differs in one byte (O42). -/
namespace Sys2Proof.Machine

/-! ## CRC-32C tells apart what differs in one byte (R652) -/

theorem crcBit_lt {c : Nat} (h : c < 2 ^ 32) : crcBit c < 2 ^ 32 := by
  unfold crcBit
  split
  · exact Nat.xor_lt_two_pow (by omega) (by norm_num)
  · omega

/-- The polynomial's top bit tells which way a step went. -/
theorem crcBit_testBit {c : Nat} (h : c < 2 ^ 32) : (crcBit c).testBit 31 = decide (c % 2 = 1) := by
  have top : (c / 2).testBit 31 = false := Nat.testBit_lt_two_pow (by omega)
  unfold crcBit
  split
  · rename_i odd
    rw [Nat.testBit_xor, top, odd]
    decide
  · rename_i even
    rw [top]
    simp [even]

theorem crcBit_inj {c d : Nat} (hc : c < 2 ^ 32) (hd : d < 2 ^ 32) (h : crcBit c = crcBit d) : c = d := by
  have parity : decide (c % 2 = 1) = decide (d % 2 = 1) := by rw [← crcBit_testBit hc, ← crcBit_testBit hd, h]
  have same : c % 2 = 1 ↔ d % 2 = 1 := by simpa using parity
  unfold crcBit at h
  by_cases odd : c % 2 = 1
  · rw [if_pos odd, if_pos (same.1 odd)] at h
    have := Nat.xor_left_injective h
    have := same.1 odd
    omega
  · rw [if_neg odd, if_neg (mt same.2 odd)] at h
    have := mt same.2 odd
    omega

/-- Steps over a byte keep states of 32 bits apart. -/
theorem crcBit_iterate_inj {c d : Nat} (n : Nat) (hc : c < 2 ^ 32) (hd : d < 2 ^ 32) (h : crcBit^[n] c = crcBit^[n] d) : c = d := by
  induction n generalizing c d with
  | zero => exact h
  | succ n ih => exact crcBit_inj hc hd (ih (crcBit_lt hc) (crcBit_lt hd) h)

theorem crcBit_iterate_lt {c : Nat} (n : Nat) (h : c < 2 ^ 32) : crcBit^[n] c < 2 ^ 32 := by
  induction n generalizing c with
  | zero => exact h
  | succ n ih => exact ih (crcBit_lt h)

theorem xor_byte_lt {c : Nat} (h : c < 2 ^ 32) (b : Byte) : c ^^^ b.toNat < 2 ^ 32 :=
  Nat.xor_lt_two_pow h (b.isLt.trans (by norm_num))

theorem crcByte_eq (c : Nat) (b : Byte) : crcByte c b = crcBit^[8] (c ^^^ b.toNat) := by
  simp only [crcByte, Function.iterate_succ_apply, Function.iterate_zero, id]

theorem crcByte_lt {c : Nat} (h : c < 2 ^ 32) (b : Byte) : crcByte c b < 2 ^ 32 := crcBit_iterate_lt 8 (xor_byte_lt h b)

theorem crcByte_inj {c d : Nat} {a b : Byte} (hc : c < 2 ^ 32) (hd : d < 2 ^ 32) (h : crcByte c a = crcByte d b) :
    c ^^^ a.toNat = d ^^^ b.toNat := by
  rw [crcByte_eq, crcByte_eq] at h
  exact crcBit_iterate_inj 8 (xor_byte_lt hc a) (xor_byte_lt hd b) h

theorem crcBytes_lt {c : Nat} (h : c < 2 ^ 32) (bs : List Byte) : bs.foldl crcByte c < 2 ^ 32 := by
  induction bs generalizing c with
  | nil => exact h
  | cons b t ih => exact ih (crcByte_lt h b)

theorem crcBytes_inj {c d : Nat} (hc : c < 2 ^ 32) (hd : d < 2 ^ 32) (bs : List Byte) (h : bs.foldl crcByte c = bs.foldl crcByte d) : c = d := by
  induction bs generalizing c d with
  | nil => exact h
  | cons b t ih => exact Nat.xor_left_injective (crcByte_inj hc hd (ih (crcByte_lt hc b) (crcByte_lt hd b) h))

/-- Messages that differ in one byte have different codes. -/
theorem crc32c_byte_inj {p q : List Byte} {a b : Byte} (h : crc32c (p ++ a :: q) = crc32c (p ++ b :: q)) : a = b := by
  have start : (0xFFFFFFFF : Nat) < 2 ^ 32 := by norm_num
  have lt : ∀ bs : List Byte, bs.foldl crcByte 0xFFFFFFFF ^^^ 0xFFFFFFFF < 2 ^ 32 := fun bs => Nat.xor_lt_two_pow (crcBytes_lt start bs) start
  have states := congrArg BitVec.toNat h
  simp only [crc32c, BitVec.toNat_ofNat, Nat.mod_eq_of_lt (lt _)] at states
  have states := Nat.xor_left_injective states
  rw [List.foldl_append, List.foldl_append, List.foldl_cons, List.foldl_cons] at states
  have before := crcBytes_lt start p
  have bytes := crcByte_inj before before (crcBytes_inj (crcByte_lt before a) (crcByte_lt before b) q states)
  exact BitVec.eq_of_toNat_eq (Nat.xor_right_injective bytes)

/-- The Diacritics of one granule for tensors 0 and 1 differ. -/
theorem diacOf_tensor_ne (bs : List Byte) : diacOf bs [] 1 0 ≠ diacOf bs [] 0 0 := by
  have one : leBytes 3 1 = 1#8 :: [0#8, 0#8] := rfl
  have zero : leBytes 3 0 = 0#8 :: [0#8, 0#8] := rfl
  intro h
  simp only [diacOf, List.append_nil, List.append_assoc, one, zero, List.cons_append] at h
  exact absurd (crc32c_byte_inj h) (by decide)

end Sys2Proof.Machine
end

section
/-! PROOFS, family 04_quantisation_and_scaling: Diacritics that work leaves (O42). -/
namespace Sys2Proof.Machine
variable {s : State} {x : Inst} {w : Work}

/-! ## Diacritics that work leaves -/

theorem State.WorkClear.runWork_diacs (h : s.WorkClear x w) : (s.runWork x w).diacs = (s.putWork x w).diacs := by
  obtain ⟨c, a, k, run⟩ := h.runWork
  obtain ⟨r, cs, g, f, i, ended⟩ := State.endEngine_eq { s.putWork x w with freeCtr := c, pow := a } x 0 w.detail k w.lg
  rw [run, ended]

/-- A renewed Diacritic is that of what the context reads, at the granule where it reads it. -/
theorem State.diacPhys_renew {g : Gran} (hm : s.memOk = true) (own : s.isOwn g.a = true) (here : isHost (locOf g.a) = false) (b : Nat) :
    (s.renew x g).diacPhys b = if b / 1024 = s.physRead (some x.ctx) (locOf g.a) / 1024 then
      diacOf (s.rdx x g.a 1024) (s.rdx x g.sa g.sl ++ List.replicate g.pad 0#8) g.tid g.ix else s.diacPhys b := by
  unfold State.renew
  rw [own, if_neg (by decide), State.setDiac_local here, State.diacPhys_setDiacPhys hm]

end Sys2Proof.Machine
end

section
/-! PROOFS, family 04_quantisation_and_scaling: a Diacritic stored through a checkpoint region (O42). -/
namespace Sys2Proof.Machine

/-! ## A Diacritic stored through a checkpoint region (R652, R686)

CK_BASE holds whole MiB (R683), but the statement asks nothing of the register. Where a region begins inside a granule, an output that begins
in front of it goes where its address says, while the Diacritic of a granule that begins inside it goes to the bank that the context sees: here
to the granule of another output, which lies in front of that bank. -/

/-- A started descriptor of a ring of function 0. -/
def skewInst : Inst := { Inst.fresh 0 0 0 0 true [] with phase := .started }

/-- A device with 4 MiB of HBM and one region of 1 MiB with two banks 2 MiB apart, from the second byte of HBM on; context 0 is not
running and its step 1 has passed, so that it sees bank 1. -/
def skewState : State :=
  { State.reset with
    regs := [(ctxOff 0 0x804, 1#32), (ctxOff 0 0x900, 1#32), (ctxOff 0 0x904, 0x100#32), (ctxOff 0 0x908, 1#32), (ctxOff 0 0x90C, 2#32),
      (0x2F0000, 4#32)]
    insts := [skewInst]
    nextInst := 1 }

/-- The granule that begins in front of bank 1, of tensor 0. -/
def skewFront : Gran := plainGran (hbmBase + 2 ^ 21) 0 0 0
/-- 1,024 bytes that begin with the region, of tensor 1. -/
def skewInside : Gran := plainGran (hbmBase + 1) 1 0 0

/-- A zero in front of the region and one on its first byte, and a zero in front of bank 1. -/
def skewWork : Work :=
  ⟨[], [{ Chunk.empty with
      outs := [⟨hbmBase, [0#8, 0#8], 2 ^ 30⟩, ⟨hbmBase + 2 ^ 21, [0#8], 2 ^ 30 + 2 ^ 11⟩]
      ren := [skewFront, skewInside] }], Chunk.empty, 0, 0, 0⟩

theorem skewWork_plain : skewState.WorkPlain skewInst skewWork where
  clear :=
    { granted := by decide +kernel
      reachable := by decide +kernel
      passes := by decide +kernel
      journal := by decide +kernel
      here := by decide +kernel
      diacsHere := by decide +kernel }
  mapped := by decide +kernel
  hbm := by decide +kernel

/-- The state between the two Diacritics. -/
def skewMid : State := (skewWork.allOuts.foldl (fun s o => s.putOut skewInst o) skewState).renew skewInst skewFront

theorem skewMid_memOk : skewMid.memOk = true := State.memOk_renew (by decide +kernel) _ _

theorem skewWork_put : skewState.putWork skewInst skewWork = skewMid.renew skewInst skewInside := by
  have rens : skewWork.rens = [skewFront, skewInside] := by decide +kernel
  have cars : keptCars skewWork.chunks [] false = [] := by decide +kernel
  unfold State.putWork State.putAll
  rw [rens, cars]
  rfl

/-- The region sends the second Diacritic to the granule of the first, and reads zeros for it. -/
theorem skewMid_redirected : skewMid.isOwn skewInside.a = true ∧ isHost (locOf skewInside.a) = false ∧
    locOf skewFront.a / 1024 = skewMid.physRead (some skewInst.ctx) (locOf skewInside.a) / 1024 ∧
    skewMid.rdx skewInst skewInside.a 1024 = List.replicate 1024 0#8 ∧ skewMid.rdx skewInst skewInside.sa skewInside.sl = [] := by decide +kernel

/-- The granule in front of bank 1 ends with the Diacritic of zeros of tensor 1. -/
theorem skewWork_diac : (skewState.runWork skewInst skewWork).diacPhys (locOf skewFront.a) = diacOf (List.replicate 1024 0#8) [] 1 0 := by
  obtain ⟨own, local_, redirected, zeros, unscaled⟩ := skewMid_redirected
  rw [State.diacPhys_congr skewWork_plain.clear.runWork_diacs, skewWork_put, State.diacPhys_renew skewMid_memOk own local_, if_pos redirected, zeros, unscaled]
  rfl

/-- Refutes O42: its Diacritic clause does not ask that another renewed granule, at an address of its own, keeps out of the context's checkpoint
regions. With a region that begins inside a granule, the Diacritic of one output is stored behind another, whose memory it does not match. -/
theorem not_workRunsToItsEnd : ¬ Obligations.WorkRunsToItsEnd := by
  unfold Obligations.WorkRunsToItsEnd
  intro h
  obtain ⟨wrote, -, -, -, diacs⟩ := h skewState skewInst skewWork (by decide) (by decide) skewWork_plain
  have zeros : memRead (skewState.runWork skewInst skewWork).mem (locOf skewFront.a) 1024 = List.replicate 1024 0#8 := by
    rw [wrote.mem]
    decide +kernel
  have claimed := diacs (by decide +kernel) skewFront (by decide +kernel) rfl rfl (by decide +kernel) (by decide +kernel) (by decide +kernel)
    (by decide +kernel) (by decide +kernel) (by decide +kernel)
  rw [skewWork_diac, zeros] at claimed
  exact diacOf_tensor_ne _ claimed

end Sys2Proof.Machine
end

section
/-! PROOFS, family 04_quantisation_and_scaling: what stays true of written work (O47). -/
namespace Sys2Proof.Machine
variable {s t u : State} {x : Inst} {w : Work}

/-! ## What stays true of work that has been written -/

/-- A later step that keeps memory and the descriptor leaves the work written. -/
theorem State.Wrote.of_kept (h : s.Wrote t x w) (hm : u.mem = t.mem) (hi : u.inst? x.id = t.inst? x.id) : s.Wrote u x w where
  ended := by
    obtain ⟨y, hy, rest⟩ := h.ended
    exact ⟨y, hi.trans hy, rest⟩
  mem := hm.trans h.mem

theorem State.inst?_addInst {i : Nat} {y : Inst} (h : s.inst? i = some y) (z : Inst) : (s.addInst z).inst? i = some y := by
  unfold State.inst? State.addInst at *
  rw [List.find?_append, h]
  rfl

theorem State.Wrote.addInst (h : s.Wrote t x w) (z : Inst) : s.Wrote (t.addInst z) x w := by
  obtain ⟨y, hy, -⟩ := h.ended
  exact h.of_kept rfl ((State.inst?_addInst hy z).trans hy.symm)

theorem State.Wrote.modCtx (h : s.Wrote t x w) (n : Nat) (f : Ctx → Ctx) : s.Wrote (t.modCtx n f) x w := h.of_kept rfl rfl

theorem State.Wrote.logEv (h : s.Wrote t x w) (type job : Nat) (ws : List Nat) : s.Wrote (t.logEv type job ws) x w := by
  obtain ⟨l, r, g, e⟩ := t.logEv_eq type job ws
  exact h.of_kept (by rw [e]) (by rw [e]; rfl)

theorem State.Wrote.noteHist (h : s.Wrote t x w) (lg : Nat) (fin : Chunk) (o : OSet) : s.Wrote (t.noteHist x lg fin o) x w := by
  unfold State.noteHist
  split
  · exact h
  · exact h.modCtx _ _

theorem State.Wrote.noteLayer (h : s.Wrote t x w) : s.Wrote (t.noteLayer x) x w := by
  unfold State.noteLayer
  exact ite_keeps (P := fun u => s.Wrote u x w) h (h.modCtx _ _)

/-- The off-load of a set adds a MOVE, or a record that it does not fit (R449, R450). -/
theorem State.Wrote.offload (h : s.Wrote t x w) (e : Entry) (o : OSet) : s.Wrote (t.offload x e o) x w := by
  unfold State.offload
  exact ite_keeps (P := fun u => s.Wrote u x w) h (ite_keeps (P := fun u => s.Wrote u x w) (h.logEv _ _ _) ((h.modCtx _ _).addInst _))

theorem State.Wrote.addRatio (h : s.Wrote t x w) (sd sw : List Val) : s.Wrote (t.addRatio x sd sw) x w := by
  unfold State.addRatio
  exact ite_keeps (P := fun u => s.Wrote u x w) (h.modCtx _ _) h

/-! ## A descriptor that an engine takes up -/

theorem State.started_eq {op : Nat} (h : s.inst? x.id = some x) (hp : x.phase = .started) (ho : x.opcode = op) (ht : s.inTurn x = true) :
    s.started x.id op = some x := by
  unfold State.started
  rw [h]
  exact if_pos ⟨hp, ho, ht⟩

/-- Engines other than those of R334 execute whatever has started. -/
theorem State.inTurn_of_opcode_lt (h : x.opcode < 5) : s.inTurn x = true := by simp [State.inTurn, h]

theorem State.Begun.started_eq {n op : Nat} (h : s.Begun x n) (ho : x.opcode = op) : s.started x.id op = some x :=
  State.started_eq h.here h.started ho h.turn

theorem State.withBlock_ready {n : Nat} (a : Nat) (h : x.block.length = n) : s.withBlock x a n = .ok (s, x) := if_pos h

end Sys2Proof.Machine
end

section
/-! PROOFS, family 04_quantisation_and_scaling: QUANT (O47). -/
namespace Sys2Proof.Machine
variable {s : State} {x : Inst}

/-! ## QUANT (R187 to R224, R451, R452) -/

theorem State.quant_eq (h : s.inst? x.id = some x) (hp : x.phase = .started) (ho : x.opcode = 4) : s.quant x.id = s.quantRun x := by
  unfold State.quant
  rw [State.started_eq h hp ho (State.inTurn_of_opcode_lt (by omega))]

/-- What follows the work of a QUANT in the context leaves the work written. -/
theorem State.quantRun_wrote {j : QJob} (hm : s.memOk = true) (h : s.inst? x.id = some x) (hj : s.quantJob x = .ok j)
    (hf : s.prefetchHolds x [j.src.base] = none) (hw : s.want x j.ranges = none) (plain : s.WorkPlain x (s.quantWork x j)) :
    s.Wrote (s.quantRun x) x (s.quantWork x j) := by
  have wrote := (plain.wrote hm h).1
  obtain ⟨y, hy, -⟩ := wrote.ended
  unfold State.quantRun
  rw [hj]
  dsimp only
  rw [hf, hw]
  dsimp only [Option.or]
  rw [hy]
  dsimp only
  exact ite_keeps (P := fun u => s.Wrote u x _)
    (ite_keeps (P := fun u => s.Wrote u x _) ((wrote.noteHist _ _ _).noteLayer.offload _ _) (wrote.noteHist _ _ _)) wrote

/-- A QUANT of a set that a prefetch brings waits for it, or ends as it failed. -/
theorem State.quantRun_of_held {j : QJob} {t : State} (hj : s.quantJob x = .ok j) (hf : s.prefetchHolds x [j.src.base] = some t) :
    s.quantRun x = t := by
  unfold State.quantRun
  rw [hj]
  dsimp only
  rw [hf]
  rfl

/-- A prefetch brings the set to one of the bases, or has failed to. -/
def Ofl.fetchedTo (bases : List Nat) (o : Ofl) : Bool := match o.fetch with | some p => bases.contains p.2 | none => false

/-- A basic descriptor that names a set whose prefetch has failed ends as that did; one whose prefetch is in flight waits. -/
theorem State.prefetchHolds_of_found {bases : List Nat} {o : Ofl} (hx : x.expert = false)
    (ho : (s.ctx x.ctx).ofl.find? (Ofl.fetchedTo bases) = some o) :
    (∀ st d, o.fail = some (st, d) → s.prefetchHolds x bases = some (s.endInst x st d {})) ∧
    ∀ p, o.fail = none → o.fetch = some p → (s.inst? p.1).isSome = true → s.prefetchHolds x bases = some s := by
  unfold State.prefetchHolds
  rw [hx, if_neg (by decide)]
  split
  · rename_i missing
    exact absurd (missing.symm.trans ho) nofun
  · rename_i o' found
    obtain rfl := Option.some.inj (found.symm.trans ho)
    refine ⟨fun st d hf => by rw [hf], fun p hf hp hi => ?_⟩
    rw [hf, hp]
    exact if_pos hi

end Sys2Proof.Machine
end

section
/-! PROOFS, family 04_quantisation_and_scaling: UPDATE and VSTREAM (O47). -/
namespace Sys2Proof.Machine
variable {s : State} {x : Inst}

/-! ## UPDATE (R420 to R437) -/

/-- An UPDATE of finite gradients writes its whole work; its ratio sums and weights go to the context. -/
theorem State.updRun_wrote {e : Entry} (hm : s.memOk = true) (h : s.inst? x.id = some x) (hw : s.want x (s.updReads x) = none)
    (hg : s.updBad x = 0) (plain : s.WorkPlain x (s.updWhole x e)) : s.Wrote (s.updRun x e) x (s.updWhole x e) := by
  have wrote := (plain.wrote hm h).1
  obtain ⟨y, hy, -⟩ := wrote.ended
  unfold State.updRun
  rw [hw]
  dsimp only
  rw [if_neg (not_not.2 hg), hy]
  dsimp only
  exact ite_keeps (P := fun u => s.Wrote u x _)
    (ite_keeps (P := fun u => s.Wrote u x _) (((wrote.addRatio _ _).noteHist _ _ _).modCtx _ _) (wrote.addRatio _ _)) wrote

theorem State.update_eq {e : Entry} (h : s.Begun x 64) (ho : x.opcode = 8) (he : s.updEntry x = .ok e) (hb : s.updBlockBad x e = none) :
    s.update x.id = s.updRun x e := by
  unfold State.update
  rw [h.started_eq ho]
  dsimp only
  rw [State.withBlock_ready _ h.block]
  dsimp only
  rw [he]
  dsimp only
  rw [hb]

/-! ## VSTREAM (R302 to R306) -/

/-- A VSTREAM whose program has run ends with what it has counted. -/
theorem State.endVstream_ok {i : Nat} {y : Inst} (h : s.inst? i = some y) : (s.endVstream i 0 0).Ended i 0 0 ∧
    (s.endVstream i 0 0).mem = s.mem ∧ (s.endVstream i 0 0).diacs = s.diacs := by
  obtain rfl : y.id = i := by simpa using List.find?_some h
  have ends : s.endVstream y.id 0 0 = (s.touch (queueUnit y.queue)).endInst y 0 0 y.cnt := by
    unfold State.endVstream
    rw [h]
    exact if_neg (by simp)
  obtain ⟨f, i, e⟩ := (s.touch (queueUnit y.queue)).endInst_eq y 0 0 y.cnt
  refine ⟨ends ▸ State.ended_endInst (s := s.touch (queueUnit y.queue)) h 0 0 y.cnt, ?_, ?_⟩
  · rw [ends, e]; rfl
  · rw [ends, e]; rfl

theorem State.vstream_eq (h : s.inst? x.id = some x) (hp : x.phase = .started) (ho : x.opcode = 3) (hs : x.stage = 0)
    (hl : x.block.length = x.progLen) (he : x.epilogue = false) (hb : s.progBad x x.prog false (!x.expert) false = none)
    (hq : s.progEntry x x.prog = none) (hr : (s.runChains (s.vEnv x) x.prog false x.prog.chains []).halt = none) :
    s.vstream x.id = ((s.runChains (s.vEnv x) x.prog false x.prog.chains []).s.addCnt x.id
      (s.runChains (s.vEnv x) x.prog false x.prog.chains []).cnt).endVstream x.id 0 0 := by
  unfold State.vstream
  rw [State.started_eq h hp ho (State.inTurn_of_opcode_lt (by omega))]
  dsimp only
  rw [if_neg (not_not.2 hs), State.withBlock_ready _ hl]
  dsimp only
  simp only [he, hb, hq, hr, Bool.false_eq_true, if_false]

end Sys2Proof.Machine
end

section
/-! PROOFS, family 04_quantisation_and_scaling: a GEMM beside its tiles (O47). -/
namespace Sys2Proof.Machine
variable {s : State} {x : Inst} {w : Work}

/-! ## Finished-tile queues and LAST_PASS stand beside the data (R275, R323) -/

/-- The state with other finished-tile queues, LAST_PASS values and record of them. -/
def State.onTiles (s : State) (q : List (Nat × TileEntry)) (l : List ((Nat × Nat) × Nat)) (b : List (Nat × Nat × Nat)) : State :=
  { s with tileq := q, stores := { s.stores with lastPass := l }, passBase := b }

/-- Two states differ in finished-tile queues and LAST_PASS at most. -/
def State.SameData (s t : State) : Prop := ∃ q l b, t = s.onTiles q l b

theorem State.SameData.refl (s : State) : s.SameData s := ⟨_, _, _, rfl⟩

section
variable (s : State) (q : List (Nat × TileEntry)) (l : List ((Nat × Nat) × Nat)) (b : List (Nat × Nat × Nat))

theorem State.onTiles_rdx : (s.onTiles q l b).rdx = s.rdx := by rfl
theorem State.onTiles_mayAcc : (s.onTiles q l b).mayAcc = s.mayAcc := by rfl
theorem State.onTiles_readSide : (s.onTiles q l b).readSide = s.readSide := by rfl
theorem State.onTiles_sidesOf : (s.onTiles q l b).sidesOf = s.sidesOf := by unfold State.sidesOf; rw [s.onTiles_readSide]
theorem State.onTiles_rowOps : (s.onTiles q l b).rowOps = s.rowOps := by rfl
theorem State.onTiles_ptRow : (s.onTiles q l b).ptRow = s.ptRow := by unfold State.ptRow; rw [s.onTiles_rdx]
theorem State.onTiles_accIn : (s.onTiles q l b).accIn = s.accIn := by unfold State.accIn; rw [s.onTiles_rdx]
theorem State.onTiles_seed : (s.onTiles q l b).seed = s.seed := by rfl
theorem State.onTiles_opParts : (s.onTiles q l b).opParts = s.opParts := by
  unfold State.opParts; rw [s.onTiles_rowOps, s.onTiles_ptRow]
theorem State.onTiles_blockVals : (s.onTiles q l b).blockVals = s.blockVals := by
  unfold State.blockVals; rw [s.onTiles_rowOps, s.onTiles_ptRow, s.onTiles_accIn]
theorem State.onTiles_blockChunk : (s.onTiles q l b).blockChunk = s.blockChunk := by
  unfold State.blockChunk; rw [s.onTiles_seed, s.onTiles_accIn, s.onTiles_opParts]

theorem State.onTiles_chunkBad : (s.onTiles q l b).chunkBad = s.chunkBad := by rfl
theorem State.onTiles_workDenied : (s.onTiles q l b).workDenied = s.workDenied := by unfold State.workDenied; rw [s.onTiles_mayAcc]; rfl
theorem State.onTiles_runChunks (x : Inst) (done cs : List Chunk) : (s.onTiles q l b).runChunks x done cs = s.runChunks x done cs := by
  induction cs generalizing done with
  | nil => rfl
  | cons c t ih =>
    unfold State.runChunks
    rw [s.onTiles_chunkBad]
    split
    · rfl
    · exact ih _
end

/-- Work is as plain beside other tiles. -/
theorem State.WorkPlain.of_sameData {t : State} (st : s.SameData t) (h : s.WorkPlain x w) : t.WorkPlain x w := by
  obtain ⟨q, l, b, rfl⟩ := st
  exact ⟨⟨(s.onTiles_workDenied q l b ▸ h.clear.granted), h.clear.reachable, (s.onTiles_runChunks q l b x [] w.chunks ▸ h.clear.passes),
    h.clear.journal, h.clear.here, h.clear.diacsHere⟩, h.mapped, h.hbm⟩

/-- Work written beside other tiles is written. -/
theorem State.Wrote.of_sameData {t u : State} (st : s.SameData t) (h : t.Wrote u x w) : s.Wrote u x w := by
  obtain ⟨q, l, b, rfl⟩ := st
  exact ⟨h.ended, h.mem⟩

theorem State.SameData.trans {t u : State} (st : s.SameData t) (tu : t.SameData u) : s.SameData u := by
  obtain ⟨q, l, b, rfl⟩ := st
  obtain ⟨q', l', b', rfl⟩ := tu
  exact ⟨q', l', b', rfl⟩

theorem State.SameData.log {t : State} (st : s.SameData t) : t.log = s.log := by
  obtain ⟨q, l, b, rfl⟩ := st; rfl

theorem State.SameData.memOk {t : State} (st : s.SameData t) : t.memOk = s.memOk := by
  obtain ⟨q, l, b, rfl⟩ := st; rfl

theorem State.SameData.insts {t : State} (st : s.SameData t) : t.insts = s.insts := by
  obtain ⟨q, l, b, rfl⟩ := st; rfl

theorem State.SameData.tilesOf {t : State} (st : s.SameData t) (c : Nat) : t.tilesOf c = s.tilesOf c := by
  obtain ⟨q, l, b, rfl⟩ := st; rfl

theorem State.SameData.leaveTiles {t : State} (st : s.SameData t) (p : TileEntry → Bool) : s.SameData (t.leaveTiles x p) := by
  obtain ⟨q, l, b, rfl⟩ := st; exact ⟨_, _, _, rfl⟩

theorem State.SameData.setLastPass {t : State} (st : s.SameData t) (c k v : Nat) : s.SameData (t.setLastPass c k v) := by
  obtain ⟨q, l, b, rfl⟩ := st
  unfold State.setLastPass
  exact ite_keeps (P := fun u => s.SameData u) ⟨q, l, b, rfl⟩ ⟨_, _, _, rfl⟩

/-! ## Blocks on tiles that no fault strikes (R274, R278) -/

theorem State.blockVals_ds (g : Gemm) (sa sw : List (Nat × Side)) (i0 nr j0 nc : Nat) : (s.blockVals x g sa sw i0 nr j0 nc []).ds = [] := by
  unfold State.blockVals
  dsimp only
  split <;> rfl

/-- The piece of work that block `b` is where no fault strikes it. -/
def State.cleanChunk (s : State) (x : Inst) (g : Gemm) (b : Nat) : Chunk :=
  let sa := s.sidesOf x g.a g.row0 g.m
  let sw := s.sidesOf x g.w 0 g.n
  s.blockChunk x g sa sw b (s.blockVals x g sa sw (g.span b).1 (g.span b).2.1 (g.span b).2.2.1 (g.span b).2.2.2 []).vals

theorem State.SameData.cleanChunk {t : State} (st : s.SameData t) (g : Gemm) (b : Nat) : t.cleanChunk x g b = s.cleanChunk x g b := by
  obtain ⟨q, l, b, rfl⟩ := st
  unfold State.cleanChunk
  rw [s.onTiles_sidesOf, s.onTiles_blockChunk, s.onTiles_blockVals]

/-- A block without faults adds its piece, and its tile has at most passed its check. -/
theorem State.runBlock_clean {g : Gemm} {r : GRun} (k : Nat) (epi : g.epi = false) (tiles : s.tilesOf g.cl ≠ []) (st : s.SameData r.s) :
    (s.runBlock x g [] (s.sidesOf x g.a g.row0 g.m) (s.sidesOf x g.w 0 g.n) r k).chunks = r.chunks ++ [s.cleanChunk x g k] ∧
    s.SameData (s.runBlock x g [] (s.sidesOf x g.a g.row0 g.m) (s.sidesOf x g.w 0 g.n) r k).s := by
  have busy : (r.s.tilesOf g.cl).isEmpty = false := by rw [st.tilesOf]; simpa using tiles
  have unseen : ∀ cols, mismatchAt cols [] = none := fun _ => rfl
  unfold State.runBlock
  dsimp only
  simp only [epi, busy, List.filter_nil, s.blockVals_ds, unseen, Bool.false_eq_true, if_false]
  split
  · exact ⟨rfl, st⟩
  · exact ⟨rfl, st.setLastPass _ _ _⟩

/-- The pieces of a run of blocks without faults: up to the first that fails by itself. -/
def State.cleanChunks (s : State) (x : Inst) (g : Gemm) (bs : List Nat) (cs : List Chunk) : List Chunk :=
  bs.foldl (fun cs b => if cs.any fun c => c.bad.isSome then cs else cs ++ [s.cleanChunk x g b]) cs

theorem State.gemmBlocks_clean {g : Gemm} (epi : g.epi = false) (tiles : s.tilesOf g.cl ≠ []) :
    (s.gemmBlocks x g []).chunks = s.cleanChunks x g (List.range (cdiv g.m g.bm * cdiv g.n g.bn)) [] ∧ s.SameData (s.gemmBlocks x g []).s := by
  unfold State.gemmBlocks
  dsimp only
  generalize List.range (cdiv g.m g.bm * cdiv g.n g.bn) = bs
  have run : ∀ r : GRun, s.SameData r.s → (bs.foldl (fun r b => if r.chunks.any fun c => c.bad.isSome then r else
      s.runBlock x g [] (s.sidesOf x g.a g.row0 g.m) (s.sidesOf x g.w 0 g.n) r b) r).chunks = s.cleanChunks x g bs r.chunks ∧
      s.SameData (bs.foldl (fun r b => if r.chunks.any fun c => c.bad.isSome then r else
        s.runBlock x g [] (s.sidesOf x g.a g.row0 g.m) (s.sidesOf x g.w 0 g.n) r b) r).s := by
    unfold State.cleanChunks
    induction bs with
    | nil => exact fun r st => ⟨rfl, st⟩
    | cons b t ih =>
      intro r st
      rw [List.foldl_cons, List.foldl_cons]
      split
      · exact ih r st
      · obtain ⟨added, st'⟩ := s.runBlock_clean (x := x) (r := r) b epi tiles st
        rw [← added]
        exact ih _ st'
  exact run _ (State.SameData.refl s)

/-- The blocks of a GEMM without faults are the same beside other tiles. -/
theorem State.SameData.gemmWork {t : State} (st : s.SameData t) {g : Gemm} (epi : g.epi = false) (tiles : s.tilesOf g.cl ≠ []) :
    t.gemmWork x g [] = s.gemmWork x g [] := by
  unfold State.gemmWork
  rw [(State.gemmBlocks_clean epi tiles).1, (State.gemmBlocks_clean epi (st.tilesOf g.cl ▸ tiles)).1]
  unfold State.cleanChunks
  simp only [st.cleanChunk]

/-- A GEMM without faults or epilogue is its work, beside the tiles that it leaves. -/
theorem State.gemmTiles_clean {g : Gemm} (epi : g.epi = false) (tiles : s.tilesOf g.cl ≠ []) (plain : s.WorkPlain x (s.gemmWork x g [])) :
    ∃ t, s.SameData t ∧ s.gemmTiles x g [] = t.runWork x (s.gemmWork x g []) := by
  have left := (State.SameData.refl s).leaveTiles (x := x) fun _ => true
  have blocks := (State.gemmBlocks_clean (s := s.leaveTiles x fun _ => true) (x := x) epi (left.tilesOf g.cl ▸ tiles)).2
  have passes : ((s.leaveTiles x fun _ => true).runChunks x [] ((s.leaveTiles x fun _ => true).gemmBlocks x g []).chunks).2.2 = none := by
    have chunks : ((s.leaveTiles x fun _ => true).gemmBlocks x g []).chunks = (s.gemmWork x g []).chunks :=
      congrArg Work.chunks (left.gemmWork epi tiles)
    rw [chunks]
    exact (plain.of_sameData left).clear.passes
  refine ⟨_, left.trans blocks, ?_⟩
  unfold State.gemmTiles
  dsimp only
  rw [State.runChunks_of_passes _ _ passes, left.gemmWork epi tiles, epi]
  exact if_pos rfl

end Sys2Proof.Machine
end

section
/-! PROOFS, family 04_quantisation_and_scaling: staging rings and GEMM (O47). -/
namespace Sys2Proof.Machine
variable {s t u : State} {x : Inst}

/-! ## Staging rings that a GEMM leaves (R485, R848; log entry 77) -/

theorem State.sealRing_eq (s : State) (c r : Nat) : ∃ g l h, s.sealRing c r = { s with regs := g, log := l, host := h } :=
  (s.setF (ringOff c r 28) 0 1 1).liftSeal_eq _

/-- Staging leaves the ring as it is where it does not serve the context. -/
theorem State.leaveStaging_idle {n c : Nat} (h : (s.ring c (Config.stagingRing n c % 64)).enabled = false ∨
    (s.ring c (Config.stagingRing n c % 64)).ctx ≠ n) : s.leaveStaging n c = s := by
  unfold State.leaveStaging
  exact if_pos (by simpa using h)

/-- Staging writes the ring's slots, no other byte and no descriptor. -/
theorem State.leaveStaging_eq (s : State) (n c : Nat) : (s.leaveStaging n c).insts = s.insts ∧ ((s.leaveStaging n c).mem = s.mem ∨ ∃ bs : List Byte,
    bs.length = (s.ring c (Config.stagingRing n c % 64)).slots * (s.ring c (Config.stagingRing n c % 64)).slotBytes ∧
    (s.leaveStaging n c).mem = memWrite s.mem ((s.ring c (Config.stagingRing n c % 64)).slotAddr 0) bs) := by
  unfold State.leaveStaging
  dsimp only
  generalize s.ring c (Config.stagingRing n c % 64) = g
  generalize hb : (List.range (g.slots * g.slotBytes)).map (Config.slotByte s.freeCtr) = bs
  have len : bs.length = g.slots * g.slotBytes := by simp [← hb]
  split
  · exact ⟨rfl, .inl rfl⟩
  · obtain ⟨p, v, e⟩ := State.wrPhys_eq { s with freeCtr := s.freeCtr + 1 } (g.slotAddr 0) bs
    obtain ⟨r, l, h, e'⟩ := State.sealRing_eq (State.wrPhys { s with freeCtr := s.freeCtr + 1 } (g.slotAddr 0) bs) c g.r
    rw [e', e]
    refine ⟨rfl, .inr ⟨bs, len, ?_⟩⟩
    cases bs with
    | nil => exact (memWrite_nil _ _).symm
    | cons b t => rfl

theorem State.leaveStaging_bytes (hm : Memory.wf s.mem = true) (n c : Nat) : s.BytesKept (s.leaveStaging n c)
    [((s.ring c (Config.stagingRing n c % 64)).slotAddr 0, (s.ring c (Config.stagingRing n c % 64)).slots * (s.ring c (Config.stagingRing n c % 64)).slotBytes)] := by
  intro a outside
  have := outside _ (List.mem_singleton.2 rfl)
  obtain ⟨-, same | ⟨bs, len, e⟩⟩ := s.leaveStaging_eq n c
  · rw [same]
  · rw [e, memByte_memWrite hm, len]
    exact if_neg (by omega)

/-! ## GEMM (R236 to R291) -/

/-- A GEMM whose operands are granted, here and not awaited runs on the tiles. -/
theorem State.gemm_eq {g : Gemm} {flips : List Flip} (h : s.Begun x 64) (ho : x.opcode = 2) (hj : s.gemmJudge x = .ok g) (epi : g.epi = false)
    (hf : s.prefetchHolds x [g.a.base, g.w.base] = none) (hw : s.want x g.ranges = none) (clear : s.WorkClear x (s.gemmWork x g flips)) :
    s.gemm x.id flips = s.gemmRun x g flips := by
  have granted : g.ranges.find? (fun r => !s.mayAcc x 0 r.1 r.2) = none := by
    rw [List.find?_eq_none]
    intro r hr
    simp [State.mayAcc_of_granted clear.granted (show r ∈ (s.gemmWork x g flips).reads from hr)]
  have reachable : s.workHostDown ⟨g.ranges, [], Chunk.empty, 0, 0, 0⟩ = false := by
    have := clear.reachable
    simp only [State.workHostDown, State.gemmWork, Bool.and_eq_false_iff, Bool.or_eq_false_iff] at this
    simp only [State.workHostDown, Bool.and_eq_false_iff, Bool.or_eq_false_iff]
    exact this.imp_right fun h => ⟨h.1, rfl⟩
  unfold State.gemm
  rw [h.started_eq ho]
  dsimp only
  rw [State.withBlock_ready _ h.block]
  dsimp only
  rw [hj]
  dsimp only
  rw [hf, granted]
  dsimp only
  rw [reachable, hw, epi]
  rfl

/-- A GEMM without faults or epilogue writes its outputs; where it was staged, its staging ring is left. -/
theorem State.gemmRun_clean {g : Gemm} (hm : s.memOk = true) (hx : s.inst? x.id = some x) (epi : g.epi = false) (tiles : s.tilesOf g.cl ≠ [])
    (plain : s.WorkPlain x (s.gemmWork x g [])) : ∃ u, s.Wrote u x (s.gemmWork x g []) ∧ u.log = s.log ∧
      s.gemmRun x g [] = if s.isStaged x g then u.leaveStaging x.ctx g.cl else u := by
  obtain ⟨t, st, run⟩ := s.gemmTiles_clean epi tiles plain
  obtain ⟨wrote, log⟩ := (plain.of_sameData st).wrote (st.memOk.trans hm) ((State.inst?_congr st.insts _).trans hx)
  refine ⟨_, wrote.of_sameData st, log.trans st.log, ?_⟩
  have done : ((t.runWork x (s.gemmWork x g [])).inst? x.id).any (fun y => y.phase == .done) = true := by
    obtain ⟨y, hy, hp, -⟩ := wrote.ended
    rw [hy]
    simp [hp]
  unfold State.gemmRun
  dsimp only
  rw [run, done]
  simp

end Sys2Proof.Machine
end

section
/-! PROOFS, family 04_quantisation_and_scaling: the converting engines complete (O47). -/
namespace Sys2Proof.Machine
variable {s : State} {x : Inst}

/-! ## The converting engines complete (O47) -/

/-- Work that is written leaves memory in canonical form. -/
theorem State.Wrote.memWf {t : State} {w : Work} (h : s.Wrote t x w) (hm : s.memOk = true) : Memory.wf t.mem = true := by
  rw [h.mem]
  exact Memory.wf_memOuts ((State.memOk_iff s).1 hm).1 w.allOuts

/-- What the slots of the ring that staged a GEMM hold afterwards is all that staging leaves. -/
theorem State.Wrote.staged {u : State} {w : Work} {n c : Nat} (h : s.Wrote u x w) (hm : s.memOk = true) (hw : w.detail = 0) :
    (u.leaveStaging n c).Ended x.id 0 0 ∧
    u.BytesKept (u.leaveStaging n c) [((u.ring c (Config.stagingRing n c % 64)).slotAddr 0,
      (u.ring c (Config.stagingRing n c % 64)).slots * (u.ring c (Config.stagingRing n c % 64)).slotBytes)] := by
  obtain ⟨y, hy, rest⟩ := h.ended
  exact ⟨⟨y, (State.inst?_congr (u.leaveStaging_eq n c).1 _).trans hy, hw ▸ rest⟩, State.leaveStaging_bytes (h.memWf hm) n c⟩

theorem exec_gemm_clean {g : Gemm} (hm : s.memOk = true) (h : s.Begun x 64) (ho : x.opcode = 2) (hj : s.gemmJudge x = .ok g) (epi : g.epi = false)
    (hf : s.prefetchHolds x [g.a.base, g.w.base] = none) (hw : s.want x g.ranges = none) (tiles : s.tilesOf g.cl ≠ [])
    (plain : s.WorkPlain x (s.gemmWork x g [])) : ∃ u, s.Wrote u x (s.gemmWork x g []) ∧ u.log = s.log ∧
      exec (.gemm x.id []) s = .next (if s.isStaged x g then u.leaveStaging x.ctx g.cl else u) := by
  obtain ⟨u, wrote, log, run⟩ := s.gemmRun_clean hm h.here epi tiles plain
  exact ⟨u, wrote, log, (act_of_wf (c := .gemm x.id []) rfl _).trans (by rw [State.gemm_eq h ho hj epi hf hw plain.clear, run])⟩

theorem exec_vstream_ends (h : s.inst? x.id = some x) (hp : x.phase = .started) (ho : x.opcode = 3) (hs : x.stage = 0)
    (hl : x.block.length = x.progLen) (he : x.epilogue = false) (hb : s.progBad x x.prog false (!x.expert) false = none)
    (hq : s.progEntry x x.prog = none) (hr : (s.runChains (s.vEnv x) x.prog false x.prog.chains []).halt = none)
    (hi : ((s.runChains (s.vEnv x) x.prog false x.prog.chains []).s.inst? x.id).isSome = true) :
    ∃ t, exec (.vstream x.id) s = .next t ∧ t.Ended x.id 0 0 ∧ t.mem = (s.runChains (s.vEnv x) x.prog false x.prog.chains []).s.mem ∧
      t.diacs = (s.runChains (s.vEnv x) x.prog false x.prog.chains []).s.diacs := by
  have run := State.vstream_eq h hp ho hs hl he hb hq hr
  generalize s.runChains (s.vEnv x) x.prog false x.prog.chains [] = r at run hi
  obtain ⟨y, hy⟩ := Option.isSome_iff_exists.1 hi
  have here : (r.s.addCnt x.id r.cnt).inst? x.id = some { y with cnt := y.cnt.add r.cnt } := State.inst?_modInst hy fun _ => rfl
  exact ⟨_, act_of_wf (c := .vstream x.id) rfl _, run ▸ State.endVstream_ok here⟩

theorem exec_quant_writes {j : QJob} (hm : s.memOk = true) (h : s.inst? x.id = some x) (hp : x.phase = .started) (ho : x.opcode = 4)
    (hj : s.quantJob x = .ok j) (hf : s.prefetchHolds x [j.src.base] = none) (hw : s.want x j.ranges = none)
    (plain : s.WorkPlain x (s.quantWork x j)) : ∃ t, exec (.quant x.id) s = .next t ∧ s.Wrote t x (s.quantWork x j) :=
  ⟨_, act_of_wf (c := .quant x.id) rfl _, State.quant_eq h hp ho ▸ State.quantRun_wrote hm h hj hf hw plain⟩

theorem exec_quant_of_held {j : QJob} {t : State} (h : s.inst? x.id = some x) (hp : x.phase = .started) (ho : x.opcode = 4)
    (hj : s.quantJob x = .ok j) (hf : s.prefetchHolds x [j.src.base] = some t) : exec (.quant x.id) s = .next t :=
  (act_of_wf (c := .quant x.id) rfl _).trans (by rw [State.quant_eq h hp ho, State.quantRun_of_held hj hf])

theorem exec_update_writes {e : Entry} (hm : s.memOk = true) (h : s.Begun x 64) (ho : x.opcode = 8) (he : s.updEntry x = .ok e)
    (hb : s.updBlockBad x e = none) (hw : s.want x (s.updReads x) = none) (hg : s.updBad x = 0) (plain : s.WorkPlain x (s.updWhole x e)) :
    ∃ t, exec (.update x.id) s = .next t ∧ s.Wrote t x (s.updWhole x e) :=
  ⟨_, act_of_wf (c := .update x.id) rfl _, State.update_eq h ho he hb ▸ State.updRun_wrote hm h.here hw hg plain⟩

/-- Settles O47: each engine runs its work, which `WorkPlain.wrote` says is written; what an engine notes behind it keeps memory and the
descriptor, and the tiles of a GEMM stand beside the data. -/
theorem convertingEnginesComplete : Obligations.ConvertingEnginesComplete := by
  unfold Obligations.ConvertingEnginesComplete
  intro s x hm
  refine ⟨?gemm, ?vstream, ?quant, ?update⟩
  case gemm =>
    intro g h ho hj epi hf hw tiles plain
    obtain ⟨u, wrote, log, run⟩ := exec_gemm_clean hm h ho hj epi hf hw tiles plain
    refine ⟨fun unstaged => ⟨u, ?_, wrote, log⟩, fun staged => ⟨u.leaveStaging x.ctx g.cl, u, ?_, wrote, ?_⟩⟩
    · rw [run, if_neg (by simp [unstaged])]
    · rw [run, if_pos staged]
    · obtain ⟨ended, kept⟩ := wrote.staged (n := x.ctx) (c := g.cl) hm rfl
      exact ⟨ended, State.leaveStaging_idle, fun _ _ => ⟨rfl, kept⟩⟩
  case vstream =>
    intro hx hp ho hs hl he hb hq r hr hi
    exact exec_vstream_ends hx hp ho hs hl he hb hq hr hi
  case quant =>
    intro j hx hp ho hj
    refine ⟨exec_quant_writes hm hx hp ho hj, fun o basic found => ?_⟩
    obtain ⟨failed, flying⟩ := State.prefetchHolds_of_found (bases := [j.src.base]) basic found
    exact ⟨fun st d hfail => ⟨_, exec_quant_of_held hx hp ho hj (failed st d hfail), s.ended_endInst hx st d {}⟩,
      fun p hfail hfetch here => exec_quant_of_held hx hp ho hj (flying p hfail hfetch here)⟩
  case update =>
    intro e h ho he hb hw hg plain
    exact exec_update_writes hm h ho he hb hw hg plain

end Sys2Proof.Machine
end

section
/-! PROOFS, family 07_specialist_engines: how many bytes a read answers. -/
namespace Sys2Proof.Machine
variable (s : State)

/-! ## Lengths of reads -/

theorem walk_length (m : List Host.Cell) (a n : Nat) : (walk m a n).length = n := by
  induction n generalizing m a with
  | zero => simp [walk]
  | succ n ih =>
    cases m with
    | nil => simp [walk, ih]
    | cons c t =>
      obtain ⟨k, v⟩ := c
      unfold walk
      split <;> simp [ih]

/-- The pieces of a range have its bytes between them. -/
theorem granPieces_total (a n : Nat) : ((granPieces a n).map Prod.snd).sum = n := by
  unfold granPieces
  split
  · simp [*]
  · have first : ∀ j, (((upto (a / 1024) j).map fun g => (max a (1024 * g), min (a + n) (1024 * g + 1024) - max a (1024 * g))).map Prod.snd).sum =
        min (a + n) (1024 * (a / 1024 + j)) - a := fun j => by
      induction j with
      | zero => simp [upto]; omega
      | succ j ih =>
        simp only [upto, List.range_succ, List.map_append, List.sum_append, List.map_cons, List.map_nil, List.sum_cons, List.sum_nil] at ih ⊢
        rw [ih]
        omega
    refine (first _).trans ?_
    omega

theorem State.rdPiece_length (n : Option Nat) (a len : Nat) : (s.rdPiece n a len).length = len := by
  unfold State.rdPiece
  split
  · simp [State.regBytes]
  · simp
  · exact walk_length _ _ _

@[simp] theorem State.rd_length (n : Option Nat) (a len : Nat) : (s.rd n a len).length = len := by
  unfold State.rd
  rw [List.length_flatMap]
  simp only [State.rdPiece_length]
  exact granPieces_total a len

@[simp] theorem State.rdx_length (x : Inst) (a len : Nat) : (s.rdx x a len).length = len := by
  unfold State.rdx
  split
  · split
    · simp [State.regBytesPf]
    · exact s.rd_length _ _ _
  · exact walk_length _ _ _

end Sys2Proof.Machine
end

section
/-! PROOFS, family 07_specialist_engines: registers whose writes act (O26). -/
namespace Sys2Proof.Machine
variable {s : State} {f : Fn} {n : Nat} {v : Word}

/-! ## LEX_HOT_EN (R353) -/

/-- EN going to 1: the register takes its fields, the directory of the engine and its two counts are emptied. -/
theorem State.lexHotCfg_of_enables (hr : s.reaches f = true) (hf : isPf f = true) (off : s.rf (lexOff n 4) 12 1 = 0) (on : fld v 12 1 = 1) :
    s.lexHotCfg f n v = ({ s.setReg (lexOff n 4) (BitVec.ofNat 32 (fld v 0 13)) with
      hot := s.hot.filter fun h => h.1 != n }.setReg (lexOff n 8) 0#32).setReg (lexOff n 0xC) 0#32 := by
  unfold State.lexHotCfg
  rw [hr, hf, if_neg (by decide)]
  dsimp only
  rw [off, if_neg (by decide), if_pos on]
  rfl

/-- A field of the register's 13 bits is the one written. -/
theorem fld_low13 (v : Word) {lo w : Nat} (h : lo + w ≤ 13) : fld (BitVec.ofNat 32 (fld v 0 13)) lo w = fld v lo w := by
  have small : fld v 0 13 % 2 ^ 32 = fld v 0 13 := Nat.mod_eq_of_lt ((fld_lt v 0 13).trans (by decide))
  obtain ⟨d, hd⟩ := Nat.le.dest h
  unfold fld at *
  rw [BitVec.toNat_ofNat, small]
  unfold bits
  rw [Nat.pow_zero, Nat.div_one, ← hd, Nat.add_assoc, Nat.pow_add, Nat.mod_mul_right_div_self, Nat.pow_add, Nat.mod_mul_right_mod]

theorem execLexHotEn_empties (hr : s.reaches f = true) (hw : f.wf = true) (hf : isPf f = true) (hn : n < 8) (off : s.rf (lexOff n 4) 12 1 = 0)
    (on : fld v 12 1 = 1) : ∃ t, exec (.lexHotEn f n v) s = .next t ∧ (∀ h ∈ t.hot, h.1 ≠ n) ∧ t.rf (lexOff n 4) 12 1 = 1 ∧
      t.rf (lexOff n 4) 8 4 = fld v 8 4 ∧ t.rf (lexOff n 8) 0 18 = 0 ∧ s.StoresKept t := by
  have apart : ∀ {i j : Nat}, i ≠ j → lexOff n i ≠ lexOff n j := fun h => by unfold lexOff clusterOff; omega
  refine ⟨_, act_of_wf (c := .lexHotEn f n v) (by simp [Instr.wf, hw, hn]) _, ?_⟩
  rw [State.lexHotCfg_of_enables hr hf off on]
  refine ⟨fun h hh => ?_, ?_, ?_, ?_, State.storesKept_of_eq rfl rfl rfl⟩
  · simpa using (List.mem_filter.1 hh).2
  · rw [State.rf_setReg_of_ne _ (apart (by decide)), State.rf_setReg_of_ne _ (apart (by decide))]
    exact (State.rf_setReg_same s _ _ _ _).trans ((fld_low13 v (by decide)).trans on)
  · rw [State.rf_setReg_of_ne _ (apart (by decide)), State.rf_setReg_of_ne _ (apart (by decide))]
    exact (State.rf_setReg_same s _ _ _ _).trans (fld_low13 v (by decide))
  · rw [State.rf_setReg_of_ne _ (apart (by decide)), State.rf_setReg_same, fld_zero]

/-! ## RCP_CTL (R410, R413) -/

theorem State.rcpPending_iff : s.rcpPending n = true ↔ s.rf (ctxOff n 0x20C) 1 1 = 1 := beq_iff_eq

/-- ARM while PENDING sets ARM_ERR. -/
theorem State.arm_of_pending (hr : s.reaches f = true) (hj : jobFn f n = true) (hp : s.rcpPending n = true) :
    s.arm f n = s.setF (ctxOff n 0x20C) 2 1 1 := by
  unfold State.arm
  rw [hr, hj, if_neg (by decide), if_pos hp]

/-- ARM of a version that can be read captures its tag. -/
theorem State.arm_of_readable {b : Nat} (hr : s.reaches f = true) (hj : jobFn f n = true) (hp : s.rcpPending n = false)
    (hb : s.recipeBase n (1 - s.epoch n) = some b) (hread : s.readable (some n) b 64 = true) :
    s.arm f n = (s.modCtx n fun c => { c with armTag := BitVec.ofNat 32 (leNat (s.rd (some n) (b + 8) 4)) }).setF (ctxOff n 0x20C) 1 1 1 := by
  unfold State.arm
  rw [hr, hj, if_neg (by decide), if_neg (by simp [hp]), hb]
  exact if_pos hread

theorem State.disarm_eq (hr : s.reaches f = true) (hj : jobFn f n = true) : s.disarm f n = s.setF (ctxOff n 0x20C) 1 1 0 := by
  unfold State.disarm
  rw [hr, hj, if_neg (by decide)]

theorem execArm_of_pending (hr : s.reaches f = true) (hw : f.wf = true) (hj : jobFn f n = true) (hn : n < 16) (hc : f.ctxOk n = true)
    (hp : s.rcpPending n = true) : ∃ t, exec (.arm f n) s = .next t ∧ t.rf (ctxOff n 0x20C) 2 1 = 1 ∧ t.rcpPending n = true ∧
      s.RegsKept t [ctxOff n 0x20C] := by
  refine ⟨_, act_of_wf (c := .arm f n) (by simp [Instr.wf, hw, hc, hn]) _, ?_⟩
  rw [State.arm_of_pending hr hj hp]
  refine ⟨s.rf_setF_same (by decide), State.rcpPending_iff.2 ?_, s.regsKept_setF _ _ _ _⟩
  rw [s.rf_setF_of_disjoint (by decide) (by decide)]
  exact State.rcpPending_iff.1 hp

theorem execArm_captures {b : Nat} (hs : s.sized = true) (hr : s.reaches f = true) (hw : f.wf = true) (hj : jobFn f n = true) (hn : n < 16)
    (hc : f.ctxOk n = true) (hp : s.rcpPending n = false) (hb : s.recipeBase n (1 - s.epoch n) = some b)
    (hread : s.readable (some n) b 64 = true) : ∃ t, exec (.arm f n) s = .next t ∧ t.rcpPending n = true ∧
      (t.ctx n).armTag.toNat = leNat (s.rd (some n) (b + 8) 4) ∧ t.epoch n = s.epoch n ∧ s.StoresKept t := by
  refine ⟨_, act_of_wf (c := .arm f n) (by simp [Instr.wf, hw, hc, hn]) _, ?_⟩
  rw [State.arm_of_readable hr hj hp hb hread]
  refine ⟨State.rcpPending_iff.2 (State.rf_setF_same _ (by decide)), ?_, State.rf_setF_of_disjoint _ (by decide) (by decide),
    State.storesKept_of_eq rfl rfl rfl⟩
  have tag : leNat (s.rd (some n) (b + 8) 4) < 2 ^ 32 := by simpa using leNat_lt (s.rd (some n) (b + 8) 4)
  have held := State.ctx_modCtx_same (State.sized_ctxs hs hn) fun c => { c with armTag := BitVec.ofNat 32 (leNat (s.rd (some n) (b + 8) 4)) }
  refine (congrArg (fun c : Ctx => c.armTag.toNat) held).trans ?_
  exact (BitVec.toNat_ofNat _ _).trans (Nat.mod_eq_of_lt tag)

theorem execDisarm_clears (hr : s.reaches f = true) (hw : f.wf = true) (hj : jobFn f n = true) (hn : n < 16) (hc : f.ctxOk n = true) :
    ∃ t, exec (.disarm f n) s = .next t ∧ t.rcpPending n = false ∧ s.RegsKept t [ctxOff n 0x20C] ∧ t = { s with regs := t.regs } := by
  refine ⟨_, act_of_wf (c := .disarm f n) (by simp [Instr.wf, hw, hc, hn]) _, ?_⟩
  rw [State.disarm_eq hr hj]
  refine ⟨?_, s.regsKept_setF _ _ _ _, rfl⟩
  unfold State.rcpPending
  rw [s.rf_setF_same (by decide)]
  rfl

/-! ## STEP0 (R681) -/

/-- Function 0 and the management complex have the blocks of all contexts. -/
theorem Fn.ctxOk_of_isPf (h : isPf f = true) (n : Nat) : f.ctxOk n = true := by
  cases f with
  | pf => rfl
  | mgmt => rfl
  | vf _ => cases h
  | core _ => cases h

theorem exec_step0Write_eq (hw : f.wf = true) (hf : isPf f = true) (hn : n < 16) : exec (.step0Write f n v) s = .next (s.step0 f n v) :=
  act_of_wf (c := .step0Write f n v) (by simp [Instr.wf, hw, Fn.ctxOk_of_isPf hf, hn]) _

theorem execStep0Write_sets (hr : s.reaches f = true) (hw : f.wf = true) (hf : isPf f = true) (hn : n < 16) (idle : s.jobState n < 2) :
    ∃ t, exec (.step0Write f n v) s = .next t ∧ t.fsStep n = v.toNat ∧ t.psStep n = v.toNat ∧ t.reg (ctxOff n 0x80C) = v ∧
      t.reg (ctxOff n 0x810) = v ∧ t = { s with regs := t.regs } := by
  have sets : s.step0 f n v = (((s.setReg (ctxOff n 0x810) v).setReg (ctxOff n 0x804) v).setReg (ctxOff n 0x808) v).setReg (ctxOff n 0x80C) v := by
    unfold State.step0
    rw [hr, hf, if_neg (by simp [idle])]
  refine ⟨_, exec_step0Write_eq hw hf hn, ?_⟩
  rw [sets]
  simp only [State.fsStep, State.psStep, State.jr, State.reg_setReg]
  exact ⟨by simp [ctxOff], by simp [ctxOff], by simp, by simp [ctxOff], rfl⟩

theorem execStep0Write_of_busy (hw : f.wf = true) (hf : isPf f = true) (hn : n < 16) (busy : 2 ≤ s.jobState n) :
    exec (.step0Write f n v) s = .next s := by
  rw [exec_step0Write_eq hw hf hn]
  unfold State.step0
  rw [if_pos (by simp [busy])]

/-- Settles O26: each register's write is a chain of register writes, whose fields are read back one by one. -/
theorem contextRegistersThatAct : Obligations.ContextRegistersThatAct := by
  unfold Obligations.ContextRegistersThatAct
  intro f n v s hr hs hw
  exact ⟨execLexHotEn_empties hr hw, execArm_of_pending hr hw, fun _ hj hn hc => execArm_captures hs hr hw hj hn hc,
    execDisarm_clears hr hw, execStep0Write_sets hr hw, execStep0Write_of_busy hw⟩

end Sys2Proof.Machine
end

section
/-! PROOFS, family 07_specialist_engines: slots that a ROUTE assigns (O46). -/
namespace Sys2Proof.Machine

/-! ## Slots that a ROUTE assigns (R373, R374) -/

/-- The order in which requests are served: (token, choice), by tokens or by choices. -/
def assignSeq (tokens k order : Nat) : List (Nat × Nat) :=
  if order = 0 then (List.range tokens).flatMap fun i => (List.range k).map fun j => (i, j)
  else (List.range k).flatMap fun j => (List.range tokens).map fun i => (i, j)

/-- Choice `p` asks expert `e` for a slot, with gate weight `w`. -/
def Assign.ask (a : Assign) (cap : Nat) (p : Nat × Nat) (e w : Nat) : Assign :=
  if a.count.getD e 0 < cap then
    { demand := modNth (· + 1) e a.demand, comb := a.comb ++ [(p, combEntry w e (a.count.getD e 0) false false)],
      perm := a.perm ++ [((e, a.count.getD e 0), p.1)], count := modNth (· + 1) e a.count }
  else { a with demand := modNth (· + 1) e a.demand, comb := a.comb ++ [(p, combEntry w e 0xFFFFFF false true)] }

/-- One choice of one token: a poisoned token asks nothing, nor does a choice that is not there. -/
def assignStep (sel : List (Option (List Nat × List Nat))) (cap : Nat) (a : Assign) (p : Nat × Nat) : Assign :=
  match sel.getD p.1 none with
  | none => { a with comb := a.comb ++ [(p, combEntry 0x7FC0 0 0xFFFFFF true true)] }
  | some (es, ws) =>
    match es[p.2]? with
    | none => a
    | some e => a.ask cap p e (ws.getD p.2 0)

theorem assignSlots_eq (sel : List (Option (List Nat × List Nat))) (k experts cap order : Nat) :
    assignSlots sel k experts cap order =
      (assignSeq sel.length k order).foldl (assignStep sel cap) ⟨List.replicate experts 0, List.replicate experts 0, [], []⟩ := rfl

theorem mem_assignSeq {tokens k order : Nat} {p : Nat × Nat} (h : p ∈ assignSeq tokens k order) : p.1 < tokens := by
  unfold assignSeq at h
  split at h
  · obtain ⟨i, hi, hp⟩ := List.mem_flatMap.1 h
    obtain ⟨j, -, rfl⟩ := List.mem_map.1 hp
    exact List.mem_range.1 hi
  · obtain ⟨j, -, hp⟩ := List.mem_flatMap.1 h
    obtain ⟨i, hi, rfl⟩ := List.mem_map.1 hp
    exact List.mem_range.1 hi

/-- Slots given are those below each expert's count, once each, and the count is what was asked up to the capacity. -/
structure Assign.Ok (experts cap tokens : Nat) (a : Assign) : Prop where
  counts : a.count.length = experts
  demands : a.demand.length = experts
  full : ∀ e, a.count.getD e 0 = min cap (a.demand.getD e 0)
  taken : ∀ p ∈ a.perm, p.1.1 < experts ∧ p.1.2 < a.count.getD p.1.1 0 ∧ p.2 < tokens
  once : (a.perm.map Prod.fst).Nodup

variable {experts cap tokens : Nat} {a : Assign}

theorem Assign.ok_start (experts cap tokens : Nat) :
    Assign.Ok experts cap tokens ⟨List.replicate experts 0, List.replicate experts 0, [], []⟩ where
  counts := List.length_replicate
  demands := List.length_replicate
  full e := by by_cases h : e < experts <;> simp [List.getD_eq_getElem?_getD, h]
  taken _ h := absurd h List.not_mem_nil
  once := List.nodup_nil

/-- A slot given is a new one: those given before lie below the count. -/
theorem Assign.Ok.ask (h : a.Ok experts cap tokens) {p : Nat × Nat} (hp : p.1 < tokens) {e : Nat} (he : e < experts) (w : Nat) :
    (a.ask cap p e w).Ok experts cap tokens := by
  obtain ⟨counts, demands, full, taken, once⟩ := h
  have fe := full e
  unfold Assign.ask
  split
  · rename_i room
    refine ⟨by simpa, by simpa, fun i => ?_, fun q hq => ?_, ?_⟩
    · have := full i
      simp only [getD_modNth, counts, demands, he, and_true]
      split
      · subst i; omega
      · exact this
    · simp only [getD_modNth, counts, he, and_true]
      rcases List.mem_append.1 hq with hq | hq
      · obtain ⟨h1, h2, h3⟩ := taken q hq
        refine ⟨h1, ?_, h3⟩
        split <;> omega
      · obtain rfl := List.mem_singleton.1 hq
        exact ⟨he, by simp, hp⟩
    · rw [List.map_append, List.nodup_append]
      refine ⟨once, List.nodup_singleton _, fun i hi r hr same => ?_⟩
      obtain ⟨q, hq, rfl⟩ := List.mem_map.1 hi
      have lower := (taken q hq).2.1
      rw [same, List.mem_singleton.1 hr] at lower
      exact Nat.lt_irrefl _ lower
  · refine ⟨counts, by simpa, fun i => ?_, taken, once⟩
    have := full i
    simp only [getD_modNth, demands, he, and_true]
    split
    · subst i; omega
    · exact this

theorem Assign.Ok.step {sel : List (Option (List Nat × List Nat))} (h : a.Ok experts cap sel.length)
    (hs : ∀ p, some p ∈ sel → ∀ i ∈ p.1, i < experts) {p : Nat × Nat} (hp : p.1 < sel.length) :
    (assignStep sel cap a p).Ok experts cap sel.length := by
  unfold assignStep
  split
  · exact ⟨h.counts, h.demands, h.full, h.taken, h.once⟩
  · rename_i es ws chosen
    have listed : some (es, ws) ∈ sel := by
      rw [List.getD_eq_getElem _ _ hp] at chosen
      exact chosen ▸ List.getElem_mem hp
    split
    · exact h
    · rename_i e found
      exact h.ask hp (hs _ listed e (List.mem_of_getElem? found)) _

theorem Assign.Ok.foldl {sel : List (Option (List Nat × List Nat))} (hs : ∀ p, some p ∈ sel → ∀ i ∈ p.1, i < experts)
    (l : List (Nat × Nat)) (hl : ∀ p ∈ l, p.1 < sel.length) (h : a.Ok experts cap sel.length) :
    (l.foldl (assignStep sel cap) a).Ok experts cap sel.length := by
  induction l generalizing a with
  | nil => exact h
  | cons p l ih => exact ih (fun q hq => hl q (List.mem_cons_of_mem _ hq)) (h.step hs (hl p List.mem_cons_self))

theorem assignSlots_ok {sel : List (Option (List Nat × List Nat))} (hs : ∀ p, some p ∈ sel → ∀ i ∈ p.1, i < experts) (k cap order : Nat) :
    (assignSlots sel k experts cap order).Ok experts cap sel.length := by
  rw [assignSlots_eq]
  exact Assign.Ok.foldl hs _ (fun _ => mem_assignSeq) (Assign.ok_start experts cap sel.length)

/-- Settles O46, by an invariant of the assignment: the slots of an expert are given from 0 up, and its count says how many. -/
theorem routeAssignsSlotsUpToCapacity : Obligations.RouteAssignsSlotsUpToCapacity := by
  unfold Obligations.RouteAssignsSlotsUpToCapacity
  intro sel k experts cap order e _ hs
  obtain ⟨-, -, full, taken, once⟩ := assignSlots_ok hs k cap order
  refine ⟨full e, once, fun p hp => ?_⟩
  obtain ⟨expert, slot, token⟩ := taken p hp
  have := full p.1.1
  exact ⟨expert, by omega, token⟩

end Sys2Proof.Machine
end

section
/-! PROOFS, family 07_specialist_engines: the Dispatcher and the Scan Engine (O45). -/
namespace Sys2Proof.Machine
variable {s : State} {x : Inst}

/-! ## A DISPATCH or SCAN that is taken up (R371 to R391) -/

theorem State.dispatched_eq {op : Nat} (h : s.Begun x 64) (ho : x.opcode = 6) (hb : x.dBlockBad = none) (hop : x.dOp = op)
    (go : State → Inst → State) : s.dispatched x.id op go = go s x := by
  unfold State.dispatched
  rw [h.started_eq ho]
  dsimp only
  rw [if_neg (not_not_intro hop), State.withBlock_ready _ h.block]
  dsimp only
  rw [hb]

theorem State.routeRun_eq (h : s.want x x.routeUse.2 = none) : s.routeRun x = s.runWork x (s.routeWork x) := by
  unfold State.routeRun
  rw [h]

theorem State.permuteRun_eq (h : s.want x [s.combineTab x, s.permuteTab x] = none)
    (h' : s.want x (s.combineTab x :: s.permuteTab x :: s.permuteRows x) = none) : s.permuteRun x = s.runWork x (s.permuteWork x) := by
  unfold State.permuteRun
  rw [h]
  dsimp only
  rw [h']

theorem State.combineRun_eq (h : s.want x [s.combineTab x] = none) (h' : s.want x (s.combineTab x :: s.combineRows x) = none) :
    s.combineRun x = s.runWork x (s.combineWork x) := by
  unfold State.combineRun
  rw [h]
  dsimp only
  rw [h']

theorem State.scan_eq (h : s.Begun x 192) (ho : x.opcode = 7) (hb : x.scanBad = none) : s.scan x.id = s.runWork x (s.scanWork x) := by
  unfold State.scan
  rw [h.started_eq ho]
  dsimp only
  rw [State.withBlock_ready _ h.block]
  dsimp only
  rw [hb]

/-- A command that runs a descriptor's work, where that meets no failure. -/
theorem exec_writes {c : Instr} {w : Work} {t : State} (hm : s.memOk = true) (hx : s.inst? x.id = some x) (run : exec c s = .next t)
    (eq : t = s.runWork x w) (plain : s.WorkPlain x w) : ∃ t, exec c s = .next t ∧ s.Wrote t x w :=
  ⟨t, run, eq ▸ (plain.wrote hm hx).1⟩

/-- Settles O45: each operation, its block judged and its inputs at hand, runs its work, which `WorkPlain.wrote` says is written. -/
theorem dispatcherAndScanOperations : Obligations.DispatcherAndScanOperations := by
  unfold Obligations.DispatcherAndScanOperations
  intro s x hm
  refine ⟨fun h ho hb => ⟨?route, ?permute, ?combine⟩, ?scan⟩
  case route =>
    intro hop want plain
    exact exec_writes hm h.here (act_of_wf (c := .route x.id) rfl _) ((State.dispatched_eq h ho hb hop _).trans (State.routeRun_eq want)) plain
  case permute =>
    intro hop tabs rows plain
    exact exec_writes hm h.here (act_of_wf (c := .permute x.id) rfl _)
      ((State.dispatched_eq h ho hb hop _).trans (State.permuteRun_eq tabs rows)) plain
  case combine =>
    intro hop tab rows plain
    exact exec_writes hm h.here (act_of_wf (c := .combine x.id) rfl _)
      ((State.dispatched_eq h ho hb hop _).trans (State.combineRun_eq tab rows)) plain
  case scan =>
    intro h ho hb plain
    exact exec_writes hm h.here (act_of_wf (c := .scan x.id) rfl _) (State.scan_eq h ho hb) plain

end Sys2Proof.Machine
end

section
/-! PROOFS, family 07_specialist_engines: what memory holds after outputs, range by range. -/
namespace Sys2Proof.Machine
variable {m : List Host.Cell}

/-! ## Ranges of written memory -/

/-- A read inside what was just written gives that part of it. -/
theorem memRead_memWrite_inside (h : Memory.wf m = true) {a off n : Nat} {bs : List Byte} (hn : off + n ≤ bs.length) :
    memRead (memWrite m a bs) (a + off) n = (bs.drop off).take n := by
  rw [memRead_eq (Memory.wf_memWrite h a bs)]
  refine List.ext_getElem (by simp; omega) fun i h1 h2 => ?_
  have hi : i < n := by simpa using h1
  simp only [List.getElem_map, List.getElem_range, memByte_memWrite h, List.getElem_take, List.getElem_drop]
  rw [if_pos (by omega), show a + off + i - a = off + i by omega]
  exact List.getD_eq_getElem _ _ (by omega)

theorem memOuts_append (m : List Host.Cell) (l r : List Out) : memOuts m (l ++ r) = memOuts (memOuts m l) r := List.foldl_append ..

/-- A read of a range that no output meets is as before. -/
theorem memRead_memOuts_of_apart (h : Memory.wf m = true) {a n : Nat} (outs : List Out)
    (apart : ∀ o ∈ outs, a + n ≤ locOf o.a ∨ locOf o.a + o.bs.length ≤ a) : memRead (memOuts m outs) a n = memRead m a n := by
  induction outs generalizing m with
  | nil => rfl
  | cons o t ih =>
    refine (ih (Memory.wf_memWrite h _ _) fun p hp => apart p (List.mem_cons_of_mem _ hp)).trans ?_
    exact memRead_memWrite_of_disjoint h (apart o List.mem_cons_self)

/-- An output that no later one meets stands in memory. -/
theorem memRead_memOuts_last (h : Memory.wf m = true) (pre : List Out) (o : Out) (post : List Out)
    (apart : ∀ p ∈ post, locOf o.a + o.bs.length ≤ locOf p.a ∨ locOf p.a + p.bs.length ≤ locOf o.a) :
    memRead (memOuts m (pre ++ o :: post)) (locOf o.a) o.bs.length = o.bs := by
  rw [memOuts_append]
  refine (memRead_memOuts_of_apart (Memory.wf_memOuts (Memory.wf_memOuts h pre) [o]) post apart).trans ?_
  exact memRead_memWrite_same (Memory.wf_memOuts h pre) _ _

/-! ## Plain output, cut at granule boundaries -/

theorem granPieces_add (c a n : Nat) : granPieces (1024 * c + a) n = (granPieces a n).map fun p => (1024 * c + p.1, p.2) := by
  unfold granPieces
  split
  · rfl
  · have first : (1024 * c + a) / 1024 = c + a / 1024 := by omega
    have count : (1024 * c + a + n - 1) / 1024 + 1 - (c + a / 1024) = (a + n - 1) / 1024 + 1 - a / 1024 := by omega
    rw [first, count]
    simp only [upto, List.map_map]
    refine List.map_congr_left fun i _ => ?_
    simp only [Function.comp, Prod.mk.injEq]
    omega

theorem memOuts_eq_memWrites (m : List Host.Cell) (outs : List Out) : memOuts m outs = memWrites m (outs.map fun o => (locOf o.a, o.bs)) := by
  unfold memOuts memWrites
  rw [List.foldl_map]

/-- Plain output of one device is its byte string written at once. -/
theorem memOuts_outAt (h : Memory.wf m = true) {a : Nat} {bs : List Byte} (own : ∀ o ∈ outAt a bs, devOf o.a = devOf a) :
    memOuts m (outAt a bs) = memWrite m (locOf a) bs := by
  have at_ : a = 1024 * (2 ^ 38 * devOf a) + locOf a := by unfold devOf locOf; omega
  have pieces : granPieces a bs.length = (granPieces (locOf a) bs.length).map fun p => (1024 * (2 ^ 38 * devOf a) + p.1, p.2) := by
    conv_lhs => rw [at_]
    exact granPieces_add _ _ _
  rw [← memWrites_granPieces h, memOuts_eq_memWrites]
  unfold outAt at own ⊢
  rw [pieces] at own ⊢
  simp only [List.map_map] at own ⊢
  refine congrArg (memWrites m) (List.map_congr_left fun p hp => ?_)
  have inside := granPieces_inside hp
  have same := own _ (List.mem_map_of_mem hp)
  simp only [Function.comp, Prod.mk.injEq] at same ⊢
  unfold devOf locOf at *
  exact ⟨by omega, congrArg (slice bs · p.2) (by omega)⟩

/-- Plain output begins at its address, and reaches no byte below it. -/
theorem outAt_head {a : Nat} {bs : List Byte} (h : bs ≠ []) : ∃ o ∈ outAt a bs, o.a = a := by
  have pos : 0 < bs.length := List.length_pos_iff.2 h
  obtain ⟨p, hp, h1, -⟩ := granPieces_cover (a := a) (n := bs.length) (b := a) (Nat.le_refl _) (by omega)
  exact ⟨_, List.mem_map_of_mem hp, Nat.le_antisymm h1 (granPieces_inside hp).1⟩

theorem le_of_mem_outAt {a : Nat} {bs : List Byte} {o : Out} (h : o ∈ outAt a bs) : a ≤ o.a := by
  obtain ⟨p, hp, rfl⟩ := List.mem_map.1 h
  exact (granPieces_inside hp).1

/-- Local addresses on one device keep their distance. -/
theorem locOf_add {a d : Nat} (h : devOf (a + d) = devOf a) : locOf (a + d) = locOf a + d := by unfold devOf locOf at *; omega

theorem devOf_eq_of_isOwn {s : State} {a b : Nat} (ha : s.isOwn a = true) (hb : s.isOwn b = true) : devOf a = devOf b :=
  (beq_iff_eq.1 ha).trans (beq_iff_eq.1 hb).symm

end Sys2Proof.Machine
end

section
/-! PROOFS, family 07_specialist_engines: lists cut into pieces, and the request list of a LEXICON (O44). -/
namespace Sys2Proof.Machine
variable {s : State} {x : Inst} {α β : Type}

/-! ## Lists cut into pieces -/

theorem piecesF_getElem? {n : Nat} (hn : 0 < n) (f : Nat) (l : List α) (hf : l.length ≤ f) (k : Nat) :
    (piecesF n f l)[k]? = if n * k < l.length then some ((l.drop (n * k)).take n) else none := by
  induction f generalizing l k with
  | zero =>
    obtain rfl := List.length_eq_zero_iff.1 (Nat.le_zero.1 hf)
    rfl
  | succ f ih =>
    cases l with
    | nil => rfl
    | cons a t =>
      cases k with
      | zero => rfl
      | succ k =>
        have rest := ih ((a :: t).drop n) (by simp at hf ⊢; omega) k
        refine rest.trans ?_
        rw [List.drop_drop, List.length_drop, Nat.mul_succ, Nat.add_comm n]
        exact if_congr (by omega) rfl rfl

/-- Piece `k` of a list. -/
theorem pieces_getElem? {n : Nat} (hn : 0 < n) (l : List α) (k : Nat) :
    (pieces n l)[k]? = if n * k < l.length then some ((l.drop (n * k)).take n) else none :=
  piecesF_getElem? hn _ l (Nat.le_refl _) k

/-- What stands at a place of a piece. -/
theorem getElem?_of_pieces {n : Nat} (hn : 0 < n) {l p : List α} {a : α} {k j : Nat} (hp : (pieces n l)[k]? = some p) (ha : p[j]? = some a) :
    l[n * k + j]? = some a := by
  rw [pieces_getElem? hn] at hp
  split at hp
  · obtain rfl := Option.some.inj hp
    rw [List.getElem?_take] at ha
    split at ha
    · rwa [List.getElem?_drop] at ha
    · cases ha
  · cases hp

theorem ne_nil_of_mem_pieces {n : Nat} (hn : 0 < n) {l p : List α} (h : p ∈ pieces n l) : p ≠ [] := by
  obtain ⟨k, hk⟩ := List.getElem?_of_mem h
  rw [pieces_getElem? hn] at hk
  split at hk
  · obtain rfl := Option.some.inj hk
    refine List.length_pos_iff.1 ?_
    simp only [List.length_take, List.length_drop]
    omega
  · cases hk

theorem length_le_of_mem_pieces {n : Nat} (hn : 0 < n) {l p : List α} (h : p ∈ pieces n l) : p.length ≤ n := by
  obtain ⟨k, hk⟩ := List.getElem?_of_mem h
  rw [pieces_getElem? hn] at hk
  split at hk
  · obtain rfl := Option.some.inj hk
    exact List.length_take_le ..
  · cases hk

/-- A list of `n` times `c` elements makes at most `c` pieces. -/
theorem pieces_length_le {n c : Nat} (hn : 0 < n) {l : List α} (h : l.length ≤ n * c) : (pieces n l).length ≤ c := by
  by_contra more
  have := pieces_getElem? hn l c
  rw [if_neg (by omega), List.getElem?_eq_none_iff] at this
  omega

/-! ## Work done window by window -/

/-- What pieces numbered `k` and up contribute, around one of them. -/
theorem flatMap_zipIdx_split (g : List α × Nat → List β) (l : List (List α)) (w : List α) (r : List (List α)) :
    (l ++ w :: r).zipIdx.flatMap g = l.zipIdx.flatMap g ++ (g (w, l.length) ++ (r.zipIdx (l.length + 1)).flatMap g) := by
  simp [List.zipIdx_append, List.zipIdx_cons, List.flatMap_append]

theorem mem_zipIdx_mid (l : List (List α)) (w : List α) (r : List (List α)) : (w, l.length) ∈ (l ++ w :: r).zipIdx := by
  simp [List.zipIdx_append, List.zipIdx_cons]

/-! ## The request list (R342 to R345) -/

theorem State.requests_length_le : (s.requests x).length ≤ x.count := by
  unfold State.requests
  simp only [List.length_map, List.length_zipIdx]
  refine pieces_length_le (by split <;> decide) ?_
  rw [s.rdx_length, Inst.idxLen, Nat.mul_comm]

theorem State.ix_of_requests {i : Nat} {q : Req} (h : (s.requests x)[i]? = some q) : q.ix = i := by
  unfold State.requests at h
  simp only [List.getElem?_map, List.getElem?_zipIdx, Option.map_map, Option.map_eq_some_iff] at h
  obtain ⟨_, -, rfl⟩ := h
  exact Nat.zero_add i

/-- A request that names a device names another one. -/
theorem State.dev_ne_of_requests {q : Req} (h : q ∈ s.requests x) : q.dev ≠ some s.devId := by
  unfold State.requests at h
  obtain ⟨p, -, rfl⟩ := List.mem_map.1 h
  dsimp only
  split
  · rename_i far
    rw [Bool.and_eq_true, bne_iff_ne] at far
    exact fun e => far.2 (Option.some.inj e)
  · nofun

/-- The requests of a window by their place in the list. -/
theorem State.ix_of_windows {l r : List (List Req)} {p t : List Req} {q : Req} (h : windowsOf (s.requests x) = l ++ (p ++ q :: t) :: r) :
    q.ix = 4096 * l.length + p.length ∧ q.ix < x.count ∧ p.length < 4096 := by
  have place : (s.requests x)[4096 * l.length + p.length]? = some q :=
    getElem?_of_pieces (by decide) (p := p ++ q :: t) (by unfold windowsOf at h; rw [h]; simp) (by simp)
  have bound := (List.getElem?_eq_some_iff.1 place).1
  have ix := State.ix_of_requests place
  have total := s.requests_length_le (x := x)
  have fits := length_le_of_mem_pieces (n := 4096) (p := p ++ q :: t) (l := s.requests x) (by decide) (by unfold windowsOf at h; rw [h]; simp)
  rw [List.length_append, List.length_cons] at fits
  exact ⟨ix, by omega, by omega⟩

theorem State.mem_requests_of_windows {w : List Req} {q : Req} (hw : w ∈ windowsOf (s.requests x)) (hq : q ∈ w) : q ∈ s.requests x := by
  obtain ⟨k, hk⟩ := List.getElem?_of_mem hw
  obtain ⟨j, hj⟩ := List.getElem?_of_mem hq
  exact List.mem_of_getElem? (getElem?_of_pieces (by decide) hk hj)

/-! ## The opening of an operation (R349, R370) -/

/-- What stands behind an opening that succeeds. -/
theorem State.lexOpen_ok {rows : Bool} {more : List (Nat × Nat)} {ws : List (List Req)} (h : s.lexOpen x rows more = .ok ws) :
    ws = windowsOf (s.requests x) := by
  unfold State.lexOpen at h
  split at h
  · cases h
  · dsimp only at h
    split at h
    · cases h
    · split at h
      · cases h
      · exact (Except.ok.inj h).symm

/-- A LEXICON that is taken up by its operation. -/
theorem State.lexicon_eq {op : Nat} (h : s.inst? x.id = some x) (hp : x.phase = .started) (ho : x.opcode = 5) (ht : s.inTurn x = true)
    (hop : x.lexOp = op) : s.lexicon x.id op = some x := by
  unfold State.lexicon
  rw [State.started_eq h hp ho ht]
  exact if_pos hop

theorem State.lexResult_none (h : bit (x.w 15) 31 = false) (u n k r : Nat) : s.lexResult x u n k r = Chunk.empty := by
  unfold State.lexResult
  rw [h, if_neg (by decide)]

end Sys2Proof.Machine
end

section
/-! PROOFS, family 07_specialist_engines: GATHER (O44). -/
namespace Sys2Proof.Machine
variable {s : State} {x : Inst}

/-! ## Rows that a GATHER delivers (R343 to R351) -/

/-- Rows of a window that the directory holds. -/
def State.hotRows (s : State) (x : Inst) (w : List Req) : List (Nat × TRow × Bool) :=
  w.filterMap fun q => q.row.bind fun r => (s.hotHit x q.dev r).map fun h => (r, s.hotRow x h)

/-- The row that a request of a window gets: zeros, the directory's copy, or the table's row. -/
def State.served (s : State) (x : Inst) (w : List Req) (q : Req) : TRow :=
  match q.row with
  | none => ⟨List.replicate x.table.rowBytes 0#8, 0⟩
  | some r => match (s.hotRows x w).find? fun h => q.dev.isNone && h.1 == r with
    | some h => h.2.1
    | none => s.tRow x q.dev r

theorem Table.rowBytes_pos (t : Table) : 0 < t.rowBytes := by
  unfold Table.rowBytes
  dsimp only
  split
  · positivity
  · decide

theorem State.tRow_length (dev : Option Nat) (r : Nat) : (s.tRow x dev r).bs.length = x.table.rowBytes := by
  refine (s.rdx_length x _ _).trans ?_
  cases dev <;> rfl

theorem State.mem_hotRows {w : List Req} {h : Nat × TRow × Bool} (hh : h ∈ s.hotRows x w) :
    ∃ q ∈ w, q.row = some h.1 ∧ ∃ e, s.hotHit x q.dev h.1 = some e ∧ h.2 = s.hotRow x e := by
  obtain ⟨q, hq, found⟩ := List.mem_filterMap.1 hh
  simp only [Option.bind_eq_some_iff, Option.map_eq_some_iff] at found
  obtain ⟨r, hr, e, he, rfl⟩ := found
  exact ⟨q, hq, hr, e, he, rfl⟩

theorem State.served_length (w : List Req) (q : Req) : (s.served x w q).bs.length = x.table.rowBytes := by
  unfold State.served
  split
  · exact List.length_replicate
  · split
    · rename_i h found
      obtain ⟨_, _, _, e, _, row⟩ := State.mem_hotRows (List.mem_of_find?_eq_some found)
      rw [row]
      exact s.rd_length _ _ _
    · exact State.tRow_length _ _

theorem State.served_null {q : Req} (h : q.row = none) (w : List Req) : (s.served x w q).bs = List.replicate x.table.rowBytes 0#8 := by
  unfold State.served
  rw [h]

/-- A row that the directory does not hold comes from the table. -/
theorem State.served_cold {q : Req} {r : Nat} (hr : q.row = some r) (hd : q.dev = none) (cold : s.hotHit x none r = none) (w : List Req) :
    (s.served x w q).bs = s.rdx x (x.table.rowAt none r) x.table.rowBytes := by
  have absent : (s.hotRows x w).find? (fun h => q.dev.isNone && h.1 == r) = none := List.find?_eq_none.2 fun h hh same => by
    obtain ⟨p, -, -, e, hit, -⟩ := State.mem_hotRows hh
    rw [Bool.and_eq_true, beq_iff_eq] at same
    rw [same.2] at hit
    cases hp : p.dev with
    | none => rw [hp, cold] at hit; cases hit
    | some d => rw [hp] at hit; cases hit
  unfold State.served
  rw [hr]
  dsimp only
  rw [absent, hd]
  rfl

/-! ## Where a GATHER puts them -/

/-- The outputs of a window, rows as they are: the rows in a run, zeros behind the last, and scale words behind all rows. -/
theorem State.gatherChunk_raw (raw : x.outFmt = 0) (k : Nat) (w : List Req) (before : List (Option Nat × Nat)) : ∃ tail scales,
    (s.gatherChunk x k w before).outs =
      outAt (x.a64 10 + x.table.rowBytes * (4096 * k)) ((w.flatMap fun q => (s.served x w q).bs) ++ tail) ++ scales ∧
    ∀ o ∈ scales, x.a64 10 + x.table.rowBytes * x.count ≤ o.a := by
  unfold State.gatherChunk Inst.outRow
  simp only [raw, true_or, if_true, true_and]
  refine ⟨_, _, rfl, fun o ho => ?_⟩
  split at ho
  · have below := le_of_mem_outAt ho
    have up : x.count * x.table.rowBytes ≤ up1k (x.count * x.table.rowBytes) := by unfold up1k cdiv; omega
    rw [Nat.mul_comm x.table.rowBytes]
    omega
  · cases ho

/-- Row `p.length` of a run of rows. -/
theorem flatMap_row {f : Req → List Byte} {n : Nat} (hf : ∀ q, (f q).length = n) (p : List Req) (q : Req) (t : List Req) (tail : List Byte) :
    ((((p ++ q :: t).flatMap f) ++ tail).drop (n * p.length)).take n = f q := by
  have before : (p.flatMap f).length = n * p.length := by simp [List.length_flatMap, hf, Nat.mul_comm]
  rw [List.flatMap_append, List.flatMap_cons, List.append_assoc, ← before, List.drop_left, List.append_assoc, ← hf q, List.take_left]

/-- The rows of window `l.length` begin on this device. -/
theorem State.gather_window_own {l r : List (List Req)} {w : List Req} (raw : x.outFmt = 0) (hw : w ≠ [])
    (plain : s.WorkPlain x (s.gatherWork x (l ++ w :: r))) : s.isOwn (x.a64 10 + x.table.rowBytes * (4096 * l.length)) = true := by
  obtain ⟨tail, scales, outs, -⟩ := s.gatherChunk_raw raw l.length w (((l ++ w :: r).take l.length).flatMap reqRows)
  obtain ⟨q, t, rfl⟩ := List.exists_cons_of_ne_nil hw
  have rows : ((q :: t).flatMap fun p => (s.served x (q :: t) p).bs) ++ tail ≠ [] := by
    refine List.length_pos_iff.1 ?_
    have := x.table.rowBytes_pos
    simp only [List.flatMap_cons, List.length_append, State.served_length]
    omega
  obtain ⟨o, ho, start⟩ := outAt_head (a := x.a64 10 + x.table.rowBytes * (4096 * l.length)) rows
  have own := (plain.clear.here o (List.mem_flatMap.2 ⟨_, List.mem_append_left _ (List.mem_map_of_mem (mem_zipIdx_mid l (q :: t) r)),
    outs ▸ List.mem_append_left _ ho⟩)).1
  rwa [start] at own

/-- The outputs of a window lie at its rows' places or above. -/
theorem State.le_of_mem_gatherChunk (raw : x.outFmt = 0) {k n : Nat} {w : List Req} {before : List (Option Nat × Nat)} (hk : n ≤ 4096 * k)
    (hn : n ≤ x.count) {o : Out} (ho : o ∈ (s.gatherChunk x k w before).outs) : x.a64 10 + x.table.rowBytes * n ≤ o.a := by
  obtain ⟨tail, scales, outs, behind⟩ := s.gatherChunk_raw raw k w before
  have h1 := Nat.mul_le_mul_left x.table.rowBytes hk
  have h2 := Nat.mul_le_mul_left x.table.rowBytes hn
  rw [outs] at ho
  rcases List.mem_append.1 ho with ho | ho
  · have := le_of_mem_outAt ho
    omega
  · have := behind o ho
    omega

theorem State.gatherWork_outs (noResult : bit (x.w 15) 31 = false) (ws : List (List Req)) : (s.gatherWork x ws).allOuts =
    ws.zipIdx.flatMap fun p => (s.gatherChunk x p.2 p.1 ((ws.take p.2).flatMap reqRows)).outs := by
  unfold Work.allOuts State.gatherWork
  dsimp only
  rw [State.lexResult_none noResult, List.flatMap_append, List.flatMap_map]
  exact List.append_nil _

/-- The outputs of a GATHER around those of a window; what follows the window's rows lies above each of them. -/
theorem State.gatherWork_split {l r : List (List Req)} {p u : List Req} {q : Req} (raw : x.outFmt = 0) (noResult : bit (x.w 15) 31 = false)
    (hws : windowsOf (s.requests x) = l ++ (p ++ q :: u) :: r) : ∃ pre tail post, (s.gatherWork x (l ++ (p ++ q :: u) :: r)).allOuts =
      pre ++ (outAt (x.a64 10 + x.table.rowBytes * (4096 * l.length)) (((p ++ q :: u).flatMap fun q' => (s.served x (p ++ q :: u) q').bs) ++ tail) ++
        post) ∧ ∀ o ∈ post, x.a64 10 + x.table.rowBytes * (q.ix + 1) ≤ o.a := by
  obtain ⟨ix, bound, inWindow⟩ := State.ix_of_windows hws
  obtain ⟨tail, scales, outs, behind⟩ := s.gatherChunk_raw raw l.length (p ++ q :: u) (((l ++ (p ++ q :: u) :: r).take l.length).flatMap reqRows)
  rw [State.gatherWork_outs noResult, flatMap_zipIdx_split, outs]
  refine ⟨_, tail, _, by rw [List.append_assoc], fun o ho => ?_⟩
  rcases List.mem_append.1 ho with ho | ho
  · exact (Nat.add_le_add_left (Nat.mul_le_mul_left _ bound) _).trans (behind o ho)
  · obtain ⟨⟨v, j⟩, hv, ho⟩ := List.mem_flatMap.1 ho
    have later := (List.mem_zipIdx hv).1
    exact State.le_of_mem_gatherChunk raw (by dsimp only; omega) bound ho

/-- After a GATHER of rows as they are, each request's row stands at its place. -/
theorem State.gather_row {t : State} {l r : List (List Req)} {p u : List Req} {q : Req} (hm : s.memOk = true) (raw : x.outFmt = 0)
    (noResult : bit (x.w 15) 31 = false) (hws : windowsOf (s.requests x) = l ++ (p ++ q :: u) :: r)
    (plain : s.WorkPlain x (s.gatherWork x (l ++ (p ++ q :: u) :: r))) (wrote : s.Wrote t x (s.gatherWork x (l ++ (p ++ q :: u) :: r))) :
    memRead t.mem (locOf (x.a64 10) + x.table.rowBytes * q.ix) x.table.rowBytes = (s.served x (p ++ q :: u) q).bs := by
  have wf := ((State.memOk_iff s).1 hm).1
  have mem : t.mem = memOuts s.mem (s.gatherWork x (l ++ (p ++ q :: u) :: r)).allOuts := wrote.mem
  have here := plain.clear.here
  have begins : ∀ {l' r' : List (List Req)} {w}, l ++ (p ++ q :: u) :: r = l' ++ w :: r' →
      s.isOwn (x.a64 10 + x.table.rowBytes * (4096 * l'.length)) = true := fun {l' r' w} e =>
    State.gather_window_own raw
      (ne_nil_of_mem_pieces (n := 4096) (l := s.requests x) (by decide) (by unfold windowsOf at hws; rw [hws, e]; simp)) (e ▸ plain)
  have ownWindow := begins rfl
  have ownBase : s.isOwn (x.a64 10) = true := by
    cases l with
    | nil => simpa using begins (l' := []) rfl
    | cons v l => simpa using begins (l' := []) rfl
  have dist : ∀ {a}, s.isOwn a = true → x.a64 10 ≤ a → locOf a = locOf (x.a64 10) + (a - x.a64 10) := fun {a} own le => by
    obtain ⟨d, rfl⟩ := Nat.le.dest le
    rw [locOf_add (devOf_eq_of_isOwn own ownBase), Nat.add_sub_cancel_left]
  obtain ⟨ix, -, -⟩ := State.ix_of_windows hws
  obtain ⟨pre, tail, post, outs, above⟩ := s.gatherWork_split raw noResult hws
  rw [outs] at here mem
  have row := flatMap_row (fun q' => s.served_length (x := x) (p ++ q :: u) q') p q u tail
  generalize ((p ++ q :: u).flatMap fun q' => (s.served x (p ++ q :: u) q').bs) ++ tail = body at here mem row
  have fits : x.table.rowBytes * p.length + x.table.rowBytes ≤ body.length := by
    have := x.table.rowBytes_pos
    have := congrArg List.length row
    rw [State.served_length, List.length_take, List.length_drop] at this
    omega
  have place : locOf (x.a64 10) + x.table.rowBytes * q.ix =
      locOf (x.a64 10 + x.table.rowBytes * (4096 * l.length)) + x.table.rowBytes * p.length := by
    rw [dist ownWindow (Nat.le_add_right _ _), ix, Nat.mul_add]
    omega
  have apart : ∀ o ∈ post, locOf (x.a64 10) + x.table.rowBytes * q.ix + x.table.rowBytes ≤ locOf o.a := fun o ho => by
    have le := above o ho
    have own := (here o (by simp [ho])).1
    rw [Nat.mul_succ] at le
    rw [dist own (by omega)]
    omega
  rw [mem, memOuts_append, memOuts_append,
    memRead_memOuts_of_apart (Memory.wf_memOuts (Memory.wf_memOuts wf _) _) post fun o ho => .inl (apart o ho),
    memOuts_outAt (Memory.wf_memOuts wf pre) fun o ho => devOf_eq_of_isOwn (here o (by simp [ho])).1 ownWindow,
    place, memRead_memWrite_inside (Memory.wf_memOuts wf pre) fits, row]

/-- A GATHER whose requests are at hand runs its work. -/
theorem State.gather_eq {ws : List (List Req)} (h : s.lexicon x.id 0 = some x) (ho : s.lexOpen x true [] = .ok ws) :
    s.gather x.id = s.runWork x (s.gatherWork x ws) := by
  unfold State.gather
  rw [h]
  dsimp only
  rw [ho]

theorem gather_writes {ws : List (List Req)} (hm : s.memOk = true) (hx : s.inst? x.id = some x) (hl : s.lexicon x.id 0 = some x)
    (opens : s.lexOpen x true [] = .ok ws) (plain : s.WorkPlain x (s.gatherWork x ws)) :
    ∃ t, exec (.gather x.id) s = .next t ∧ s.Wrote t x (s.gatherWork x ws) ∧
      (x.outFmt = 0 → bit (x.w 15) 31 = false → ∀ q ∈ ws.flatten,
        (q.row = none → memRead t.mem (locOf (x.a64 10) + x.table.rowBytes * q.ix) x.table.rowBytes = List.replicate x.table.rowBytes 0#8) ∧
        ∀ r, q.row = some r → q.dev = none → s.hotHit x none r = none →
          memRead t.mem (locOf (x.a64 10) + x.table.rowBytes * q.ix) x.table.rowBytes =
            s.rdx x (x.table.rowAt none r) x.table.rowBytes) := by
  obtain ⟨t, run, wrote⟩ := exec_writes (c := .gather x.id) hm hx (act_of_wf (c := .gather x.id) rfl (s.gather x.id))
    (State.gather_eq hl opens) plain
  refine ⟨t, run, wrote, fun raw noResult q hq => ?_⟩
  obtain ⟨w, hw, hqw⟩ := List.mem_flatten.1 hq
  obtain ⟨l, r, rfl⟩ := List.append_of_mem hw
  obtain ⟨p, u, rfl⟩ := List.append_of_mem hqw
  have row := State.gather_row hm raw noResult (State.lexOpen_ok opens).symm plain wrote
  exact ⟨fun null => row.trans (State.served_null null _), fun r hr hd cold => row.trans (State.served_cold hr hd cold _)⟩

end Sys2Proof.Machine
end

section
/-! PROOFS, family 07_specialist_engines: what a SCATTER writes, and that it finds its operands at hand (O44). -/
namespace Sys2Proof.Machine
variable {s : State} {x : Inst} {w : List Req} {ws : List (List Req)} {k : Nat} {q : Req}

/-! ## What a descriptor still needs of other devices -/

theorem State.want_none_iff {rs : List (Nat × Nat)} : s.want x rs = none ↔ x.awaiting = 0 ∧ s.missing x rs = [] := by
  unfold State.want
  dsimp only
  by_cases waits : x.awaiting = 0
  · rw [if_neg (not_not_intro waits)]
    by_cases all : s.missing x rs = []
    · simp [waits, all]
    · rw [if_neg (by simpa using all)]
      simp only [all, and_false, iff_false]
      split <;> nofun
  · simp [waits]

theorem State.missing_nil_iff {rs : List (Nat × Nat)} : s.missing x rs = [] ↔
    ∀ r ∈ rs, s.isOwn r.1 = false → ∀ p ∈ readPieces r.1 r.2, p ∈ x.asked := by
  unfold State.missing
  simp only [List.filter_eq_nil_iff, List.mem_eraseDups, List.mem_flatMap, List.mem_filter, Bool.not_eq_true', Bool.not_eq_false,
    List.contains_iff_mem, forall_exists_index, and_imp]
  exact ⟨fun h r hr far p hp => h p r hr far hp, fun h p r hr far hp => h r hr far p hp⟩

/-- Ranges of this device, and empty ones, ask for nothing. -/
theorem State.want_append_own {a b : List (Nat × Nat)} (h : s.want x a = none) (own : ∀ r ∈ b, r.2 = 0 ∨ s.isOwn r.1 = true) :
    s.want x (a ++ b) = none := by
  rw [State.want_none_iff, State.missing_nil_iff] at *
  refine ⟨h.1, fun r hr far => ?_⟩
  rcases List.mem_append.1 hr with hr | hr
  · exact h.2 r hr far
  · rcases own r hr with empty | here
    · rw [empty]; nofun
    · rw [here] at far; cases far

/-- An opening that succeeds without the rows succeeds with them, where they are of this device. -/
theorem State.lexOpen_rows {more : List (Nat × Nat)} (h : s.lexOpen x false more = .ok ws)
    (own : ∀ r ∈ x.rowRanges x.checkDiac (((s.openWindows x ws).takeWhile fun w => !outOfRange x w).flatMap reqRows),
      r.2 = 0 ∨ s.isOwn r.1 = true) : s.lexOpen x true more = .ok ws := by
  obtain rfl := State.lexOpen_ok h
  unfold State.lexOpen at h ⊢
  split at h
  · cases h
  · rename_i block
    dsimp only at h ⊢
    split at h
    · cases h
    · rename_i members
      rw [if_neg members, if_pos rfl, State.want_append_own block own]

/-! ## The outputs of a SCATTER (R348) -/

/-- No later request of the window names the row that this one names. -/
def standsIn (w : List Req) (q : Req) : Bool :=
  match q.row with
  | none => false
  | some r => !(w.any fun p => decide (q.ix < p.ix) && p.dev == q.dev && p.row == some r)

/-- What a request of window `k` writes: its row, and its scale word where rows have one. -/
def State.scatterOuts (s : State) (x : Inst) (k : Nat) (q : Req) : List Out :=
  match q.row with
  | none => []
  | some r =>
    [⟨(x.tableOn q.dev).rowAt q.dev r, s.rdx x (x.a64 10 + x.table.rowBytes * q.ix) x.table.rowBytes, 2 ^ 60 + k⟩] ++
      (if x.table.scaled then [⟨(x.tableOn q.dev).scaleAt q.dev r,
        if x.table.scaled then s.rdx x (x.a64 10 + up1k (x.count * x.table.rowBytes) + 2 * q.ix) 2 else [], 2 ^ 60 + k⟩] else [])

theorem State.scatterChunk_outs : (s.scatterChunk x k w).outs = (w.filter (standsIn w)).flatMap (s.scatterOuts x k) := rfl

theorem State.scatterChunk_ren : (s.scatterChunk x k w).ren =
    x.rowGrans ((w.filter (standsIn w)).filterMap fun q => q.row.map fun r => (q.dev, r)) 0 := rfl

/-- Of the requests for a row, the last stands. -/
theorem exists_standsIn {r : Nat} (hq : q ∈ w) (hr : q.row = some r) : ∃ p ∈ w.filter (standsIn w), p.dev = q.dev ∧ p.row = some r := by
  obtain ⟨p, hp, last⟩ := Finset.exists_max_image (w.toFinset.filter fun p => p.dev = q.dev ∧ p.row = some r) Req.ix ⟨q, by simp [hq, hr]⟩
  simp only [Finset.mem_filter, List.mem_toFinset] at hp last
  obtain ⟨hw, dev, row⟩ := hp
  refine ⟨p, List.mem_filter.2 ⟨hw, ?_⟩, dev, row⟩
  unfold standsIn
  rw [row]
  simp only [Bool.not_eq_true', List.any_eq_false, Bool.and_eq_true, decide_eq_true_eq, beq_iff_eq, not_and]
  exact fun p' h' ⟨later, same⟩ same' => absurd (last p' ⟨h', same.trans dev, same'⟩) (by omega)

/-- The pieces of a SCATTER are its windows'. -/
theorem State.mem_scatterWork_chunks (hw : w ∈ ws) : ∃ k, s.scatterChunk x k w ∈ (s.scatterWork x ws).chunks := by
  obtain ⟨l, r, rfl⟩ := List.append_of_mem hw
  exact ⟨l.length, List.mem_map_of_mem (f := fun p : List Req × Nat => s.scatterChunk x p.2 p.1) (mem_zipIdx_mid l w r)⟩

/-! ## Rows that a SCATTER may write -/

section
variable (plain : s.WorkPlain x (s.scatterWork x ws)) (hw : w ∈ ws) (hq : q ∈ w) {r : Nat} (hr : q.row = some r)
include plain hw hq hr

/-- A row that a request names is of this device, and so is its scale word. -/
theorem State.scatter_row_own : s.isOwn ((x.tableOn q.dev).rowAt q.dev r) = true ∧
    (x.table.scaled = true → s.isOwn ((x.tableOn q.dev).scaleAt q.dev r) = true) := by
  obtain ⟨k, hc⟩ := State.mem_scatterWork_chunks (s := s) (x := x) hw
  obtain ⟨p, hp, dev, row⟩ := exists_standsIn hq hr
  have written : ∀ o ∈ s.scatterOuts x k p, s.isOwn o.a = true := fun o ho => (plain.clear.here o
    (List.mem_flatMap.2 ⟨_, List.mem_append_left _ hc, State.scatterChunk_outs ▸ List.mem_flatMap.2 ⟨p, hp, ho⟩⟩)).1
  unfold State.scatterOuts at written
  rw [row, dev] at written
  exact ⟨written _ (List.mem_append_left _ (List.mem_singleton.2 rfl)),
    fun scaled => written _ (List.mem_append_right _ (by rw [if_pos scaled]; exact List.mem_singleton.2 rfl))⟩

/-- The granules of a row that a request names are of this device. -/
theorem State.scatter_grans_own {g : Gran} (hg : g ∈ (x.tableOn q.dev).rowGrans q.dev r 0) : s.isOwn g.a = true := by
  obtain ⟨k, hc⟩ := State.mem_scatterWork_chunks (s := s) (x := x) hw
  obtain ⟨p, hp, dev, row⟩ := exists_standsIn hq hr
  refine (plain.clear.diacsHere _ (List.mem_append_left _ hc)).1 g ?_
  rw [State.scatterChunk_ren]
  exact List.mem_eraseDups.2 (List.mem_flatMap.2 ⟨(q.dev, r), List.mem_filterMap.2 ⟨p, hp, by rw [row, dev]; rfl⟩, hg⟩)

/-- So no request names a row of another device. -/
theorem State.scatter_dev (hws : ws = windowsOf (s.requests x)) : q.dev = none := by
  cases hd : q.dev with
  | none => rfl
  | some d =>
    have own := (State.scatter_row_own plain hw hq hr).1
    have far := State.dev_ne_of_requests (State.mem_requests_of_windows (hws ▸ hw) hq)
    rw [hd] at own far
    refine absurd (congrArg some ?_) far
    have : devOf (d * 2 ^ 48 + locOf ((x.tableOn (some d)).base + r * (x.tableOn (some d)).rowBytes)) = s.devId := beq_iff_eq.1 own
    unfold devOf locOf at this
    omega
end

/-! ## Granules of a row and their scale words (R339) -/

theorem Table.rowBytes_cases (t : Table) : t.rowBytes ∈ [16, 32, 64, 128, 256, 512, 1024, 2048, 4096] := by
  unfold Table.rowBytes
  dsimp only
  split
  · rename_i v
    generalize bits t.cfg 0 4 = k at v
    obtain ⟨h1, h2⟩ := v
    interval_cases k <;> decide
  · decide

theorem Table.gran_a (t : Table) (dev : Option Nat) (i op : Nat) : (t.gran dev i op).a = Table.on dev (t.base + 1024 * i) := by
  unfold Table.gran
  dsimp only
  split <;> rfl

/-- The scale words of a granule that holds a row are those of an interval around it. -/
theorem Table.gran_scales {t : Table} {r op : Nat} {g : Gran} (hg : g ∈ t.rowGrans none r op) (hr : r < t.rows) :
    g.sl = 0 ∨ t.scaled = true ∧ g.sa ≤ t.scaleAt none r ∧ t.scaleAt none r < g.sa + g.sl := by
  obtain ⟨i, hi, rfl⟩ := List.mem_map.1 hg
  rw [mem_upto] at hi
  unfold Table.gran
  dsimp only
  cases t.scaled with
  | false => exact .inl rfl
  | true =>
    rw [if_pos rfl]
    simp only [true_and]
    change _ ∨ t.sbase + _ ≤ t.sbase + 2 * r ∧ t.sbase + 2 * r < t.sbase + _ + _
    have sizes := t.rowBytes_cases
    generalize t.rowBytes = n at hi sizes
    unfold cdiv at hi
    simp only [List.mem_cons, List.not_mem_nil, or_false] at sizes
    by_cases small : n ≤ 1024
    · simp only [small, if_true]
      have shares : n = 16 ∨ n = 32 ∨ n = 64 ∨ n = 128 ∨ n = 256 ∨ n = 512 ∨ n = 1024 := by omega
      rcases shares with rfl | rfl | rfl | rfl | rfl | rfl | rfl <;> norm_num at hi ⊢ <;> omega
    · simp only [small, if_false]
      by_cases first : i * 1024 % n = 0
      · simp only [first, if_true]
        have spans : n = 2048 ∨ n = 4096 := by omega
        rcases spans with rfl | rfl <;> omega
      · exact .inl (by rw [if_neg first])

/-- A range that may be accessed and reaches this device begins on it. -/
theorem State.isOwn_of_mayAcc {k a b len : Nat} (h : s.mayAcc x k a len = true) (h1 : a ≤ b) (h2 : b < a + len) (own : s.isOwn b = true) :
    s.isOwn a = true := by
  by_contra far
  unfold State.mayAcc at h
  rw [if_neg far, Bool.or_eq_true, beq_iff_eq, decide_eq_true_eq] at h
  have reach : locOf a + len ≤ hostBit := h.resolve_left (by omega)
  refine far (beq_iff_eq.2 (Eq.trans ?_ (beq_iff_eq.1 own)))
  unfold hostBit at reach
  unfold devOf locOf at *
  omega

/-! ## The opening of a SCATTER -/

/-- The rows of the windows that are read lie within their tables. -/
theorem State.mem_open_rows {p : Option Nat × Nat}
    (hp : p ∈ ((s.openWindows x ws).takeWhile fun w => !outOfRange x w).flatMap reqRows) :
    ∃ w ∈ ws, ∃ q ∈ w, q.dev = p.1 ∧ q.row = some p.2 ∧ p.2 < (x.tableOn p.1).rows := by
  obtain ⟨w, hw, hp⟩ := List.mem_flatMap.1 hp
  have inRange : outOfRange x w = false := by simpa using List.mem_takeWhile_imp hw
  have opened : w ∈ ws := by
    obtain ⟨⟨v, k⟩, hv, rfl⟩ := List.mem_map.1 ((List.takeWhile_sublist _).mem hw)
    exact List.fst_mem_of_mem_zipIdx ((List.takeWhile_sublist _).mem hv)
  obtain ⟨q, hq, e⟩ := List.mem_filterMap.1 (List.mem_eraseDups.1 hp)
  obtain ⟨r, hr, rfl⟩ := Option.map_eq_some_iff.1 e
  refine ⟨w, opened, q, hq, rfl, hr, ?_⟩
  have := List.any_eq_false.1 inRange q hq
  rw [hr] at this
  simpa using this

theorem State.scatter_open (h : s.lexOpen x false x.scatterData = .ok ws) (plain : s.WorkPlain x (s.scatterWork x ws)) :
    s.lexOpen x x.checkDiac x.scatterData = .ok ws := by
  cases hc : x.checkDiac with
  | false => exact h
  | true =>
    refine State.lexOpen_rows h fun a ha => ?_
    rw [hc] at ha
    have granted : s.mayAcc x 0 a.1 a.2 = true := State.mayAcc_of_granted plain.clear.granted (List.mem_append_right _ (by rw [hc]; exact ha))
    obtain ⟨p, hp, ha⟩ := List.mem_flatMap.1 ha
    obtain ⟨g, hg, ha⟩ := List.mem_flatMap.1 ha
    obtain ⟨w, hw, q, hq, hd, hr, bound⟩ := State.mem_open_rows hp
    rcases List.mem_cons.1 ha with rfl | ha
    · obtain ⟨i, hi, rfl⟩ := List.mem_map.1 hg
      refine .inr ?_
      have own := State.scatter_grans_own plain hw hq hr (hd ▸ List.mem_map_of_mem hi)
      rw [Table.gran_a, hd] at own
      rwa [Table.gran_a]
    · obtain rfl := List.mem_singleton.1 ha
      have ofThis : p.1 = none := hd ▸ State.scatter_dev plain hw hq hr (State.lexOpen_ok h)
      rw [ofThis] at hg bound
      refine (Table.gran_scales hg bound).imp_right fun ⟨scaled, lo, hi⟩ => ?_
      exact State.isOwn_of_mayAcc granted lo hi (by simpa only [hd, ofThis] using (State.scatter_row_own plain hw hq hr).2 scaled)

/-! ## Rows that stand after a SCATTER -/

theorem State.scatterWork_outs (noResult : bit (x.w 15) 31 = false) (ws : List (List Req)) :
    (s.scatterWork x ws).allOuts = ws.zipIdx.flatMap fun p => (s.scatterChunk x p.2 p.1).outs := by
  unfold Work.allOuts State.scatterWork
  dsimp only
  rw [State.lexResult_none noResult, List.flatMap_append, List.flatMap_map]
  exact List.append_nil _

/-- A row without scale words, and its bytes. -/
theorem State.scatterOuts_unscaled {r : Nat} (plainRows : x.table.scaled = false) (hr : q.row = some r) :
    s.scatterOuts x k q =
      [⟨(x.tableOn q.dev).rowAt q.dev r, s.rdx x (x.a64 10 + x.table.rowBytes * q.ix) x.table.rowBytes, 2 ^ 60 + k⟩] := by
  unfold State.scatterOuts
  rw [hr, plainRows]
  rfl

/-- Every output of a window is a row that one of its requests names. -/
theorem State.mem_scatterOuts {o : Out} (plainRows : x.table.scaled = false) (ho : o ∈ s.scatterOuts x k q) :
    ∃ r, q.row = some r ∧ o.a = (x.tableOn q.dev).rowAt q.dev r ∧ o.bs.length = x.table.rowBytes := by
  cases hr : q.row with
  | none => unfold State.scatterOuts at ho; rw [hr] at ho; cases ho
  | some r =>
    rw [State.scatterOuts_unscaled plainRows hr] at ho
    obtain rfl := List.mem_singleton.1 ho
    exact ⟨r, rfl, rfl, s.rdx_length x _ _⟩

/-- Different rows of the table of this device lie apart. -/
theorem State.rows_apart {r r' : Nat} (h : r' ≠ r) (own : s.isOwn (x.table.rowAt none r) = true) (own' : s.isOwn (x.table.rowAt none r') = true) :
    locOf (x.table.rowAt none r) + x.table.rowBytes ≤ locOf (x.table.rowAt none r') ∨
      locOf (x.table.rowAt none r') + x.table.rowBytes ≤ locOf (x.table.rowAt none r) := by
  have same := devOf_eq_of_isOwn own own'
  have order : (r + 1) * x.table.rowBytes ≤ r' * x.table.rowBytes ∨ (r' + 1) * x.table.rowBytes ≤ r * x.table.rowBytes :=
    (Nat.lt_or_gt_of_ne h).symm.imp (fun lt => Nat.mul_le_mul_right _ lt) (fun lt => Nat.mul_le_mul_right _ lt)
  unfold Table.rowAt Table.on devOf locOf at *
  dsimp only at *
  rw [Nat.succ_mul, Nat.succ_mul] at order
  omega

/-- The requests of later windows stand later in the list. -/
theorem State.ix_lt_of_later {l r : List (List Req)} {p t v : List Req} {q q' : Req} (h : windowsOf (s.requests x) = l ++ (p ++ q :: t) :: r)
    (hv : v ∈ r) (hq : q' ∈ v) : q.ix < q'.ix := by
  obtain ⟨r1, r2, rfl⟩ := List.append_of_mem hv
  obtain ⟨a, b, rfl⟩ := List.append_of_mem hq
  obtain ⟨ix, -, inWindow⟩ := State.ix_of_windows h
  obtain ⟨ix', -, -⟩ := State.ix_of_windows (l := l ++ (p ++ q :: t) :: r1) (p := a) (q := q') (t := b) (r := r2) (by rw [h]; simp)
  rw [ix, ix', List.length_append, List.length_cons]
  omega

theorem State.ix_lt_of_behind {l r : List (List Req)} {p t : List Req} {q q' : Req} (h : windowsOf (s.requests x) = l ++ (p ++ q :: t) :: r)
    (hq : q' ∈ t) : q.ix < q'.ix := by
  obtain ⟨a, b, rfl⟩ := List.append_of_mem hq
  obtain ⟨ix, -, -⟩ := State.ix_of_windows h
  obtain ⟨ix', -, -⟩ := State.ix_of_windows (l := l) (p := p ++ q :: a) (q := q') (t := b) (r := r) (by rw [h]; simp)
  rw [ix, ix', List.length_append, List.length_cons]
  omega

/-- The outputs of a SCATTER around that of the last request for a row; those that follow are of requests behind it. -/
theorem State.scatterWork_split {l r : List (List Req)} {p u : List Req} {row : Nat} (plainRows : x.table.scaled = false)
    (noResult : bit (x.w 15) 31 = false) (hr : q.row = some row) (stands : standsIn (p ++ q :: u) q = true) : ∃ pre post,
    (s.scatterWork x (l ++ (p ++ q :: u) :: r)).allOuts = pre ++ ⟨(x.tableOn q.dev).rowAt q.dev row,
      s.rdx x (x.a64 10 + x.table.rowBytes * q.ix) x.table.rowBytes, 2 ^ 60 + l.length⟩ :: post ∧
    ∀ o ∈ post, ∃ k q', (q' ∈ u ∨ ∃ v ∈ r, q' ∈ v) ∧ o ∈ s.scatterOuts x k q' := by
  rw [State.scatterWork_outs noResult, flatMap_zipIdx_split, State.scatterChunk_outs, List.filter_append, List.filter_cons_of_pos stands,
    List.flatMap_append, List.flatMap_cons, State.scatterOuts_unscaled plainRows hr]
  simp only [List.append_assoc, List.singleton_append]
  rw [← List.append_assoc]
  refine ⟨_, _, rfl, fun o ho => ?_⟩
  rcases List.mem_append.1 ho with ho | ho
  · obtain ⟨q', hq', ho⟩ := List.mem_flatMap.1 ho
    exact ⟨_, q', .inl (List.mem_filter.1 hq').1, ho⟩
  · obtain ⟨⟨v, k⟩, hv, ho⟩ := List.mem_flatMap.1 ho
    obtain ⟨q', hq', ho⟩ := List.mem_flatMap.1 (State.scatterChunk_outs ▸ ho)
    exact ⟨k, q', .inr ⟨v, List.fst_mem_of_mem_zipIdx hv, (List.mem_filter.1 hq').1⟩, ho⟩

/-- After a SCATTER, the row of the last request for it holds what that request brought. -/
theorem State.scatter_row {t : State} {l r : List (List Req)} {p u : List Req} {row : Nat} (hm : s.memOk = true) (plainRows : x.table.scaled = false)
    (noResult : bit (x.w 15) 31 = false) (hws : l ++ (p ++ q :: u) :: r = windowsOf (s.requests x))
    (plain : s.WorkPlain x (s.scatterWork x (l ++ (p ++ q :: u) :: r))) (wrote : s.Wrote t x (s.scatterWork x (l ++ (p ++ q :: u) :: r)))
    (hr : q.row = some row) (hd : q.dev = none) (last : ∀ q' ∈ (l ++ (p ++ q :: u) :: r).flatten, q.ix < q'.ix → q'.row ≠ q.row) :
    memRead t.mem (locOf (x.table.rowAt none row)) x.table.rowBytes = s.rdx x (x.a64 10 + x.table.rowBytes * q.ix) x.table.rowBytes := by
  have mem : t.mem = memOuts s.mem (s.scatterWork x (l ++ (p ++ q :: u) :: r)).allOuts := wrote.mem
  have stands : standsIn (p ++ q :: u) q = true := by
    unfold standsIn
    rw [hr]
    simp only [Bool.not_eq_true', List.any_eq_false, Bool.and_eq_true, decide_eq_true_eq, beq_iff_eq]
    exact fun q' hq' ⟨⟨later, _⟩, same⟩ => last q' (List.mem_flatten.2 ⟨_, by simp, hq'⟩) later (same.trans hr.symm)
  obtain ⟨pre, post, outs, behind⟩ := s.scatterWork_split (l := l) (r := r) plainRows noResult hr stands
  have ownRow := (State.scatter_row_own plain (by simp) (show q ∈ p ++ q :: u by simp) hr).1
  have apart : ∀ o ∈ post, locOf (x.table.rowAt none row) + x.table.rowBytes ≤ locOf o.a ∨
      locOf o.a + o.bs.length ≤ locOf (x.table.rowAt none row) := fun o ho => by
    obtain ⟨k, q', later, ho⟩ := behind o ho
    obtain ⟨row', hr', at_, len⟩ := State.mem_scatterOuts plainRows ho
    obtain ⟨v, hv, hq', ix⟩ : ∃ v ∈ l ++ (p ++ q :: u) :: r, q' ∈ v ∧ q.ix < q'.ix := by
      rcases later with hu | ⟨v, hv, hq'⟩
      · exact ⟨p ++ q :: u, by simp, by simp [hu], State.ix_lt_of_behind hws.symm hu⟩
      · exact ⟨v, by simp [hv], hq', State.ix_lt_of_later hws.symm hv hq'⟩
    have hd' := State.scatter_dev plain hv hq' hr' hws
    have ownRow' := (State.scatter_row_own plain hv hq' hr').1
    have other : row' ≠ row := fun e => last q' (List.mem_flatten.2 ⟨v, hv, hq'⟩) ix (by rw [hr', hr, e])
    rw [at_, len]
    rw [hd'] at ownRow' ⊢
    rw [hd] at ownRow
    exact State.rows_apart other ownRow ownRow'
  rw [mem, outs, hd, show x.tableOn none = x.table from rfl]
  have read := memRead_memOuts_last ((State.memOk_iff s).1 hm).1 pre
    ⟨x.table.rowAt none row, s.rdx x (x.a64 10 + x.table.rowBytes * q.ix) x.table.rowBytes, 2 ^ 60 + l.length⟩ post
    (by simpa only [s.rdx_length] using apart)
  simpa only [s.rdx_length] using read

/-- A SCATTER whose requests are at hand runs its work. -/
theorem State.scatter_eq (h : s.lexicon x.id 1 = some x) (ho : s.lexOpen x x.checkDiac x.scatterData = .ok ws) :
    s.scatter x.id = s.runWork x (s.scatterWork x ws) := by
  unfold State.scatter
  rw [h]
  dsimp only
  rw [ho]

theorem scatter_writes (hm : s.memOk = true) (hx : s.inst? x.id = some x) (hl : s.lexicon x.id 1 = some x)
    (opens : s.lexOpen x false x.scatterData = .ok ws) (plain : s.WorkPlain x (s.scatterWork x ws)) :
    ∃ t, exec (.scatter x.id) s = .next t ∧ s.Wrote t x (s.scatterWork x ws) ∧
      (x.table.scaled = false → bit (x.w 15) 31 = false → ∀ q ∈ ws.flatten, ∀ r, q.row = some r → q.dev = none →
        (∀ p ∈ ws.flatten, q.ix < p.ix → p.row ≠ q.row) →
        memRead t.mem (locOf (x.table.rowAt none r)) x.table.rowBytes = s.rdx x (x.a64 10 + x.table.rowBytes * q.ix) x.table.rowBytes) := by
  obtain ⟨t, run, wrote⟩ := exec_writes (c := .scatter x.id) hm hx (act_of_wf (c := .scatter x.id) rfl (s.scatter x.id))
    (State.scatter_eq hl (State.scatter_open opens plain)) plain
  refine ⟨t, run, wrote, fun plainRows noResult q hq row hr hd last => ?_⟩
  obtain ⟨w, hw, hqw⟩ := List.mem_flatten.1 hq
  obtain ⟨l, r, rfl⟩ := List.append_of_mem hw
  obtain ⟨p, u, rfl⟩ := List.append_of_mem hqw
  exact State.scatter_row hm plainRows noResult (State.lexOpen_ok opens) plain wrote hr hd last

end Sys2Proof.Machine
end

section
/-! PROOFS, family 07_specialist_engines: packets that a descriptor sends, and SCATTER_ADD (O44). -/
namespace Sys2Proof.Machine
variable {s t u : State} {x y : Inst}

/-! ## Packets of a descriptor (R597, R605, R606) -/

theorem State.Sent.refl (s : State) : s.Sent s [] := fun d => by simp

theorem State.Sent.trans {l r : List Packet} (h : s.Sent t l) (g : t.Sent u r) : s.Sent u (l ++ r) := fun d => by
  rw [g d, h d, List.filter_append, List.map_append, List.append_assoc]

/-- A flow that keeps its stored packets sends nothing. -/
theorem State.sent_putSend {f : SendFlow} (h : f.stored = (s.sendFlow f.dst).stored) : s.Sent (s.putSend f) [] := fun d => by
  unfold State.outTo
  rw [State.sendFlow_putSend]
  split
  · subst d; simp [h]
  · simp

theorem State.sent_openGroup (s : State) (d : Nat) (lane : Option (Nat × Nat)) : s.Sent (s.openGroup d lane).1 [] := by
  have put := s.sent_putSend (f := { s.sendFlow d with group := s.nextGroup d }) (by dsimp only; rw [s.sendFlow_dst])
  exact fun d' => put d'

/-- The descriptor of number `i` is still there with the words `ws`, and the packets `pk` have been sent. -/
structure State.SentBy (s : State) (i : Nat) (ws : List Word) (pk : List Packet) (t : State) : Prop where
  sent : s.Sent t pk
  here : ∃ z, t.inst? i = some z ∧ z.words = ws

/-- Joining a count group sends nothing; at most it marks the descriptor. -/
theorem State.joinGroup_sentBy (h : s.inst? y.id = some y) (d : Nat) : s.SentBy y.id y.words [] (s.joinGroup y d).1 := by
  have kept : s.SentBy y.id y.words [] s := ⟨.refl s, y, h, rfl⟩
  have marked : ∀ {v : State} (c : Option (Nat × Nat)), s.Sent v [] → v.insts = s.insts →
      s.SentBy y.id y.words [] (v.modInst y.id fun z => { z with cgroup := c }) := fun c sent same =>
    ⟨fun d' => sent d', _, State.inst?_modInst ((State.inst?_congr same _).trans h) fun _ => rfl, rfl⟩
  have opened : ∀ lane (c : State × Nat → Option (Nat × Nat)), s.SentBy y.id y.words []
      ((s.openGroup d lane).1.modInst y.id fun z => { z with cgroup := c (s.openGroup d lane) }) := fun lane _ =>
    marked _ (s.sent_openGroup d lane) (s.openGroup_frame d lane).2
  unfold State.joinGroup
  split
  · exact kept
  · split
    · split
      · exact kept
      · exact opened none fun r => some (d, r.2)
    · split
      · exact marked _ (.refl s) rfl
      · exact opened _ fun r => some (d, r.2)

/-- A data packet of a descriptor is added to the flow of its destination. -/
theorem State.sendFor_sentBy (h : s.inst? x.id = some y) (p : Packet) : s.SentBy x.id y.words [p] (s.sendFor x p) := by
  have hid : y.id = x.id := by simpa using List.find?_some h
  obtain ⟨sent, z, hz, words⟩ := State.joinGroup_sentBy (hid.symm ▸ h) p.dst
  unfold State.sendFor
  rw [h]
  dsimp only [Option.getD]
  generalize s.joinGroup y p.dst = g at sent hz
  obtain ⟨v, n⟩ := g
  dsimp only at sent hz ⊢
  have counted : s.SentBy x.id y.words [] (if n = 0 then v else v.modGroup p.dst n fun g => { g with count := g.count + 1 }) := by
    split
    · exact ⟨sent, z, hid ▸ hz, words⟩
    · exact ⟨fun d => sent d, z, hid ▸ hz, words⟩
  generalize (if n = 0 then v else _) = v' at counted
  obtain ⟨quiet, z', hz', words'⟩ := counted
  refine ⟨?_, z', (State.inst?_congr (v'.sendSeq_frame _ _ _).2 _).trans hz', words'⟩
  refine quiet.trans fun d => (v'.sent_sendSeq (some y.id) (queueDie y.queue) { p with group := n, job := y.job } d).trans ?_
  refine congrArg (v'.outTo d ++ ·) ?_
  by_cases hd : p.dst = d <;> simp [hd, bodyOf]

/-- Packets that all find room are all sent. -/
theorem State.sendSome_sentBy (l : List Packet) (k : Nat) (h : s.inst? x.id = some y) (all : (s.sendSome x l k).2 = k + l.length) :
    s.SentBy x.id y.words l (s.sendSome x l k).1 := by
  induction l generalizing s y k with
  | nil => exact ⟨.refl s, y, h, rfl⟩
  | cons p l ih =>
    unfold State.sendSome at all ⊢
    split
    · rename_i room
      rw [if_pos room] at all
      obtain ⟨one, z, hz, words⟩ := State.sendFor_sentBy h p
      obtain ⟨rest, here⟩ := ih (k + 1) hz (by rw [all, List.length_cons]; omega)
      exact ⟨one.trans rest, words ▸ here⟩
    · rename_i full
      rw [if_neg full, List.length_cons] at all
      omega

/-- A descriptor without a SIGNAL ends with its status and nothing else. -/
theorem State.endInst_of_no_signal (h : s.inst? x.id = some y) (off : y.sigOn = false) (st d : Nat) (k : Counters) :
    s.endInst x st d k = s.finish y st d k := by
  unfold State.endInst
  rw [h]
  exact if_pos (by simp [off])

theorem State.sent_endEngine (h : s.inst? x.id = some y) (off : y.sigOn = false) (st d : Nat) (k : Counters) (lg : Nat) :
    s.Sent (s.endEngine x st d k lg) [] := by
  unfold State.endEngine
  obtain ⟨r, c, g, e⟩ := s.noteCounts_eq x.ctx lg k
  rw [e, State.endInst_of_no_signal (s := { s with regs := r, ctxs := c, host := g }) h off]
  exact State.Sent.refl s

/-! ## SCATTER_ADD (R365, R366) -/

/-- All packets sent at once: the descriptor goes on to its end. -/
theorem State.sendRest_all {pk : List Packet} {done : State → State} (first : x.progress = 0) (all : (s.sendSome x pk 0).2 = pk.length) :
    s.sendRest x pk done = done ((s.sendSome x pk 0).1.modInst x.id fun y => { y with progress := y.progress + pk.length, blocked := false }) := by
  unfold State.sendRest
  rw [first, List.drop_zero]
  dsimp only
  rw [all, if_neg (Nat.lt_irrefl _)]

/-- A SCATTER_ADD whose windows all pass sends the contributions of all of them and ends. -/
theorem State.scatterAdd_eq {ws : List (List Req)} (h : s.lexicon x.id 2 = some x)
    (up : s.hostDown [(x.a64 7, x.idxLen), x.addData] = false) (opens : s.lexOpen x false [x.addData] = .ok ws)
    (homes : s.homesReady x (s.addHomes ws) = none) (passes : (s.runPieces x (x.addWork ws)).2.2 = none)
    (whole : (s.runPieces x (x.addWork ws)).1.length = ws.length) (noResult : bit (x.w 15) 31 = false) :
    s.scatterAdd x.id = s.sendRest x (s.addPkts x ws true) fun t =>
      t.endEngine x 0 0 (sumCnt ((s.addParts x ws).map fun p => p.2.1.cnt)) 255 := by
  unfold State.scatterAdd
  rw [h]
  dsimp only
  rw [up, if_neg (by decide), opens]
  dsimp only
  generalize s.runPieces x (x.addWork ws) = run at passes whole
  obtain ⟨good, rest, halt⟩ := run
  dsimp only at passes whole ⊢
  subst passes
  rw [whole, List.take_length, homes]
  dsimp only
  refine congrArg (s.sendRest x _) (funext fun t => ?_)
  rw [State.lexResult_none noResult]
  rfl

theorem scatterAdd_sends {ws : List (List Req)} (hx : s.inst? x.id = some x) (hl : s.lexicon x.id 2 = some x)
    (up : s.hostDown [(x.a64 7, x.idxLen), x.addData] = false) (opens : s.lexOpen x false [x.addData] = .ok ws)
    (homes : s.homesReady x (s.addHomes ws) = none) (passes : (s.runPieces x (x.addWork ws)).2.2 = none)
    (whole : (s.runPieces x (x.addWork ws)).1.length = ws.length) (first : x.progress = 0) (off : x.sigOn = false)
    (noResult : bit (x.w 15) 31 = false) (all : (s.sendSome x (s.addPkts x ws true) 0).2 = (s.addPkts x ws true).length) :
    ∃ t, exec (.scatterAdd x.id) s = .next t ∧ t.Ended x.id 0 0 ∧ s.Sent t (s.addPkts x ws true) ∧ s.StoresKept t := by
  refine ⟨_, act_of_wf (c := .scatterAdd x.id) rfl _, ?_⟩
  rw [State.scatterAdd_eq hl up opens homes passes whole noResult, State.sendRest_all first all]
  obtain ⟨sent, z, hz, words⟩ := State.sendSome_sentBy (s.addPkts x ws true) 0 hx (all.trans (Nat.zero_add _).symm)
  obtain ⟨f, i, frame⟩ := State.sendSome_eq x (s.addPkts x ws true) 0 s
  generalize (s.sendSome x (s.addPkts x ws true) 0).1 = v at sent hz frame
  have here := State.inst?_modInst hz (f := fun y => { y with progress := y.progress + (s.addPkts x ws true).length, blocked := false }) fun _ => rfl
  have quiet : z.sigOn = false := by
    unfold Inst.sigOn Inst.w at off ⊢
    rwa [words]
  generalize sumCnt ((s.addParts x ws).map fun p => p.2.1.cnt) = cnt
  refine ⟨State.ended_endEngine here 0 0 cnt 255, ?_, ?_⟩
  · have ended := State.sent_endEngine here quiet 0 0 cnt 255
    have := State.Sent.trans (u := State.endEngine _ x 0 0 cnt 255) (fun d => sent d) ended
    rwa [List.append_nil] at this
  · generalize hv : (v.modInst x.id fun y => { y with progress := y.progress + (s.addPkts x ws true).length, blocked := false }) = v'
    obtain ⟨r, c, g, f', i', e⟩ := v'.endEngine_eq x 0 0 cnt 255
    rw [e, ← hv, frame]
    exact State.storesKept_of_eq rfl rfl rfl

end Sys2Proof.Machine
end

section
/-! PROOFS, family 07_specialist_engines: the hot-row directory, and the LEXICON's operations (O44). -/
namespace Sys2Proof.Machine
variable {s t : State} {x : Inst} {ws : List (List Req)}

/-! ## HOT_LOAD (R356) -/

@[simp] theorem State.hotCount_insts (s : State) (e : Nat) : (s.hotCount e).insts = s.insts := rfl

theorem State.hotLoad1_insts (s : State) (x : Inst) (row : Nat) : (s.hotLoad1 x row).1.insts = s.insts := by
  unfold State.hotLoad1
  dsimp only
  split
  · rfl
  · split
    · rfl
    · exact State.wrPhys_insts ..

/-- Loading rows takes no descriptor. -/
theorem State.hotFill_insts (s : State) (x : Inst) (ws : List (List Req)) : (s.hotFill x ws).1.insts = s.insts := by
  unfold State.hotFill
  dsimp only
  generalize (ws.take _).flatten = l
  refine List.foldlRecOn (motive := fun q : State × Nat × Nat => q.1.insts = s.insts) l _ rfl fun q kept u _ => ?_
  split
  · exact kept
  · split
    · exact kept
    · split
      · exact kept
      · exact (State.hotLoad1_insts _ _ _).trans kept

/-- Work that meets no failure leaves the directory as it is. -/
theorem State.WorkPlain.runWork_hot {w : Work} (hm : s.memOk = true) (h : s.WorkPlain x w) : (s.runWork x w).hot = s.hot := by
  obtain ⟨c, a, k, run⟩ := h.clear.runWork
  obtain ⟨p, v, d, put⟩ := h.putWork hm
  obtain ⟨r, cs, g, f, i, ended⟩ := State.endEngine_eq { s.putWork x w with freeCtr := c, pow := a } x 0 w.detail k w.lg
  rw [run, ended, put]

theorem State.hotLoad_eq (h : s.lexicon x.id 3 = some x) (mine : s.hotMine x = true) (opens : s.lexOpen x false [] = .ok ws)
    (granted : s.workDenied x (s.hotWork x ws) = none) (up : s.workHostDown (s.hotWork x ws) = false) :
    s.hotLoad x.id = (s.hotFill x ws).1.runWork x (s.hotWork x ws) := by
  unfold State.hotLoad
  rw [h]
  dsimp only
  rw [mine, if_neg (by decide), opens]
  dsimp only
  rw [granted, up]
  rfl

theorem hotLoad_fills (hx : s.inst? x.id = some x) (hl : s.lexicon x.id 3 = some x) (mine : s.hotMine x = true)
    (opens : s.lexOpen x false [] = .ok ws) (granted : s.workDenied x (s.hotWork x ws) = none) (up : s.workHostDown (s.hotWork x ws) = false)
    (plain : (s.hotFill x ws).1.WorkPlain x (s.hotWork x ws)) (hm : (s.hotFill x ws).1.memOk = true) :
    ∃ t, exec (.hotLoad x.id) s = .next t ∧ (s.hotFill x ws).1.Wrote t x (s.hotWork x ws) ∧ t.hot = (s.hotFill x ws).1.hot := by
  refine ⟨_, act_of_wf (c := .hotLoad x.id) rfl _, ?_⟩
  rw [State.hotLoad_eq hl mine opens granted up]
  exact ⟨(plain.wrote hm ((State.inst?_congr (s.hotFill_insts x ws) _).trans hx)).1, plain.runWork_hot hm⟩

/-! ## HOT_INVALIDATE (R358) -/

/-- Work that reads and writes nothing. -/
def Work.nothing : Work := ⟨[], [], Chunk.empty, 255, 0, 0⟩

/-- Such work only ends its descriptor and stamps its unit. -/
theorem State.runWork_nothing (s : State) (x : Inst) : s.runWork x Work.nothing = (s.touch (queueUnit x.queue)).endEngine x 0 0 {} 255 := by
  have up : s.workHostDown Work.nothing = false := by simp [State.workHostDown, Work.nothing, Chunk.empty]
  have granted : s.workDenied x Work.nothing = none := by simp [State.workDenied, Work.nothing, Chunk.empty]
  have run : s.runPieces x Work.nothing = ([], [], none) := by
    unfold State.runPieces
    rw [granted]
    rfl
  have kept : keptOuts [] [] [Chunk.empty] false = ([], []) := rfl
  have quiet : s.remotePkts x 0 [] [] [] = [] := rfl
  have part : s.partWork x Work.nothing = .ok ⟨s.touch (queueUnit x.queue), none, [], {}⟩ := by
    unfold State.partWork
    rw [show s.workShut x Work.nothing = none from rfl]
    dsimp only
    rw [up, run]
    simp only [Option.isNone_none, Option.isSome_none, if_true, show Work.nothing.fin = Chunk.empty from rfl, kept]
    rw [show Work.nothing.tc = 0 from rfl, show keptCars [] [] false = [] from rfl, quiet, List.drop_nil]
    rfl
  unfold State.runWork
  rw [part]
  rfl

theorem State.noteCounts_none (s : State) (n lg : Nat) : ∃ c, s.noteCounts n lg {} = { s with ctxs := c } := ⟨_, rfl⟩

/-- It leaves registers, stores and the directory as they are. -/
theorem State.runWork_nothing_frame (hx : s.inst? x.id = some x) : (s.runWork x Work.nothing).Ended x.id 0 0 ∧
    s.StoresKept (s.runWork x Work.nothing) ∧ (s.runWork x Work.nothing).hot = s.hot ∧ (s.runWork x Work.nothing).regs = s.regs := by
  rw [State.runWork_nothing]
  refine ⟨State.ended_endEngine (t := s.touch (queueUnit x.queue)) hx 0 0 {} 255, ?_⟩
  unfold State.endEngine
  obtain ⟨c, noted⟩ := (s.touch (queueUnit x.queue)).noteCounts_none x.ctx 255
  rw [noted]
  obtain ⟨f, i, ended⟩ := State.endInst_eq { s.touch (queueUnit x.queue) with ctxs := c } x 0 0 {}
  rw [ended]
  exact ⟨State.storesKept_of_eq rfl rfl rfl, rfl, rfl⟩

/-- The directory of an engine without the entries of a table, or of all tables. -/
def State.hotDropped (s : State) (x : Inst) : State :=
  let u := State.hotCount { s with hot := s.hot.filter fun h => !(h.1 == x.lexEngine && (bit (x.w 6) 16 || h.2.slot == x.lexTable)) } x.lexEngine
  if bit (x.w 6) 16 then u.setF (lexOff x.lexEngine 12) 0 24 0 else u

theorem State.hotDropped_eq (s : State) (x : Inst) : ∃ r, s.hotDropped x = { s with
    regs := r, hot := s.hot.filter fun h => !(h.1 == x.lexEngine && (bit (x.w 6) 16 || h.2.slot == x.lexTable)) } := by
  unfold State.hotDropped
  dsimp only
  split
  · exact ⟨_, rfl⟩
  · exact ⟨_, rfl⟩

theorem State.hotDropped_all (all : bit (x.w 6) 16 = true) : (s.hotDropped x).rf (lexOff x.lexEngine 12) 0 24 = 0 := by
  unfold State.hotDropped
  rw [if_pos all]
  exact State.rf_setF_same _ (by decide)

theorem State.hotInvalidate_eq (h : s.lexicon x.id 4 = some x) (mine : s.hotMine x = true) (noResult : bit (x.w 15) 31 = false) :
    s.hotInvalidate x.id = (s.hotDropped x).runWork x Work.nothing := by
  unfold State.hotInvalidate
  rw [h]
  dsimp only
  rw [mine, if_neg (by decide)]
  unfold State.invalWork
  simp only [State.lexResult_none noResult]
  rfl

theorem hotInvalidate_empties (hx : s.inst? x.id = some x) (hl : s.lexicon x.id 4 = some x) (mine : s.hotMine x = true)
    (noResult : bit (x.w 15) 31 = false) : ∃ t, exec (.hotInvalidate x.id) s = .next t ∧ t.Ended x.id 0 0 ∧ s.StoresKept t ∧
      t.hot = s.hot.filter (fun h => !(h.1 == x.lexEngine && (bit (x.w 6) 16 || h.2.slot == x.lexTable))) ∧
      (bit (x.w 6) 16 = true → t.rf (lexOff x.lexEngine 12) 0 24 = 0) := by
  refine ⟨_, act_of_wf (c := .hotInvalidate x.id) rfl _, ?_⟩
  rw [State.hotInvalidate_eq hl mine noResult]
  have count := State.hotDropped_all (s := s) (x := x)
  obtain ⟨r, dropped⟩ := s.hotDropped_eq x
  have here : (s.hotDropped x).inst? x.id = some x := by rw [dropped]; exact hx
  obtain ⟨ended, stores, hot, regs⟩ := State.runWork_nothing_frame here
  refine ⟨ended, ?_, ?_, fun all => (State.rf_congr regs _ _ _).trans (count all)⟩
  · rw [dropped] at stores
    rw [dropped]
    exact stores
  · rw [hot, dropped]

/-- Settles O44: GATHER, SCATTER and HOT_LOAD run their work, whose outputs `WorkPlain.wrote` puts in memory in order; a row asked for stands
because no later output meets it. SCATTER_ADD sends its packets one by one, HOT_INVALIDATE drops entries and ends. -/
theorem lexiconOperations : Obligations.LexiconOperations := by
  unfold Obligations.LexiconOperations
  intro s x ws hm hx hp ho ht
  have taken : ∀ {op}, x.lexOp = op → s.lexicon x.id op = some x := fun hop => State.lexicon_eq hx hp ho ht hop
  refine ⟨?gather, ?scatter, ?scatterAdd, ?hotLoad, ?hotInvalidate⟩
  case gather => exact fun hop => gather_writes hm hx (taken hop)
  case scatter => exact fun hop => scatter_writes hm hx (taken hop)
  case scatterAdd => exact fun hop => scatterAdd_sends hx (taken hop)
  case hotLoad => exact fun hop => hotLoad_fills hx (taken hop)
  case hotInvalidate => exact fun hop => hotInvalidate_empties hx (taken hop)

end Sys2Proof.Machine
end

section
/-! PROOFS, family 09_streams_and_synchronisation: what a change of a semaphore leaves, one rule per operation. -/
namespace Sys2Proof.Machine
variable {s t : State} {u i j c r : Nat}

/-! ## Offsets of semaphores, owners and rings (R459, R479) -/

/-- Registers of rings and values of semaphores stand apart, whatever the units. -/
theorem ringOff_ne_semOff {rel : Nat} (hr : r < 64) (hrel : rel < 64) (hi : i < 8192) : ringOff c r rel ≠ semOff u i := by
  unfold ringOff semOff clusterOff dieOff
  split <;> omega

@[simp] theorem ringOff_inj {a b : Nat} : ringOff c r a = ringOff c r b ↔ a = b := by
  unfold ringOff clusterOff
  omega

@[simp] theorem semOff_inj : semOff u i = semOff u j ↔ i = j := by
  unfold semOff clusterOff dieOff
  split <;> omega

theorem semCount_le (u : Nat) : semCount u ≤ 8192 := by
  unfold semCount
  split <;> omega

/-- Semaphores that exist have a register each. -/
theorem semOff_ne {u' : Nat} (hu : u < 36) (hu' : u' < 36) (hi : i < semCount u) (hj : j < semCount u') (h : (u', j) ≠ (u, i)) :
    semOff u' j ≠ semOff u i := by
  intro e
  refine h (Prod.ext_iff.2 ?_)
  unfold semCount at hi hj
  unfold semOff clusterOff dieOff at e
  dsimp only
  split at e <;> split at e <;> simp only [*, if_true, if_false] at hi hj <;> omega

/-- Of the values, a change of a semaphore reaches its own only. -/
theorem semOff_not_mem_semTouch {u' : Nat} (hj : j < 8192) (h : semOff u' j ≠ semOff u i) : semOff u' j ∉ semTouch u i := by
  intro hm
  rcases List.mem_cons.1 hm with e | hm
  · exact h e
  · obtain ⟨r, hr, ho⟩ := List.mem_flatMap.1 hm
    rw [List.mem_range] at hr
    simp only [List.mem_cons, List.not_mem_nil, or_false] at ho
    rcases ho with e | e | e <;> exact ringOff_ne_semOff hr (by omega) hj e.symm

/-! ## The ring that a semaphore serves (R479, R481) -/

/-- A ring is told by its eight registers. -/
theorem State.ring_congr (h : ∀ rel ≤ 28, t.reg (ringOff c r rel) = s.reg (ringOff c r rel)) : t.ring c r = s.ring c r := by
  unfold State.ring State.rf
  rw [h 0 (by omega), h 4 (by omega), h 8 (by omega), h 12 (by omega), h 16 (by omega), h 20 (by omega), h 24 (by omega), h 28 (by omega)]

theorem State.ringOf_setSem (v : Word) (hi : i < 8192) (j : Nat) : (s.setReg (semOff u i) v).ringOf c j = s.ringOf c j :=
  State.ringOf_congr j fun _ _ hr => State.ring_congr fun _ hrel =>
    s.regsKept_setReg _ v _ (by simpa using ringOff_ne_semOff hr (by omega) hi)

/-- Rings that agree in ENABLE, FULL and EMPTY serve a semaphore as the same side. -/
theorem State.ringOf_side_congr (i : Nat) (h : ∀ r < 64, (t.ring u r).enabled = (s.ring u r).enabled ∧ (t.ring u r).full = (s.ring u r).full ∧
    (t.ring u r).empty = (s.ring u r).empty) : (t.ringOf u i).map Prod.snd = (s.ringOf u i).map Prod.snd := by
  unfold State.ringOf
  split
  · have h : ∀ r ∈ List.range 64, _ := fun r hr => h r (List.mem_range.1 hr)
    generalize List.range 64 = l at h ⊢
    induction l with
    | nil => rfl
    | cons r l ih =>
      obtain ⟨enabled, full, empty⟩ := h r List.mem_cons_self
      have rest := ih fun r hr => h r (List.mem_cons_of_mem _ hr)
      rw [List.map_cons, List.map_cons, List.filter_cons, List.filter_cons, enabled]
      split
      · rw [List.findSome?_cons, List.findSome?_cons, full, empty]
        by_cases hf : (s.ring u r).full = i
        · simp [hf]
        · by_cases he : (s.ring u r).empty = i
          · simp [hf, he]
          · simpa [hf, he] using rest
      · exact rest
  · rfl

/-- The seal that a change of EMPTY may lift (R483). -/
def State.liftOf (s : State) : Option (Ring × Bool) → State
  | some (g, false) => s.liftSeal g
  | _ => s

/-! ## A semaphore takes a value (R475, R483, R503) -/

/-- A change of a value: the register, the wake wire of its bank, Run-On counts, and the seal of the ring whose EMPTY it is. -/
theorem State.semPut_change {v : Nat} (hi : i < 8192) (h : s.semVal u i ≠ v) : ∃ w c, w.contains (u, i / 64) = true ∧
    s.semPut u i v = (State.setReg { s with wakes := w, ctxs := c } (semOff u i) (BitVec.ofNat 32 v)).liftOf (s.ringOf u i) := by
  have fired : (if s.wakes.contains (u, i / 64) then s.wakes else s.wakes ++ [(u, i / 64)]).contains (u, i / 64) = true := by
    split
    · assumption
    · simp
  have rings := s.ringOf_setSem (u := u) (c := u) (BitVec.ofNat 32 v) hi i
  unfold State.semPut
  rw [if_neg h]
  dsimp only
  generalize hq : ({ s.setReg (semOff u i) (BitVec.ofNat 32 v) with wakes := _ } : State) = q
  obtain ⟨c, ec⟩ := q.restartRunOn_eq (q.reg (ownerOff u (i / 64)))
  refine ⟨_, c, fired, ?_⟩
  have same : (q.restartRunOn (q.reg (ownerOff u (i / 64)))).ringOf u i = s.ringOf u i := by
    rw [ec, ← hq]
    exact rings
  rw [same, ec, ← hq]
  rcases s.ringOf u i with _ | ⟨g, _ | _⟩ <;> rfl

/-- The check of a seal changes no value and no wake wire. -/
theorem State.liftOf_frame (s t : State) (u j c : Nat) (hi : i < 8192) :
    (s.liftOf (t.ringOf u j)).semVal c i = s.semVal c i ∧ (s.liftOf (t.ringOf u j)).wakes = s.wakes := by
  unfold State.liftOf
  split
  · rename_i g hg
    obtain ⟨r, hr, rfl⟩ := t.ringOf_unit hg
    obtain ⟨regs, -⟩ := s.liftSeal_frame (t.ring u r)
    obtain ⟨k, l, h, e⟩ := s.liftSeal_eq (t.ring u r)
    have apart : ∀ rel < 64, semOff c i ≠ ringOff u r rel := fun rel h => (ringOff_ne_semOff hr h hi).symm
    refine ⟨congrArg BitVec.toNat (regs _ ?_), by rw [e]⟩
    simp only [List.mem_cons, List.not_mem_nil, or_false, not_or]
    exact ⟨apart 20 (by omega), apart 24 (by omega), apart 28 (by omega)⟩
  · exact ⟨rfl, rfl⟩

/-- The value just put is read back. -/
theorem State.semVal_semPut {v : Nat} (hi : i < 8192) (hv : v < 2 ^ 32) : (s.semPut u i v).semVal u i = v := by
  by_cases h : s.semVal u i = v
  · rw [State.semPut_self s h, h]
  · obtain ⟨w, c, -, e⟩ := State.semPut_change hi h
    rw [e, (State.liftOf_frame _ s u i u hi).1, State.semVal, State.reg_setReg_same, BitVec.toNat_ofNat, Nat.mod_eq_of_lt hv]

/-- Another semaphore keeps its value. -/
theorem State.semVal_semPut_of_ne {u' : Nat} (v : Nat) (hj : j < 8192) (h : semOff u' j ≠ semOff u i) :
    (s.semPut u i v).semVal u' j = s.semVal u' j :=
  congrArg BitVec.toNat ((s.semPut_frame u i v).1 _ (semOff_not_mem_semTouch hj h))

/-- A change fires the wake wire of its bank (R475). -/
theorem State.wakes_semPut {v : Nat} (hi : i < 8192) (h : s.semVal u i ≠ v) : (s.semPut u i v).wakes.contains (u, i / 64) = true := by
  obtain ⟨w, c, fired, e⟩ := State.semPut_change hi h
  rw [e, (State.liftOf_frame _ s u i u hi).2]
  exact fired

/-- A semaphore that is no ring's EMPTY changes no register but its own. -/
theorem State.regsKept_semPut_of_full (v : Nat) (hi : i < 8192) (h : ∀ g, s.ringOf u i ≠ some (g, false)) :
    s.RegsKept (s.semPut u i v) [semOff u i] := by
  by_cases hv : s.semVal u i = v
  · rw [State.semPut_self s hv]
    exact .refl s _
  · obtain ⟨w, c, -, e⟩ := State.semPut_change hi hv
    rw [e]
    unfold State.liftOf
    split
    · exact absurd ‹_› (h _)
    · exact ((State.RegsKept.refl s _).congr rfl).setReg (List.mem_cons_self ..) _

/-- ADD saturates (R463). -/
theorem State.semVal_semAdd (n : Nat) (hi : i < 8192) : (s.semAdd u i n).semVal u i = min (s.semVal u i + n) (2 ^ 32 - 1) := by
  have put : (s.semPut u i (min (s.semVal u i + n) semMax)).semVal u i = min (s.semVal u i + n) semMax :=
    State.semVal_semPut hi ((Nat.min_le_right ..).trans_lt (by decide))
  unfold State.semAdd
  dsimp only
  split
  · exact (congrArg BitVec.toNat (State.reg_congr (State.logEv_regs ..) _)).trans put
  · exact put

/-! ## What operations on semaphores leave as it was -/

/-- Beside the registers listed only wake wires, Run-On counts, the log and interrupts may differ. -/
structure State.SyncOnly (offs : List Nat) (s t : State) : Prop where
  regs : s.RegsKept t offs
  insts : t.insts = s.insts
  fab : t.fab = s.fab
  mem : t.mem = s.mem
  diacs : t.diacs = s.diacs
  poison : t.poison = s.poison

section
variable {offs : List Nat}

theorem State.SyncOnly.refl (offs : List Nat) (s : State) : State.SyncOnly offs s s := ⟨.refl s _, rfl, rfl, rfl, rfl, rfl⟩

theorem State.SyncOnly.stores (h : State.SyncOnly offs s t) : s.StoresKept t := State.storesKept_of_eq h.mem h.diacs h.poison

theorem State.SyncOnly.inst? (h : State.SyncOnly offs s t) (i : Nat) : t.inst? i = s.inst? i := State.inst?_congr h.insts i

theorem State.SyncOnly.setReg (h : State.SyncOnly offs s t) {off : Nat} (ho : off ∈ offs) (v : Word) : State.SyncOnly offs s (t.setReg off v) :=
  ⟨h.regs.setReg ho v, h.insts, h.fab, h.mem, h.diacs, h.poison⟩

theorem State.SyncOnly.setF (h : State.SyncOnly offs s t) {off : Nat} (ho : off ∈ offs) (lo w x : Nat) : State.SyncOnly offs s (t.setF off lo w x) :=
  h.setReg ho _

theorem State.SyncOnly.logEv (h : State.SyncOnly offs s t) (type job : Nat) (ws : List Nat) : State.SyncOnly offs s (t.logEv type job ws) := by
  obtain ⟨l, r, k, e⟩ := t.logEv_eq type job ws
  rw [e]
  exact ⟨h.regs.congr rfl, h.insts, h.fab, h.mem, h.diacs, h.poison⟩

theorem State.SyncOnly.setWakes (h : State.SyncOnly offs s t) (w : List (Nat × Nat)) : State.SyncOnly offs s { t with wakes := w } :=
  ⟨h.regs.congr rfl, h.insts, h.fab, h.mem, h.diacs, h.poison⟩

theorem State.SyncOnly.liftSeal (h : State.SyncOnly offs s t) {g : Ring} (ho : [ringOff g.c g.r 20, ringOff g.c g.r 24, ringOff g.c g.r 28] ⊆ offs) :
    State.SyncOnly offs s (t.liftSeal g) := by
  obtain ⟨r, l, k, e⟩ := t.liftSeal_eq g
  refine ⟨(h.regs.trans ((t.liftSeal_frame g).1.mono ho)).mono (by simp), ?_, ?_, ?_, ?_, ?_⟩ <;> rw [e]
  exacts [h.insts, h.fab, h.mem, h.diacs, h.poison]

theorem State.SyncOnly.semPut (h : State.SyncOnly offs s t) (ho : semTouch u i ⊆ offs) (v : Nat) : State.SyncOnly offs s (t.semPut u i v) := by
  obtain ⟨r, w, c, l, k, e⟩ := t.semPut_eq u i v
  refine ⟨(h.regs.trans ((t.semPut_frame u i v).1.mono ho)).mono (by simp), ?_, ?_, ?_, ?_, ?_⟩ <;> rw [e]
  exacts [h.insts, h.fab, h.mem, h.diacs, h.poison]

theorem State.SyncOnly.semAdd (h : State.SyncOnly offs s t) (ho : semTouch u i ⊆ offs) (n : Nat) : State.SyncOnly offs s (t.semAdd u i n) := by
  have put := h.semPut ho (min (t.semVal u i + n) semMax)
  unfold State.semAdd
  dsimp only
  split
  · exact put.logEv _ _ _
  · exact put

end

end Sys2Proof.Machine
end

section
/-! PROOFS, family 09_streams_and_synchronisation: SEM descriptors (O13, O14). -/
namespace Sys2Proof.Machine
variable {s t : State} {i u k st : Nat} {x : Inst} {offs : List Nat}

/-! ## A SEM descriptor performs its operation and ends -/

theorem State.inst?_of_semOf {sop : Nat} (h : s.semOf i sop = some x) : s.inst? i = some x ∧ x.id = i := by
  have hx := State.inst?_of_started (Option.filter_eq_some_iff.1 h).1
  exact ⟨hx, by simpa using List.find?_some hx⟩

theorem State.semHere_owned (h : s.semOwned x.semUnit x.semIndex x.job = true) (go : State → State) : s.semHere x go = go s :=
  if_neg (by simp [h])

theorem State.regs_endInst (s : State) (x : Inst) (st d : Nat) (c : Counters) : (s.endInst x st d c).regs = s.regs := by
  obtain ⟨f, l, e⟩ := s.endInst_eq x st d c
  rw [e]

theorem State.semVal_congr (h : t.regs = s.regs) (u k : Nat) : t.semVal u k = s.semVal u k := congrArg BitVec.toNat (State.reg_congr h _)

/-- A descriptor whose operation changed what an operation on semaphores may, and which then ends. -/
theorem State.SyncOnly.ends (h : State.SyncOnly offs s t) (hx : s.inst? x.id = some x) (st : Nat) :
    (t.endInst x st 0 {}).Ended x.id st 0 ∧ s.RegsKept (t.endInst x st 0 {}) offs ∧ s.StoresKept (t.endInst x st 0 {}) := by
  refine ⟨State.ended_endInst _ ((h.inst? x.id).trans hx) st 0 {}, h.regs.congr (t.regs_endInst x st 0 {}), h.stores.trans ?_⟩
  obtain ⟨f, l, e⟩ := t.endInst_eq x st 0 {}
  rw [e]
  exact State.storesKept_of_eq rfl rfl rfl

/-- The same for a command that leaves the value `v` in its semaphore. -/
theorem State.SyncOnly.performs {c : Instr} {v : Nat} (h : State.SyncOnly (semTouch u k) s t) (hx : s.inst? x.id = some x)
    (run : exec c s = .next (t.endInst x st 0 {})) (val : t.semVal u k = v) :
    ∃ t, exec c s = .next t ∧ t.semVal u k = v ∧ t.Ended x.id st 0 ∧ s.RegsKept t (semTouch u k) ∧ s.StoresKept t :=
  ⟨_, run, (State.semVal_congr (t.regs_endInst x st 0 {}) u k).trans val, h.ends hx st⟩

/-! ## ADD, SUB and SET (R462, R463) -/

section
variable (owned : s.semOwned x.semUnit x.semIndex x.job = true)
include owned

theorem State.doSemAdd_local (h : s.semOf i 0 = some x) (here : x.semLocal s = true) :
    s.doSemAdd i = (s.semAdd x.semUnit x.semIndex (x.w 9)).endInst x 0 0 {} := by
  unfold State.doSemAdd
  rw [h]
  exact (if_pos here).trans (State.semHere_owned owned _)

theorem State.doSemSub_local (h : s.semOf i 1 = some x) (here : x.semLocal s = true)
    (free : s.ringForbids x.semUnit x.semIndex x.port false = false) : s.doSemSub i =
      (s.semPut x.semUnit x.semIndex (s.semVal x.semUnit x.semIndex - x.w 9)).endInst x
        (if s.semVal x.semUnit x.semIndex < x.w 9 then 0xB else 0) 0 {} := by
  unfold State.doSemSub
  rw [h]
  refine (if_pos here).trans ((State.semHere_owned owned _).trans ((if_neg (by simp [free])).trans ?_))
  simp only [State.semSub, decide_eq_true_eq]

theorem State.doSemSet_local (h : s.semOf i 4 = some x) (here : x.semLocal s = true) :
    s.doSemSet i = (s.semPut x.semUnit x.semIndex (x.w 9)).endInst x 0 0 {} := by
  unfold State.doSemSet
  rw [h]
  exact (if_pos here).trans (State.semHere_owned owned _)

end

/-- Settles O13: each operation puts one value into its semaphore, and the descriptor ends. -/
theorem semaphoreArithmeticOfDescriptors : Obligations.SemaphoreArithmeticOfDescriptors := by
  unfold Obligations.SemaphoreArithmeticOfDescriptors
  intro i s x here owned u k v n
  have hk : k < 8192 := bits_lt ..
  have hv : v < 2 ^ 32 := BitVec.isLt _
  have hn : n < 2 ^ 32 := BitVec.isLt _
  have none_changed := State.SyncOnly.refl (semTouch u k) s
  refine ⟨fun h => ?add, fun h free => ?sub, fun h => ?set⟩ <;> obtain ⟨hx, rfl⟩ := State.inst?_of_semOf h
  case add =>
    exact (none_changed.semAdd (List.Subset.refl _) n).performs hx
      ((act_of_wf (c := .semAdd x.id) rfl _).trans (by rw [State.doSemAdd_local owned h here])) (State.semVal_semAdd n hk)
  case sub =>
    exact (none_changed.semPut (List.Subset.refl _) (v - n)).performs hx
      ((act_of_wf (c := .semSub x.id) rfl _).trans (by rw [State.doSemSub_local owned h here free])) (State.semVal_semPut hk (by omega))
  case set =>
    exact (none_changed.semPut (List.Subset.refl _) n).performs hx
      ((act_of_wf (c := .semSet x.id) rfl _).trans (by rw [State.doSemSet_local owned h here])) (State.semVal_semPut hk hn)

/-! ## WAIT_GE and ACQUIRE (R462, R471, R481) -/

/-- A SEM that sleeps on its semaphore. -/
def Inst.asleepOn (x : Inst) (s : State) (w : Wait) : Inst := { x with phase := .waiting, wait := some w, sleepAt := s.clock.now, lends := false }

section
variable {acquire : Bool} (owned : s.semOwned x.semUnit x.semIndex x.job = true)
  (free : acquire = true → s.ringForbids x.semUnit x.semIndex x.port true = false)
include owned free

theorem State.doSemWait_met (h : s.tryWait ⟨x.semUnit, x.semIndex, x.w 9, acquire⟩ = some t) : s.doSemWait x acquire = t.endInst x 0 0 {} := by
  unfold State.doSemWait
  refine (State.semHere_owned owned _).trans ((if_neg (by simpa using free)).trans ?_)
  rw [h]

theorem State.doSemWait_sleeps (h : s.semVal x.semUnit x.semIndex < x.w 9) :
    s.doSemWait x acquire = s.setInst (x.asleepOn s ⟨x.semUnit, x.semIndex, x.w 9, acquire⟩) := by
  unfold State.doSemWait
  refine (State.semHere_owned owned _).trans ((if_neg (by simpa using free)).trans ?_)
  rw [State.tryWait_short h]
  rfl

end

theorem State.inst?_asleepOn {w : Wait} (hx : s.inst? x.id = some x) : (s.setInst (x.asleepOn s w)).inst? x.id = some (x.asleepOn s w) :=
  (s.inst?_setInst _ _).trans ((if_pos rfl).trans (by rw [hx]; rfl))

/-- The consumer's ACQUIRE on FULL of its ring moves HEAD and subtracts (R481). -/
theorem State.tryWait_head {w : Wait} {g : Ring} (h : w.n ≤ s.semVal w.unit w.index) (ha : w.acquire = true)
    (hr : s.ringOf w.unit w.index = some (g, true)) : s.tryWait w = some ((s.setReg (ringOff g.c g.r 20)
      (BitVec.ofNat 32 (g.head + w.n))).semPut w.unit w.index (s.semVal w.unit w.index - w.n)) := by
  unfold State.tryWait
  rw [if_neg (by omega), if_neg (by simp [ha]), hr]

/-- HEAD of a ring does not tell which semaphores it serves. -/
theorem State.ringOf_setHead {g : Ring} (v : Word) (i : Nat) (hg : s.ringOf u i = some (g, true)) (g' : Ring) :
    (s.setReg (ringOff g.c g.r 20) v).ringOf u i ≠ some (g', false) := by
  obtain ⟨q, hq, rfl⟩ := s.ringOf_unit hg
  have side : ((s.setReg (ringOff u q 20) v).ringOf u i).map Prod.snd = (s.ringOf u i).map Prod.snd := by
    refine State.ringOf_side_congr i fun r hr => ?_
    have kept : ∀ rel, rel < 20 → ∀ lo w, (s.setReg (ringOff u q 20) v).rf (ringOff u r rel) lo w = s.rf (ringOff u r rel) lo w :=
      fun rel hrel lo w => State.rf_setReg_of_ne s (by unfold ringOff clusterOff; omega) v lo w
    exact ⟨congrArg (· == 1) (kept 16 (by omega) 0 1), kept 8 (by omega) 0 12, kept 8 (by omega) 12 12⟩
  intro e
  have e : (s.setReg (ringOff u q 20) v).ringOf u i = some (g', false) := e
  rw [hg, e] at side
  cases side

/-- What the consumer's ACQUIRE on FULL leaves: the value, HEAD, and no other register. -/
theorem State.acquireFull_frame {g : Ring} {n : Nat} (hk : k < 8192) (hg : s.ringOf u k = some (g, true)) :
    let t := (s.setReg (ringOff g.c g.r 20) (BitVec.ofNat 32 (g.head + n))).semPut u k (s.semVal u k - n)
    State.SyncOnly (semTouch u k) s t ∧ t.semVal u k = s.semVal u k - n ∧ (t.reg (ringOff g.c g.r 20)).toNat = (g.head + n) % 2 ^ 32 := by
  have serves := s.ringOf_setHead (BitVec.ofNat 32 (g.head + n)) k hg
  obtain ⟨r, hr, rfl⟩ := s.ringOf_unit hg
  have small : s.semVal u k < 2 ^ 32 := BitVec.isLt _
  have head : ringOff u r 20 ∈ semTouch u k := ringOff_mem_semTouch hr List.mem_cons_self
  refine ⟨((State.SyncOnly.refl _ s).setReg head _).semPut (List.Subset.refl _) _, State.semVal_semPut hk (by omega), ?_⟩
  have kept := State.regsKept_semPut_of_full (s.semVal u k - n) hk serves (ringOff u r 20)
    (by simpa using ringOff_ne_semOff hr (by omega) hk)
  exact (congrArg BitVec.toNat (kept.trans (s.reg_setReg_same ..))).trans (BitVec.toNat_ofNat ..)

/-- Settles O14: a wait that is met ends the descriptor in the state that `tryWait` gives, one that is not puts it to sleep. -/
theorem semaphoreWaitsOfDescriptors : Obligations.SemaphoreWaitsOfDescriptors := by
  unfold Obligations.SemaphoreWaitsOfDescriptors
  intro i s x owned u k v n
  have hk : k < 8192 := bits_lt ..
  have small : v < 2 ^ 32 := BitVec.isLt _
  have waitRun : ∀ i, s.semOf i 2 = some x → exec (.semWaitGe i) s = .next (s.doSemWait x false) := fun i h =>
    (act_of_wf (c := .semWaitGe i) rfl _).trans (by unfold State.doSemWaitGe; rw [h])
  have acquireRun : ∀ i, s.semOf i 3 = some x → exec (.semAcquire i) s = .next (s.doSemWait x true) := fun i h =>
    (act_of_wf (c := .semAcquire i) rfl _).trans (by unfold State.doSemAcquire; rw [h])
  refine ⟨fun h met => ?waits, fun h short => ?waitSleeps, fun h noRing met => ?acquires, fun g h ring port met => ?movesHead,
    fun h free short => ?acquireSleeps⟩ <;> obtain ⟨hx, rfl⟩ := State.inst?_of_semOf h
  case waits =>
    refine ⟨_, waitRun _ h, ?_⟩
    rw [State.doSemWait_met (acquire := false) owned nofun (State.tryWait_met met rfl)]
    obtain ⟨ended, -, stores⟩ := (State.SyncOnly.refl [] s).ends hx 0
    exact ⟨ended, s.regs_endInst x 0 0 {}, stores⟩
  case waitSleeps =>
    refine ⟨_, x.asleepOn s ⟨u, k, n, false⟩, waitRun _ h, ?_⟩
    rw [State.doSemWait_sleeps (acquire := false) owned nofun short]
    exact ⟨State.inst?_asleepOn hx, rfl, rfl, rfl⟩
  case acquires =>
    have free : s.ringForbids u k x.port true = false := by simp [State.ringForbids, noRing]
    obtain ⟨t, run, val, ended, kept⟩ := ((State.SyncOnly.refl (semTouch u k) s).semPut (List.Subset.refl _) (v - n)).performs hx
      ((acquireRun _ h).trans (by rw [State.doSemWait_met owned (fun _ => free) (State.tryWait_acquired met rfl noRing)]))
      (State.semVal_semPut hk (by omega))
    exact ⟨t, run, ended, val, kept⟩
  case movesHead =>
    have free : s.ringForbids u k x.port true = false := by simp [State.ringForbids, ring, port]
    obtain ⟨only, val, head⟩ := State.acquireFull_frame (n := n) hk ring
    refine ⟨_, acquireRun _ h, ?_⟩
    rw [State.doSemWait_met owned (fun _ => free) (State.tryWait_head met rfl ring)]
    obtain ⟨ended, kept⟩ := only.ends hx 0
    have regs := State.regs_endInst ((s.setReg (ringOff g.c g.r 20) (BitVec.ofNat 32 (g.head + n))).semPut u k (v - n)) x 0 0 {}
    exact ⟨ended, (State.semVal_congr regs u k).trans val, (congrArg BitVec.toNat (State.reg_congr regs _)).trans head, kept⟩
  case acquireSleeps =>
    refine ⟨_, x.asleepOn s ⟨u, k, n, true⟩, acquireRun _ h, ?_⟩
    rw [State.doSemWait_sleeps owned (fun _ => free) short]
    exact ⟨State.inst?_asleepOn hx, rfl, rfl⟩

end Sys2Proof.Machine
end

section
/-! PROOFS, family 09_streams_and_synchronisation: READ and RSEAL (O15). -/
namespace Sys2Proof.Machine
variable {s t : State} {i c r : Nat} {x : Inst}

/-! ## READ (R466) -/

/-- An aligned word lies in one granule. -/
theorem granPieces_word {a : Nat} (h : a % 4 = 0) : granPieces a 4 = [(a, 4)] := by
  unfold granPieces
  rw [if_neg (by decide), show (a + 4 - 1) / 1024 + 1 - a / 1024 = 1 by omega]
  simp only [upto, List.range_one, List.map_cons, List.map_nil, Nat.add_zero, List.cons.injEq, Prod.mk.injEq, and_true]
  constructor <;> omega

theorem State.place_of_mapped {a n : Nat} (h : s.mapped a n = true) : s.place a ≠ .none := by
  intro e
  simp [State.mapped, e] at h

/-- What a descriptor may access on this device is mapped. -/
theorem State.place_of_mayAcc {b a n : Nat} (h : s.mayAcc x b a n = true) (own : s.isOwn a = true) (hn : n ≠ 0) : s.place (locOf a) ≠ .none := by
  simp only [State.mayAcc, State.mayAccess, own, if_true, Bool.or_eq_true, Bool.and_eq_true, beq_iff_eq, hn, false_or] at h
  exact State.place_of_mapped h.1.1

theorem State.doSemRead_local (h : s.semOf i 5 = some x) (here : x.semLocal s = true) (owned : s.semOwned x.semUnit x.semIndex x.job = true)
    (wanted : x.a64 10 ≠ 0) (granted : s.mayAcc x 1 (x.a64 10) 4 = true) (up : isHost (locOf (x.a64 10)) = true → s.hostUp = true) :
    s.doSemRead i = (s.putOut x ⟨x.a64 10, leBytes 4 (s.semVal x.semUnit x.semIndex), 0⟩).endInst x 0 0 {} := by
  unfold State.doSemRead
  rw [h]
  dsimp only
  rw [if_neg (by simp [granted]), if_neg (by rintro ⟨-, host, down⟩; simp [up host] at down), if_pos here, State.semHere_owned owned, if_neg wanted]

/-- A READ whose result address is a word of this device's memory writes the value there, and nothing else. -/
theorem semRead_stores (hm : s.memOk = true) (h : s.semOf x.id 5 = some x) (hx : s.inst? x.id = some x) (here : x.semLocal s = true)
    (owned : s.semOwned x.semUnit x.semIndex x.job = true) (wanted : x.a64 10 ≠ 0) (aligned : locOf (x.a64 10) % 4 = 0)
    (own : s.isOwn (x.a64 10) = true) (granted : s.mayAcc x 1 (x.a64 10) 4 = true) (above : 0x4000000 ≤ locOf (x.a64 10))
    (up : isHost (locOf (x.a64 10)) = true → s.hostUp = true) (plain : s.regionAt x.ctx (locOf (x.a64 10)) = none) :
    ∃ t, exec (.semRead x.id) s = .next t ∧ t.Ended x.id 0 0 ∧
      memRead t.mem (locOf (x.a64 10)) 4 = leBytes 4 (s.semVal x.semUnit x.semIndex) ∧ s.BytesKept t [(locOf (x.a64 10), 4)] := by
  have wf := ((State.memOk_iff s).1 hm).1
  generalize hb : leBytes 4 (s.semVal x.semUnit x.semIndex) = bs
  have len : bs.length = 4 := by rw [← hb, leBytes_length]
  have direct : s.Direct x.ctx (locOf (x.a64 10)) bs.length := by
    refine ⟨above, fun p hp => ?_⟩
    rw [len, granPieces_word aligned, List.mem_singleton] at hp
    subst hp
    exact ⟨plain, State.place_of_mayAcc granted own (by decide)⟩
  obtain ⟨q, w, put⟩ := State.putOuts_direct (x := x) [⟨x.a64 10, bs, 0⟩] hm fun o ho => by
    rw [List.mem_singleton.1 ho]
    exact ⟨own, direct⟩
  have put : s.putOut x ⟨x.a64 10, bs, 0⟩ = { s with mem := memWrite s.mem (locOf (x.a64 10)) bs, poison := q, wc := w } := put
  have run := State.doSemRead_local h here owned wanted granted up
  rw [hb, put] at run
  generalize hv : ({ s with mem := memWrite s.mem (locOf (x.a64 10)) bs, poison := q, wc := w } : State) = v at run
  have there : v.inst? x.id = some x := by rw [← hv]; exact hx
  have mem : (v.endInst x 0 0 {}).mem = memWrite s.mem (locOf (x.a64 10)) bs := by
    obtain ⟨f, l, e⟩ := v.endInst_eq x 0 0 {}
    rw [e, ← hv]
  refine ⟨_, act_of_wf (c := .semRead x.id) rfl _, ?_⟩
  rw [run]
  refine ⟨v.ended_endInst there 0 0 {}, ?_, fun a ha => ?_⟩ <;> rw [mem]
  · exact len ▸ memRead_memWrite_same wf _ bs
  · have away := ha _ (List.mem_singleton_self _)
    exact (memByte_memWrite wf _ bs a).trans (if_neg (by omega))

/-! ## RSEAL (R483, R484) -/

/-- The ring of a seal's test, its SEALED just set. -/
def Ring.seal_ (g : Ring) : Ring := { g with isSealed := true }

/-- The state in which a seal is tested. -/
def State.sealSet (s : State) (c r : Nat) : State := s.setF (ringOff c r 28) 0 1 1

theorem State.ring_sealSet (s : State) (c r : Nat) : (s.sealSet c r).ring c r = (s.ring c r).seal_ := by
  simp [State.sealSet, State.ring, Ring.seal_, State.rf_setF_of_ne, State.rf_setF_same, State.reg_setF]

theorem State.semVal_sealSet (s : State) {u : Nat} (hr : r < 64) (hi : i < 8192) : (s.sealSet c r).semVal u i = s.semVal u i :=
  congrArg BitVec.toNat (s.regsKept_setF _ 0 1 1 _ (by simpa using (ringOff_ne_semOff hr (by omega) hi).symm))

theorem State.sealRing_eq_liftSeal (s : State) (c r : Nat) : s.sealRing c r = (s.sealSet c r).liftSeal (s.ring c r).seal_ := by
  rw [← s.ring_sealSet c r]
  rfl

theorem Ring.full_lt (s : State) (c r : Nat) : (s.ring c r).full < 8192 := (s.rf_lt _ 0 12).trans (by decide)
theorem Ring.empty_lt (s : State) (c r : Nat) : (s.ring c r).empty < 8192 := (s.rf_lt _ 12 12).trans (by decide)

section
variable (hr : r < 64)
include hr

/-- Slots are still out: the ring stays sealed. -/
theorem State.sealRing_short (short : s.semVal c (s.ring c r).empty ≠ (s.ring c r).slots) : s.sealRing c r = s.sealSet c r := by
  rw [State.sealRing_eq_liftSeal]
  exact if_neg fun h => short ((s.semVal_sealSet hr (Ring.empty_lt s c r)).symm.trans h.2)

/-- The ring is whole: the seal lifts, HEAD and TAIL start again. -/
theorem State.sealRing_whole (back : s.semVal c (s.ring c r).empty = (s.ring c r).slots) (drained : s.semVal c (s.ring c r).full = 0)
    (level : (s.ring c r).head = (s.ring c r).tail) : s.sealRing c r =
      (((s.sealSet c r).setReg (ringOff c r 20) 0#32).setReg (ringOff c r 24) 0#32).setF (ringOff c r 28) 0 1 0 := by
  rw [State.sealRing_eq_liftSeal]
  refine (if_pos ⟨rfl, (s.semVal_sealSet hr (Ring.empty_lt s c r)).trans back⟩).trans (if_pos ⟨?_, level⟩)
  exact (s.semVal_sealSet hr (Ring.full_lt s c r)).trans drained

/-- Every slot is back and the ring is not whole: RING_COUNT, and the ring stays sealed (R484). -/
theorem State.sealRing_broken (back : s.semVal c (s.ring c r).empty = (s.ring c r).slots)
    (broken : ¬(s.semVal c (s.ring c r).full = 0 ∧ (s.ring c r).head = (s.ring c r).tail)) : ∃ job, s.sealRing c r =
      ((s.sealSet c r).setF (ringOff c r 28) 1 1 1).logEv 0x0303 job [c + 32 * r] := by
  rw [State.sealRing_eq_liftSeal]
  refine ⟨_, (if_pos ⟨rfl, (s.semVal_sealSet hr (Ring.empty_lt s c r)).trans back⟩).trans (if_neg fun h => broken ⟨?_, h.2⟩)⟩
  exact (s.semVal_sealSet hr (Ring.full_lt s c r)).symm.trans h.1

end

theorem State.doRseal_open (h : s.semOf i 6 = some x) (enabled : (s.ring x.semUnit x.semIndex).enabled = true)
    (mine : (s.ring x.semUnit x.semIndex).ctx = x.ctx) (unsealed : (s.ring x.semUnit x.semIndex).isSealed = false) :
    s.doRseal i = (s.sealRing x.semUnit x.semIndex).endInst x 0 0 {} := by
  unfold State.doRseal
  rw [h]
  dsimp only
  rw [if_neg (by simp [enabled]), if_neg (by simp [mine]), if_neg (by simp [unsealed])]

/-- What a seal leaves of its ring, in its three cases. -/
theorem State.sealRing_cases (hr : r < 64) :
    let g := s.ring c r
    let t := s.sealRing c r
    (s.semVal c g.empty ≠ g.slots → (t.ring c r).isSealed = true ∧ (t.ring c r).head = g.head ∧ (t.ring c r).tail = g.tail) ∧
    (s.semVal c g.empty = g.slots → s.semVal c g.full = 0 → g.head = g.tail →
      (t.ring c r).isSealed = false ∧ (t.ring c r).head = 0 ∧ (t.ring c r).tail = 0) ∧
    (s.semVal c g.empty = g.slots → ¬(s.semVal c g.full = 0 ∧ g.head = g.tail) →
      (t.ring c r).isSealed = true ∧ t.rf (ringOff c r 28) 1 1 = 1 ∧ s.Logged t 0x0303 [c + 32 * r]) := by
  refine ⟨fun short => ?_, fun back drained level => ?_, fun back broken => ?_⟩
  · rw [State.sealRing_short hr short, State.ring_sealSet]
    exact ⟨rfl, rfl, rfl⟩
  · rw [State.sealRing_whole hr back drained level]
    simp [State.ring, State.rf_setF_same, State.reg_setF, State.reg_setReg]
  · obtain ⟨job, e⟩ := State.sealRing_broken hr back broken
    have regs := State.logEv_regs ((s.sealSet c r).setF (ringOff c r 28) 1 1 1) 0x0303 job [c + 32 * r]
    rw [e]
    refine ⟨?_, ?_, State.logged_logEv ((s.sealSet c r).setF (ringOff c r 28) 1 1 1) 0x0303 job [c + 32 * r] (by decide)⟩
    · rw [State.ring_congr (s := (s.sealSet c r).setF (ringOff c r 28) 1 1 1) fun _ _ => State.reg_congr regs _]
      simp [State.ring, State.sealSet, State.rf_setF_same, State.rf_setF_of_disjoint]
    · exact (State.rf_congr regs _ _ _).trans (State.rf_setF_same _ (by decide))

/-- Settles O15: READ writes one word where its address says, RSEAL seals the ring and tests it at once. -/
theorem semaphoreReadAndRingSeal : Obligations.SemaphoreReadAndRingSeal := by
  unfold Obligations.SemaphoreReadAndRingSeal
  intro i s x hm
  constructor
  case left =>
    intro h here owned r wanted aligned own granted above up plain
    obtain ⟨hx, rfl⟩ := State.inst?_of_semOf h
    exact semRead_stores hm h hx here owned wanted aligned own granted above up plain
  case right =>
    intro h _ hr g enabled mine unsealed
    obtain ⟨hx, rfl⟩ := State.inst?_of_semOf h
    have only : State.SyncOnly [ringOff x.semUnit x.semIndex 20, ringOff x.semUnit x.semIndex 24, ringOff x.semUnit x.semIndex 28] s
        (s.sealRing x.semUnit x.semIndex) :=
      ((State.SyncOnly.refl _ s).setF (by simp) 0 1 1).liftSeal (List.Subset.refl _)
    obtain ⟨ended, -, stores⟩ := only.ends hx 0
    obtain ⟨short, whole, broken⟩ := State.sealRing_cases (s := s) (c := x.semUnit) hr
    have regs := State.regs_endInst (s.sealRing x.semUnit x.semIndex) x 0 0 {}
    have ring := State.ring_congr (c := x.semUnit) (r := x.semIndex) fun _ _ => State.reg_congr regs _
    refine ⟨_, act_of_wf (c := .rseal x.id) rfl _, ?_⟩
    rw [State.doRseal_open h enabled mine unsealed]
    refine ⟨ended, stores, ?_⟩
    dsimp only
    rw [ring]
    refine ⟨short, whole, fun back bad => ?_⟩
    obtain ⟨sealed_, count, logged⟩ := broken back bad
    refine ⟨sealed_, (State.rf_congr regs _ _ _).trans count, ?_⟩
    obtain ⟨f, l, e⟩ := (s.sealRing x.semUnit x.semIndex).endInst_eq x 0 0 {}
    rw [e]
    exact logged

end Sys2Proof.Machine
end

section
/-! PROOFS, family 09_streams_and_synchronisation: wake wires and their waiters (O16). -/
namespace Sys2Proof.Machine
variable {s t : State} {u b i c : Nat} {x : Inst} {w : Wait}

/-! ## A wake (R471, R472) -/

/-- The state in which the waiters of a bank evaluate: its wire has been taken. -/
def State.wireTaken (s : State) (u b : Nat) : State := { s with wakes := s.wakes.filter fun w => w != (u, b) }

theorem State.wireTaken_wakes (s : State) (u b : Nat) : (s.wireTaken u b).wakes.contains (u, b) = false := by
  simp [State.wireTaken]

/-- A sole waiter evaluates alone. -/
theorem State.semWake_desc {p : Nat} (fired : s.wakes.contains (u, b) = true) (sole : s.waitersOn u b = [(p, .desc i)]) :
    s.semWake u b = (s.wireTaken u b).wakeDesc i := by
  unfold State.semWake
  rw [fired, if_neg (by decide), sole]
  rfl

theorem State.semWake_core {p : Nat} (fired : s.wakes.contains (u, b) = true) (sole : s.waitersOn u b = [(p, .core c)]) :
    s.semWake u b = (s.wireTaken u b).wakeCore c := by
  unfold State.semWake
  rw [fired, if_neg (by decide), sole]
  rfl

section
variable (hx : s.inst? i = some x) (hp : x.phase = .waiting) (hw : x.wait = some w) (free : s.stepOpen x.ctx = false)
include hx hp hw free

/-- A descriptor whose wait is met: a SEM ends, another starts its access side. -/
theorem State.wakeDesc_met (met : s.tryWait w = some t) :
    s.wakeDesc i = if x.opcode == 0xB && x.waited then t.endInst x 0 0 {} else t.startAccess i := by
  unfold State.wakeDesc
  rw [hx]
  dsimp only
  rw [hw]
  dsimp only
  rw [if_neg (by simp [hp]), if_neg (by simp [free]), met]

/-- One whose wait is not met sleeps again. -/
theorem State.wakeDesc_short (short : s.tryWait w = none) : s.wakeDesc i = s.setInst { x with sleepAt := s.clock.now, lends := false } := by
  unfold State.wakeDesc
  rw [hx]
  dsimp only
  rw [hw]
  dsimp only
  rw [if_neg (by simp [hp]), if_neg (by simp [free]), short]

end

/-- A core whose waiting instruction is released with a value for its `rd`. -/
def Core.released (k : Core) (rd : Nat) (v : Word) : Core := { k with waiting := none, x := if rd = 0 then k.x else sset 0#32 rd v k.x }

theorem State.wakeCore_met {rd ts : Nat} {l : Bool} (hk : (s.core c).waiting = some (rd, w, ts, l)) (met : s.tryWait w = some t) :
    s.wakeCore c = t.modCore c fun k => k.released rd (BitVec.ofNat 32 (s.semVal w.unit w.index)) := by
  unfold State.wakeCore
  rw [hk]
  dsimp only
  rw [met]
  rfl

/-! ## A change fires its wire (R475) -/

/-- What a changed value leaves: itself, the wire of its bank fired, every other semaphore as it was. -/
theorem State.semPut_fires {v : Nat} (hv : v < 2 ^ 32) (hu : u < 36) (hi : i < semCount u) (h : s.semVal u i ≠ v) :
    (s.semPut u i v).semVal u i = v ∧ (s.semPut u i v).wakes.contains (u, i / 64) = true ∧
    ∀ u' j, u' < 36 → j < semCount u' → (u', j) ≠ (u, i) → (s.semPut u i v).semVal u' j = s.semVal u' j := by
  have small := hi.trans_le (semCount_le u)
  refine ⟨State.semVal_semPut small hv, State.wakes_semPut small h, fun u' j hu' hj other => ?_⟩
  exact State.semVal_semPut_of_ne v (hj.trans_le (semCount_le u')) (semOff_ne hu hu' hi hj other)

/-- Settles O16: a change fires its wire; the sole waiter of a bank evaluates, and its wait decides what becomes of it. -/
theorem semaphoreChangesWakeTheirWaiters : Obligations.SemaphoreChangesWakeTheirWaiters := by
  unfold Obligations.SemaphoreChangesWakeTheirWaiters
  refine ⟨fun s u i v hv hu hi => ⟨State.semPut_fires hv hu hi, State.semPut_self s⟩, fun u b s hu hb fired => ?_⟩
  have run : exec (.semWake u b) s = .next (s.semWake u b) := act_of_wf (c := .semWake u b) (by simp [Instr.wf, hu, hb]) _
  constructor
  case left =>
    intro p i x w sole hx hp hw noAcquire free own
    have hid : x.id = i := by simpa using List.find?_some hx
    subst hid
    have there : (s.wireTaken u b).inst? x.id = some x := hx
    rw [State.semWake_desc fired sole] at run
    have met := fun enough : w.n ≤ s.semVal w.unit w.index =>
      State.wakeDesc_met there hp hw free (State.tryWait_met (s := s.wireTaken u b) enough noAcquire)
    refine ⟨fun enough isSem => ⟨_, run, ?_⟩, fun enough isHeader => ⟨_, x.startedIn (s.wireTaken u b), run, ?_⟩,
      fun short => ⟨_, { x with sleepAt := s.clock.now, lends := false }, run, ?_⟩⟩
    · rw [met enough, if_pos isSem]
      exact State.ended_endInst _ there 0 0 {}
    · rw [met enough, if_neg (by simpa [own] using isHeader)]
      exact ⟨(State.startAccess_started there).inst, rfl, rfl⟩
    · rw [State.wakeDesc_short there hp hw free (State.tryWait_short short)]
      refine ⟨?_, hp, rfl, s.wireTaken_wakes u b⟩
      exact (State.inst?_setInst _ _ _).trans ((if_pos rfl).trans (by rw [there]; rfl))
  case right =>
    intro p c rd ts w l sized hc sole waiting canonical noAcquire enough hrd
    have cores : c < (s.wireTaken u b).cores.length := ((State.sized_iff s).1 sized).2 ▸ hc
    have small : s.semVal w.unit w.index < 2 ^ 32 := BitVec.isLt _
    rw [State.semWake_core fired sole,
      State.wakeCore_met (s := s.wireTaken u b) waiting (State.tryWait_met (s := s.wireTaken u b) enough noAcquire)] at run
    refine ⟨_, run, ?_⟩
    rw [State.core_modCore _ _ _ _ cores, if_pos rfl]
    refine ⟨rfl, ?_⟩
    show (sget 0#32 (if rd = 0 then _ else _) rd).toNat = _
    rw [if_neg hrd]
    refine (congrArg BitVec.toNat ((sget_sset _ _ _ _ canonical).trans (if_pos rfl))).trans ?_
    exact (BitVec.toNat_ofNat ..).trans (Nat.mod_eq_of_lt small)

end Sys2Proof.Machine
end

section
/-! PROOFS, family 09_streams_and_synchronisation: owners of banks, a debugger's writes, slot rings (O23, O24, O25). -/
namespace Sys2Proof.Machine
variable {s t : State} {f : Fn} {u b i j c r n : Nat} {v : Word} {offs : List Nat}

/-! ## SEM_BANK_OWNER (R460) -/

/-- Owners stand apart from the values of semaphores that exist. -/
theorem ownerOff_ne_semOff (hb : b < semCount u / 64) (hi : i < semCount u) : ownerOff u b ≠ semOff u i := by
  unfold semCount at hb hi
  unfold ownerOff semOff clusterOff dieOff
  split <;> simp only [*, if_true, if_false] at hb hi <;> omega

/-- Semaphores of a unit set to 0 one after another. -/
def State.zeroSems (s : State) (u : Nat) (l : List Nat) : State := l.foldl (fun s i => if s.semVal u i = 0 then s else s.semPut u i 0) s

theorem State.zeroSems_cons (s : State) (u i : Nat) (l : List Nat) : s.zeroSems u (i :: l) = (s.semPut u i 0).zeroSems u l := by
  refine congrArg (fun s : State => s.zeroSems u l) ?_
  dsimp only
  split
  · exact (State.semPut_self s ‹_›).symm
  · rfl

/-- They are 0 then, and so is every other that was. -/
theorem State.semVal_zeroSems {l : List Nat} (hl : ∀ i ∈ l, i < 8192) (hj : j < 8192) (h : s.semVal u j = 0 ∨ j ∈ l) :
    (s.zeroSems u l).semVal u j = 0 := by
  induction l generalizing s with
  | nil => exact h.resolve_right List.not_mem_nil
  | cons i l ih =>
    rw [State.zeroSems_cons]
    refine ih (fun k hk => hl k (List.mem_cons_of_mem _ hk)) ?_
    by_cases hi : j = i
    · exact .inl (hi ▸ State.semVal_semPut hj (by decide))
    · rw [State.semVal_semPut_of_ne 0 hj (by simpa using hi)]
      exact h.imp_right fun hm => (List.mem_cons.1 hm).resolve_left hi

theorem State.SyncOnly.zeroSems {l : List Nat} (h : State.SyncOnly offs s t) (ho : ∀ i ∈ l, semTouch u i ⊆ offs) :
    State.SyncOnly offs s (t.zeroSems u l) := by
  induction l generalizing t with
  | nil => exact h
  | cons i l ih =>
    rw [State.zeroSems_cons]
    exact ih (h.semPut (ho i List.mem_cons_self) 0) fun k hk => ho k (List.mem_cons_of_mem _ hk)

/-- The state that a change of a bank's owner leaves. -/
def State.ownerChanged (s : State) (u b : Nat) (v : Word) : State :=
  let t := (s.zeroSems u (upto (64 * b) 64)).setReg (ownerOff u b) (BitVec.ofNat 32 (fld v 0 13))
  { t with wakes := if t.wakes.contains (u, b) then t.wakes else t.wakes ++ [(u, b)] }

/-- Registers that a change of a bank's owner may reach. -/
def bankTouch (u b : Nat) : List Nat := ownerOff u b :: (List.range 64).flatMap fun j => semTouch u (64 * b + j)

theorem State.ownerChanged_only (s : State) (u b : Nat) (v : Word) : State.SyncOnly (bankTouch u b) s (s.ownerChanged u b v) := by
  refine (((State.SyncOnly.refl _ s).zeroSems fun i hi => ?_).setReg List.mem_cons_self _).setWakes _
  obtain ⟨j, hj, rfl⟩ := List.mem_map.1 hi
  exact fun o ho => List.mem_cons_of_mem _ (List.mem_flatMap.2 ⟨j, hj, ho⟩)

theorem State.semVal_ownerChanged (v : Word) (hb : b < semCount u / 64) (hi : i / 64 = b) : (s.ownerChanged u b v).semVal u i = 0 := by
  have exists_ : i < semCount u := by omega
  have bank : ∀ k ∈ upto (64 * b) 64, k < 8192 := fun k hk => by
    have := mem_upto.1 hk
    have := semCount_le u
    omega
  have zero : (s.zeroSems u (upto (64 * b) 64)).semVal u i = 0 :=
    State.semVal_zeroSems bank (exists_.trans_le (semCount_le u)) (.inr (mem_upto.2 (by omega)))
  unfold State.ownerChanged
  generalize s.zeroSems u (upto (64 * b) 64) = z at zero ⊢
  refine Eq.trans (congrArg BitVec.toNat ?_) zero
  exact z.regsKept_setReg _ _ _ (by simpa using (ownerOff_ne_semOff hb exists_).symm)

theorem State.owner_ownerChanged (s : State) (u b : Nat) (v : Word) : (s.ownerChanged u b v).rf (ownerOff u b) 0 13 = fld v 0 13 := by
  unfold State.ownerChanged
  generalize s.zeroSems u (upto (64 * b) 64) = z
  exact (z.rf_setReg_same ..).trans (fld_low13 v (by decide))

theorem State.wakes_ownerChanged (s : State) (u b : Nat) (v : Word) : (s.ownerChanged u b v).wakes.contains (u, b) = true := by
  unfold State.ownerChanged
  dsimp only
  split
  · assumption
  · simp

theorem State.ownerWrite_other (other : isPf f = false) : s.ownerWrite f u b v = s := by
  unfold State.ownerWrite
  exact if_pos (by simp [other])

section
variable (reach : s.reaches f = true) (fitted : s.unitFitted u = true) (hb : b < semCount u / 64)
include reach fitted hb

theorem State.ownerWrite_waited (pf : isPf f = true) (waited : s.bankWaited u b = true) :
    s.ownerWrite f u b v = s.logEv 0x0302 0 [b + 2 ^ 7 * u] := by
  unfold State.ownerWrite
  rw [if_neg (by simp [reach, pf, fitted, hb]), if_pos waited]

theorem State.ownerWrite_free (pf : isPf f = true) (free : s.bankWaited u b = false) :
    s.ownerWrite f u b v = if s.reg (ownerOff u b) = BitVec.ofNat 32 (fld v 0 13) then s else s.ownerChanged u b v := by
  unfold State.ownerWrite
  rw [if_neg (by simp [reach, pf, fitted, hb]), if_neg (by simp [free])]
  rfl

end

/-- A record changes the log and the interrupts. -/
theorem State.logEv_rest (s : State) (type job : Nat) (ws : List Nat) :
    s.logEv type job ws = { s with log := (s.logEv type job ws).log, host := (s.logEv type job ws).host } := by
  obtain ⟨l, r, h, e⟩ := s.logEv_eq type job ws
  rw [e]

/-- Settles O23: a waiter turns the write away, an owner that changes clears the bank. -/
theorem bankOwnerWriteClearsTheBank : Obligations.BankOwnerWriteClearsTheBank := by
  unfold Obligations.BankOwnerWriteClearsTheBank
  intro f u b v s hwf reach fitted hb
  have run : exec (.semBankOwnerWrite f u b v) s = .next (s.ownerWrite f u b v) := act_of_wf hwf _
  refine ⟨fun other => ?other, fun pf waited => ?waited, fun pf free change => ?change, fun pf free same => ?same⟩
  case other => rw [run, State.ownerWrite_other other]
  case waited =>
    rw [State.ownerWrite_waited reach fitted hb pf waited] at run
    exact ⟨_, _, run, s.logged_logEv 0x0302 0 [b + 2 ^ 7 * u] (by decide), s.logEv_rest ..⟩
  case change =>
    have only := s.ownerChanged_only u b v
    rw [State.ownerWrite_free reach fitted hb pf free, if_neg change] at run
    refine ⟨_, run, fun i => State.semVal_ownerChanged v hb, ?_, s.wakes_ownerChanged u b v, only.stores, only.regs, only.insts⟩
    exact s.owner_ownerChanged u b v
  case same => rw [run, State.ownerWrite_free reach fitted hb pf free, if_pos same]

/-! ## A debugger's writes (R511 to R513) -/

section
variable (reach : s.reaches f = true) (fitted : s.unitFitted u = true) (hi : i < semCount u)
include reach fitted hi

theorem State.debugSem_denied (h : s.granted = 0 ∨ isPf f = false) : s.debugSem f u i v = s.logViolation 0 (semOff u i) := by
  unfold State.debugSem
  rw [if_neg (by simp [reach, fitted, hi]), if_pos (by simpa using h)]

theorem State.debugSem_granted (level : s.granted ≠ 0) (pf : isPf f = true) : s.debugSem f u i v =
    if (s.ready && !(List.range 16).any fun n => s.jobState n == 4) = true then
      (s.semPut u i v.toNat).logEv 0x0305 0 [i + 2 ^ 13 * u, s.semVal u i, v.toNat, 1]
    else s.logEv 0x0305 0 [i + 2 ^ 13 * u, s.semVal u i, v.toNat, 0] := by
  unfold State.debugSem
  rw [if_neg (by simp [reach, fitted, hi]), if_neg (by simp [level, pf])]
  split <;> simp [*]

end

/-- Settles O24: a granted write is recorded, and acts while the device is READY and out of RECOVERY. -/
theorem debugSemaphoreWrites : Obligations.DebugSemaphoreWrites := by
  unfold Obligations.DebugSemaphoreWrites
  intro f u i v s hwf reach fitted hi inRecovery
  have run : exec (.debugSemWrite f u i v) s = .next (s.debugSem f u i v) := act_of_wf hwf _
  have small := hi.trans_le (semCount_le u)
  have hu : u < 36 := by
    simp only [Instr.wf, Bool.and_eq_true, decide_eq_true_eq] at hwf
    exact hwf.2.1
  refine ⟨fun level pf ready out => ?acts, fun level pf shut => ?shut, fun denied => ?denied⟩
  case acts =>
    rw [State.debugSem_granted reach fitted hi level pf, if_pos (by simp [ready, inRecovery, out])] at run
    obtain ⟨-, rec_, last, type, words⟩ := (s.semPut u i v.toNat).logged_logEv 0x0305 0 [i + 2 ^ 13 * u, s.semVal u i, v.toNat, 1] (by decide)
    have only := ((State.SyncOnly.refl (semTouch u i) s).semPut (List.Subset.refl _) v.toNat).logEv 0x0305 0 [i + 2 ^ 13 * u, s.semVal u i, v.toNat, 1]
    have old : s.semVal u i < 2 ^ 32 := BitVec.isLt _
    refine ⟨_, _, run, ?_, fun change => ?_, only.regs, only.stores, only.insts, last, type, ?_, ?_, ?_, ?_⟩
    · exact (State.semVal_congr (State.logEv_regs ..) u i).trans (State.semVal_semPut small v.isLt)
    · rw [State.logEv_wakes]
      exact State.wakes_semPut small change
    · exact (words 0 (by decide)).trans (Nat.mod_eq_of_lt (by simp only [List.getD_cons_zero]; omega))
    · exact (words 1 (by decide)).trans (Nat.mod_eq_of_lt old)
    · exact BitVec.eq_of_toNat_eq ((words 2 (by decide)).trans (Nat.mod_eq_of_lt v.isLt))
    · exact BitVec.eq_of_toNat_eq (words 3 (by decide))
  case shut =>
    have idle : (s.ready && !inRecovery) = false := by rcases shut with h | h <;> simp [h]
    rw [State.debugSem_granted reach fitted hi level pf, if_neg fun h => Bool.false_ne_true (idle.symm.trans h)] at run
    exact ⟨_, run, s.logged_logEv 0x0305 0 [i + 2 ^ 13 * u, s.semVal u i, v.toNat, 0] (by decide), s.logEv_rest ..⟩
  case denied =>
    rw [State.debugSem_denied reach fitted hi denied] at run
    exact ⟨_, _, run, s.logged_logEv 0x0101 (s.jobId 0) [0, semOff u i % 2 ^ 32, semOff u i / 2 ^ 32] (by decide), s.logEv_rest ..⟩

/-! ## Slot rings (R480) -/

theorem State.ringOf_enabled {g : Ring} {full : Bool} (h : s.ringOf u i = some (g, full)) : g.enabled = true := by
  unfold State.ringOf at h
  split at h
  · obtain ⟨g', hg', hx⟩ := List.exists_of_findSome?_eq_some h
    have same : g' = g := by
      split at hx
      · exact (Prod.ext_iff.1 (Option.some.inj hx)).1
      · split at hx
        · exact (Prod.ext_iff.1 (Option.some.inj hx)).1
        · cases hx
    exact same ▸ (List.mem_filter.1 hg').2
  · cases h

/-- No change of a semaphore reaches a ring that is not enabled. -/
theorem State.ring_semPut_of_disabled (x : Nat) (hr : r < 64) (hi : i < 8192) (off : (s.ring c r).enabled = false) :
    (s.semPut c i x).ring c r = s.ring c r := by
  by_cases hv : s.semVal c i = x
  · rw [State.semPut_self s hv]
  · obtain ⟨w, k, -, e⟩ := State.semPut_change hi hv
    generalize hq : State.setReg { s with wakes := w, ctxs := k } (semOff c i) (BitVec.ofNat 32 x) = q at e
    have put : q.ring c r = s.ring c r := by
      rw [← hq]
      exact State.ring_congr fun rel hrel => State.regsKept_setReg _ _ _ _ (by simpa using ringOff_ne_semOff hr (by omega) hi)
    rw [e, ← put]
    unfold State.liftOf
    split
    · rename_i g hg
      have on := s.ringOf_enabled hg
      obtain ⟨m, hm, rfl⟩ := s.ringOf_unit hg
      have other : m ≠ r := by
        rintro rfl
        rw [off] at on
        cases on
      refine State.ring_congr fun rel hrel => (q.liftSeal_frame (s.ring c m)).1 _ ?_
      simp only [List.mem_cons, List.not_mem_nil, or_false, not_or]
      refine ⟨?_, ?_, ?_⟩ <;> · show ringOff c r rel ≠ ringOff c m _; unfold ringOff clusterOff; omega
    · rfl

/-- The context of a ring is set before its checks, which do not ask for it. -/
theorem State.ringOk_setCtx (hc : c < 32) (hr : r < 64) : (s.setF (ringOff c r 16) 1 4 n).ringOk (s.ring c r) n = s.ringOk (s.ring c r) n := by
  have kept : ∀ o, o ≠ ringOff c r 16 → (s.setF (ringOff c r 16) 1 4 n).reg o = s.reg o := fun o h => s.regsKept_setF _ 1 4 n o (by simpa using h)
  have job : (s.setF (ringOff c r 16) 1 4 n).jobId n = s.jobId n := congrArg (fld · 0 12) (kept _ (by unfold ctxOff ringOff clusterOff; omega))
  have owner : ∀ k, k < 4096 → (s.setF (ringOff c r 16) 1 4 n).reg (ownerOff c (k / 64)) = s.reg (ownerOff c (k / 64)) := fun k hk =>
    kept _ (by unfold ownerOff ringOff; rw [if_pos hc]; unfold clusterOff; omega)
  have full : (s.ring c r).full < 4096 := s.rf_lt _ 0 12
  have empty : (s.ring c r).empty < 4096 := s.rf_lt _ 12 12
  have ring : (s.ring c r).c = c := rfl
  simp only [State.ringOk, State.semOwned, ring, owner _ full, owner _ empty, job]

/-- A ring that has passed its checks, before its semaphores and its ENABLE are set. -/
def State.ringCleared (s : State) (c r n : Nat) : State :=
  (((s.setF (ringOff c r 16) 1 4 n).setReg (ringOff c r 20) 0#32).setReg (ringOff c r 24) 0#32).setF (ringOff c r 28) 0 1 0

/-- A ring that starts. -/
def State.ringStarted (s : State) (c r n : Nat) : State :=
  (((s.ringCleared c r n).semPut c (s.ring c r).full 0).semPut c (s.ring c r).empty (s.ring c r).slots).setF (ringOff c r 16) 0 1 1

theorem State.ringEnable_eq (reach : s.reaches f = true) (pf : isPf f = true) (off : (s.ring c r).enabled = false) (hc : c < 32) (hr : r < 64) :
    s.ringEnable f c r n = if s.ringOk (s.ring c r) n = true then s.ringStarted c r n
      else (s.setF (ringOff c r 16) 1 4 n).setF (ringOff c r 28) 2 1 1 := by
  unfold State.ringEnable
  rw [if_neg (by simp [reach, pf])]
  dsimp only
  rw [if_neg (by simp [off]), State.ringOk_setCtx hc hr]
  by_cases ok : s.ringOk (s.ring c r) n = true
  · rw [if_neg (by simp [ok]), if_pos ok]
    rfl
  · rw [if_pos (by simpa using ok), if_neg ok]

/-- A ring cleared: its registers afresh, its geometry as it was, not yet enabled. -/
theorem State.ring_ringCleared (hn : n < 16) (off : (s.ring c r).enabled = false) :
    (s.ringCleared c r n).ring c r = { s.ring c r with ctx := n, head := 0, tail := 0, isSealed := false } := by
  have off : (s.rf (ringOff c r 16) 0 1 == 1) = false := off
  simp [State.ringCleared, State.ring, State.rf_setF_same, State.rf_setF_of_ne, State.rf_setF_of_disjoint, State.rf_setReg_of_ne, State.reg_setF,
    State.reg_setReg, hn, off]

theorem State.ring_setEnable (s : State) (c r : Nat) : (s.setF (ringOff c r 16) 0 1 1).ring c r = { s.ring c r with enabled := true } := by
  simp [State.ring, State.rf_setF_same, State.rf_setF_of_ne, State.rf_setF_of_disjoint, State.reg_setF]

/-- A started ring: enabled for its context, whole and empty. -/
theorem State.ring_ringStarted (hr : r < 64) (hn : n < 16) (off : (s.ring c r).enabled = false) : (s.ringStarted c r n).ring c r =
    { s.ring c r with ctx := n, head := 0, tail := 0, isSealed := false, enabled := true } := by
  have cleared := State.ring_ringCleared (s := s) (c := c) (r := r) hn off
  have off₁ : ((s.ringCleared c r n).ring c r).enabled = false := by rw [cleared]; exact off
  have full := State.ring_semPut_of_disabled 0 hr (Ring.full_lt s c r) off₁
  have empty := State.ring_semPut_of_disabled (s.ring c r).slots hr (Ring.empty_lt s c r) (full.symm ▸ off₁)
  rw [State.ringStarted, State.ring_setEnable, empty, full, cleared]

/-- Its semaphores: FULL at 0, EMPTY at its slots. -/
theorem State.semVal_ringStarted (hr : r < 64) (apart : (s.ring c r).full ≠ (s.ring c r).empty) :
    (s.ringStarted c r n).semVal c (s.ring c r).full = 0 ∧ (s.ringStarted c r n).semVal c (s.ring c r).empty = (s.ring c r).slots := by
  have full := Ring.full_lt s c r
  have empty := Ring.empty_lt s c r
  have slots : (s.ring c r).slots < 2 ^ 32 := (s.rf_lt _ 0 9).trans (by decide)
  have kept : ∀ (t : State) {i : Nat}, i < 8192 → (t.setF (ringOff c r 16) 0 1 1).semVal c i = t.semVal c i := fun t _ hi =>
    congrArg BitVec.toNat (t.regsKept_setF _ 0 1 1 _ (by simpa using (ringOff_ne_semOff hr (by omega) hi).symm))
  constructor
  · rw [State.ringStarted, kept _ full, State.semVal_semPut_of_ne _ full (by simpa using apart), State.semVal_semPut full (by decide)]
  · rw [State.ringStarted, kept _ empty, State.semVal_semPut empty slots]

theorem State.ringStarted_only (s : State) (n : Nat) (hr : r < 64) :
    State.SyncOnly (ringOff c r 16 :: semTouch c (s.ring c r).full ++ semTouch c (s.ring c r).empty) s (s.ringStarted c r n) := by
  have own : [ringOff c r 20, ringOff c r 24, ringOff c r 28] ⊆ semTouch c (s.ring c r).full := ringOff_mem_semTouch hr
  have mem : ∀ {o}, o ∈ [ringOff c r 20, ringOff c r 24, ringOff c r 28] →
      o ∈ ringOff c r 16 :: semTouch c (s.ring c r).full ++ semTouch c (s.ring c r).empty := fun h =>
    List.mem_append_left _ (List.mem_cons_of_mem _ (own h))
  have cleared : State.SyncOnly (ringOff c r 16 :: semTouch c (s.ring c r).full ++ semTouch c (s.ring c r).empty) s (s.ringCleared c r n) :=
    ((((State.SyncOnly.refl _ s).setF List.mem_cons_self 1 4 n).setReg (mem (by simp)) _).setReg (mem (by simp)) _).setF (mem (by simp)) 0 1 0
  exact ((cleared.semPut (fun o h => List.mem_append_left _ (List.mem_cons_of_mem _ h)) 0).semPut (List.subset_append_right ..) _).setF
    List.mem_cons_self 0 1 1

/-- Settles O25: the checks decide between a ring that starts afresh and CFG_ERR. -/
theorem ringEnableChecksAndStartsTheRing : Obligations.RingEnableChecksAndStartsTheRing := by
  unfold Obligations.RingEnableChecksAndStartsTheRing
  intro f c r n s hwf reach pf g off
  have hwf' := hwf
  simp only [Instr.wf, Bool.and_eq_true, decide_eq_true_eq] at hwf'
  obtain ⟨-, hc, hr, hn⟩ := hwf'
  have run : exec (.ringEnable f c r n) s = .next (s.ringEnable f c r n) := act_of_wf hwf _
  rw [State.ringEnable_eq reach pf off hc hr] at run
  refine ⟨fun ok => ?starts, fun bad => ?fails⟩
  case starts =>
    have only := s.ringStarted_only (c := c) n hr
    have apart : g.full ≠ g.empty := by
      simp only [State.ringOk, Bool.and_eq_true, bne_iff_ne] at ok
      exact ok.1.1.2
    obtain ⟨full, empty⟩ := State.semVal_ringStarted (n := n) hr apart
    rw [if_pos ok] at run
    refine ⟨_, run, only.stores, only.insts, only.regs, ?_⟩
    rw [State.ring_ringStarted hr hn off]
    exact ⟨rfl, rfl, rfl, rfl, rfl, full, empty, rfl, rfl⟩
  case fails =>
    rw [if_neg (by simpa using bad)] at run
    have off : (s.rf (ringOff c r 16) 0 1 == 1) = false := off
    refine ⟨_, run, ?_, State.rf_setF_same _ (by decide), ?_, rfl⟩
    · simp [State.ring, State.rf_setF_of_ne, State.rf_setF_of_disjoint, off]
    · exact ((State.RegsKept.refl s _).setF (by simp) 1 4 n).setF (by simp) 2 1 1

end Sys2Proof.Machine
end

section
/-! PROOFS, family 09_streams_and_synchronisation: a period of the reference (O2), sleep, wake and lending (O38). -/
namespace Sys2Proof.Machine
variable {s t : State} {c d q : Nat}

/-! ## One period of the reference (R503, R618, R779) -/

/-- The calendar's tick leaves the reference and fabric time. -/
theorem Clock.calTick_frame (c : Clock) : c.calTick.now = c.now ∧ c.calTick.fab = c.fab := by
  unfold Clock.calTick
  extract_lets f
  split
  · exact ⟨rfl, rfl⟩
  · split <;> exact ⟨rfl, rfl⟩

/-- The clock after a period, fabric time apart. -/
def Clock.period (c : Clock) : Clock := Clock.calTick { c with now := c.now + 40 }

theorem Clock.now_period (c : Clock) : c.period.now = c.now + 40 := (Clock.calTick_frame _).1

theorem Clock.fab_period (c : Clock) : c.period.fab = c.fab := (Clock.calTick_frame _).2

theorem Clock.now_fabTick (c : Clock) : c.fabTick.now = c.now := rfl

/-- Fabric time gains a period corrected by at most 1 ns. -/
theorem Clock.fab_fabTick (c : Clock) : ∃ d : Nat, 39 ≤ d ∧ d ≤ 41 ∧ c.fabTick.fab = (c.fab + d) % 2 ^ 64 := by
  refine ⟨(40 + (c.slew - c.fabTick.slew)).toNat, ?_⟩
  unfold Clock.fabTick
  dsimp only
  rw [Int.sub_sub_self]
  split
  · exact ⟨by decide, by decide, rfl⟩
  · split
    · exact ⟨by decide, by decide, rfl⟩
    · split <;> exact ⟨by decide, by decide, rfl⟩

theorem State.runOnTick_eq (s : State) (n : Nat) : s.runOnTick n = { s with ctxs := (s.runOnTick n).ctxs } := by
  unfold State.runOnTick
  split <;> rfl

/-- Run-On counts stand in the contexts. -/
theorem State.foldl_runOnTick (l : List Nat) (s : State) : ∃ k, l.foldl State.runOnTick s = { s with ctxs := k } := by
  induction l generalizing s with
  | nil => exact ⟨s.ctxs, rfl⟩
  | cons n l ih =>
    obtain ⟨k, e⟩ := ih (s.runOnTick n)
    rw [List.foldl_cons, e, s.runOnTick_eq n]
    exact ⟨k, rfl⟩

/-- What a period changes while the reference is present: time, Run-On counts, packets on a link that is UP, and PPS_OUT. -/
theorem tick_running (s : State) (present : s.rst.clockHeld = false) :
    ∃ k f r, tick s = { s with clock := s.clock.period.fabTick, ctxs := k, fab := f, rst := r } := by
  unfold tick Clock.period
  extract_lets _ c
  obtain ⟨k, e⟩ := State.foldl_runOnTick (List.range 16) { s with clock := c.fabTick }
  rw [if_neg (by simp [present]), e]
  exact ⟨k, _, _, rfl⟩

/-- While it is absent only the calendar runs. -/
theorem tick_held (s : State) (held : s.rst.clockHeld = true) :
    tick s = { s with clock := s.clock.period } := if_pos held

/-- Settles O2: a period moves the clock, and fabric time by 40 ns and its correction. -/
theorem emptyQueuePassesOneReferencePeriod : Obligations.EmptyQueuePassesOneReferencePeriod := by
  unfold Obligations.EmptyQueuePassesOneReferencePeriod
  intro s idle
  have now := s.clock.now_period
  have fab := s.clock.fab_period
  refine ⟨_, step_nil s idle, ?_⟩
  cases held : s.rst.clockHeld with
  | true =>
    rw [tick_held s held]
    exact ⟨now, State.storesKept_of_eq rfl rfl rfl, rfl, rfl, idle, fun _ => ⟨fab, rfl⟩, fun h => by cases h⟩
  | false =>
    obtain ⟨k, f, r, e⟩ := tick_running s held
    obtain ⟨d, low, high, moved⟩ := s.clock.period.fab_fabTick
    rw [e]
    rw [fab] at moved
    refine ⟨s.clock.period.now_fabTick.trans now, State.storesKept_of_eq rfl rfl rfl, rfl, rfl, idle, fun h => ?_, fun _ => ⟨d, low, high, moved⟩⟩
    cases h

/-! ## Sleep and wake (R755 to R758, R760) -/

theorem contains_insNat (k : Nat) (l : List Nat) : (insNat k l).contains k = true := List.contains_iff_mem.2 (mem_insNat k l)

theorem mem_insNat_of_mem {j : Nat} (k : Nat) {l : List Nat} (h : j ∈ l) : j ∈ insNat k l := by
  induction l with
  | nil => cases h
  | cons a l ih =>
    unfold insNat
    split
    · exact List.mem_cons_of_mem _ h
    · split
      · exact h
      · exact (List.mem_cons.1 h).elim (fun e => e ▸ List.mem_cons_self) fun h => List.mem_cons_of_mem _ (ih h)

theorem contains_filter_ne (k : Nat) (l : List Nat) : (l.filter (· != k)).contains k = false := by simp

theorem State.clockStatus_pow (s : State) : s.clockStatus.pow = s.pow := rfl

theorem State.storesKept_clockStatus (s : State) : s.StoresKept s.clockStatus := State.storesKept_of_eq rfl rfl rfl

/-- A cluster without work and without young waiters sleeps after 100 µs. -/
theorem State.clusterSleep_due (idle : s.clusterIdle c = true) (slept : s.waitersSlept c = true)
    (due : s.activeSince c + 100000 ≤ s.clock.now) (ready : s.ready = true) :
    (s.clusterSleep c).pow.asleep.contains c = true ∧ (s.clusterSleep c).regs = s.regs ∧ s.StoresKept (s.clusterSleep c) := by
  unfold State.clusterSleep
  by_cases asleep : s.pow.asleep.contains c = true
  · rw [if_pos (.inl asleep)]
    exact ⟨asleep, rfl, State.storesKept_of_eq rfl rfl rfl⟩
  · rw [if_neg (by simpa [idle, slept, ready] using ⟨by simpa using asleep, due⟩)]
    exact ⟨contains_insNat c _, rfl, State.storesKept_of_eq rfl rfl rfl⟩

/-- A compute die whose clusters all sleep and whose engines rest goes DEEP after 1 ms. -/
theorem State.dieDeep_due (asleep : (upto (16 * d) 16).all (fun k => s.pow.asleep.contains k) = true)
    (rest : (s.insts.any fun x => dieOfQueue x.queue == some d) = false) (due : s.activeSince (32 + d) + 1000000 ≤ s.clock.now) :
    (s.dieDeep d).pow.deepDies.contains d = true ∧ s.StoresKept (s.dieDeep d) := by
  unfold State.dieDeep
  by_cases deep : s.pow.deepDies.contains d = true
  · rw [if_pos (.inl deep)]
    exact ⟨deep, State.storesKept_of_eq rfl rfl rfl⟩
  · rw [if_neg (by rw [asleep, rest]; simpa using ⟨by simpa using deep, due⟩)]
    exact ⟨contains_insNat d _, State.storesKept_of_eq rfl rfl rfl⟩

/-- An I/O die that is not DEEP goes LIGHT after 100 µs. -/
theorem State.ioLight_due (fitted : d < s.ioDies) (due : s.activeSince (34 + d) + 100000 ≤ s.clock.now)
    (up : s.pow.ioDeep.contains d = false) : (s.ioLight d).pow.ioLight.contains d = true ∧ s.ioLight d = { s with pow := (s.ioLight d).pow } := by
  unfold State.ioLight
  by_cases light : s.pow.ioLight.contains d = true
  · rw [if_pos (.inr (.inl light))]
    exact ⟨light, rfl⟩
  · rw [if_neg (by rw [up]; simpa using ⟨fitted, by simpa using light, due⟩)]
    exact ⟨contains_insNat d _, rfl⟩

/-- An I/O die with every link and port down and no queue at work goes DEEP. -/
theorem State.ioDeep_due (fitted : d < s.ioDies) (down : ((upto (16 * d) 16).any fun l => s.linkState l == 1 || s.linkState l == 2) = false)
    (untrained : s.host.trained.contains d = false) (rest : s.ioBusy d = false) :
    (s.ioDeep d).pow.ioDeep.contains d = true ∧ s.ioDeep d = { s with pow := (s.ioDeep d).pow } := by
  unfold State.ioDeep
  by_cases deep : s.pow.ioDeep.contains d = true
  · rw [if_pos (.inr (.inl deep))]
    exact ⟨deep, rfl⟩
  · rw [if_neg (by rw [down, untrained, rest]; simpa using ⟨fitted, by simpa using deep⟩)]
    exact ⟨contains_insNat d _, rfl⟩

/-- A cluster of a die in service is awake at once. -/
theorem State.wakeCluster_awake (up : s.pow.deepDies.contains (c / 16) = false) :
    (s.wakeCluster c).pow.asleep.contains c = false ∧ (s.wakeCluster c).regs = s.regs ∧ s.StoresKept (s.wakeCluster c) := by
  have e : s.wakeCluster c = { s.touch c with pow := { (s.touch c).pow with asleep := s.pow.asleep.filter (· != c) } } := if_neg (by simpa [State.touch] using up)
  rw [e]
  exact ⟨contains_filter_ne c _, rfl, State.storesKept_of_eq rfl rfl rfl⟩

/-- One of a DEEP die waits for the die, which begins its wake sequence. -/
theorem State.wakeCluster_deep (deep : s.pow.deepDies.contains (c / 16) = true) :
    (s.wakeCluster c).pow.wakes.contains (32 + c / 16) = true ∧ (s.wakeCluster c).pow.wakes.contains c = true := by
  have e : (s.wakeCluster c).pow.wakes = insNat c (insNat (32 + c / 16) s.pow.wakes) := by
    unfold State.wakeCluster
    dsimp only
    rw [if_pos (by exact deep)]
    rfl
  rw [e]
  exact ⟨List.contains_iff_mem.2 (mem_insNat_of_mem c (mem_insNat ..)), contains_insNat ..⟩

/-- A die at the end of its wake sequence is in service, and so are its clusters that have work. -/
theorem State.dieWake_asked (asked : s.pow.wakes.contains (32 + d) = true) :
    (s.dieWake d).pow.deepDies.contains d = false ∧ (s.dieWake d).pow.wakes.contains (32 + d) = false ∧
    (∀ k, s.pow.wakes.contains k = true → (s.dieWake d).pow.asleep.contains k = false) ∧ s.StoresKept (s.dieWake d) := by
  unfold State.dieWake
  rw [if_neg (by simpa using asked)]
  refine ⟨contains_filter_ne d _, ?_, fun k woken => ?_, State.storesKept_of_eq rfl rfl rfl⟩
  · rw [State.clockStatus_pow]
    simp
  · rw [State.clockStatus_pow]
    simpa using fun _ => by simpa using woken

/-! ## Lending (R478, R768) -/

/-- A descriptor that sleeps at a port for 2 µs and has not lent. -/
def State.lendsAt (s : State) (port : Nat) (x : Inst) : Bool :=
  x.waits && x.wait.isSome && x.port == port && decide (x.sleepAt + 2000 ≤ s.clock.now) && !x.lends

theorem State.waiterLend_hit {port : Nat} (h : s.insts.any (s.lendsAt port) = true) : s.waiterLend port =
    { s with insts := s.insts.map (fun x => if s.lendsAt port x then { x with lends := true } else x),
             pow := { s.pow with lent := insNat port s.pow.lent } } := if_pos h

/-- Settles O38: each sleep and wake by its condition, a waiter's loan and a cluster's offer. -/
theorem unitsSleepWakeLendAndOffer : Obligations.UnitsSleepWakeLendAndOffer := by
  unfold Obligations.UnitsSleepWakeLendAndOffer
  refine ⟨fun s c d q hc hd hq => ?units, fun s port c x hport hc => ⟨fun hx waits wait at_ due fresh => ?lend, fun canonical => ?offer⟩⟩
  case units =>
    have sleep : exec (.clusterSleep c) s = .next (s.clusterSleep c) := act_of_wf (by exact decide_eq_true hc) _
    have deep : exec (.dieDeep d) s = .next (s.dieDeep d) := act_of_wf (by exact decide_eq_true hd) _
    have ioLight : exec (.ioDieLight d) s = .next (s.ioLight d) := act_of_wf (by exact decide_eq_true (by omega)) _
    have ioDeep : exec (.ioDieDeep d) s = .next (s.ioDeep d) := act_of_wf (by exact decide_eq_true (by omega)) _
    have wake : exec (.wakeEvent (.lane q)) s = .next (s.wakeCluster (q % 32)) :=
      (act_of_wf (by exact decide_eq_true (by omega)) _).trans (congrArg _ (if_pos hq))
    have dieWake : exec (.dieWake d) s = .next (s.dieWake d) := act_of_wf (by exact decide_eq_true hd) _
    refine ⟨fun idle slept due ready => ⟨_, sleep, State.clusterSleep_due idle slept due ready⟩, fun work => ?_, fun young => ?_, fun busy => ?_,
      fun asleep rest due => ⟨_, deep, State.dieDeep_due asleep rest due⟩, fun fitted due up => ⟨_, ioLight, State.ioLight_due fitted due up⟩,
      fun fitted down untrained rest => ⟨_, ioDeep, State.ioDeep_due fitted down untrained rest⟩, fun up => ⟨_, wake, State.wakeCluster_awake up⟩,
      fun down => ⟨_, wake, State.wakeCluster_deep down⟩, fun asked => ?_⟩
    · have busy : s.clusterIdle c = false := by
        unfold State.clusterIdle
        rw [work]
        rfl
      rw [sleep, State.clusterSleep, if_pos (by simp [busy])]
    · rw [sleep, State.clusterSleep, if_pos (by simp [young])]
    · rw [ioDeep, State.ioDeep, if_pos (by simp [busy])]
    · obtain ⟨inService, done, clusters, stores⟩ := State.dieWake_asked asked
      exact ⟨_, dieWake, inService, done, fun k _ => clusters k, stores⟩
  case lend =>
    have run : exec (.waiterLend port) s = .next (s.waiterLend port) := act_of_wf (by exact decide_eq_true hport) _
    have hit : s.lendsAt port x = true := by simp [State.lendsAt, waits, wait, at_, due, fresh]
    rw [State.waiterLend_hit (List.any_eq_true.2 ⟨x, hx, hit⟩)] at run
    refine ⟨_, run, List.mem_map.2 ⟨x, hx, if_pos hit⟩, mem_insNat .., ?_, rfl⟩
    rw [List.map_map]
    refine List.map_congr_left fun y _ => ?_
    dsimp only [Function.comp]
    split <;> rfl
  case offer =>
    have run : exec (.poolOffer c) s = .next (s.poolOffer c) := act_of_wf (by exact decide_eq_true hc) _
    exact ⟨_, run, (sget_sset 0 _ c c canonical).trans (if_pos rfl), rfl⟩

end Sys2Proof.Machine
end

section
/-! PROOFS, family 09_streams_and_synchronisation: packets of a peer that change a semaphore (O50). -/
namespace Sys2Proof.Machine
variable {s t : State} {p : Packet} {g : CountGroup} {n u i : Nat} {offs : List Nat}

/-! ## An accepted packet acts (R597, R598) -/

theorem State.arrive_eq {kind : PKind} (h : s.Accepts p) (hk : p.kind = kind) (go : State → State × Verdict) :
    s.arrive kind p [] go = (s.opened p).deliver p [] go := by
  obtain ⟨fields, ready, here, header, crc, room, new, unheld⟩ := h
  have pass : ¬(p.kind ≠ kind ∨ p.dst ≠ (s.popLocal p).devId ∨ (!(s.popLocal p).ready) = true ∨ (!intact p) = true) := by
    rintro (h | h | h | h)
    · exact h hk
    · exact h here
    · rw [show (s.popLocal p).ready = true from ready] at h; cases h
    · rw [header] at h; cases h
  unfold State.arrive
  dsimp only
  rw [if_neg pass, if_neg (by simp [crc]), (s.popLocal p).takeSeq_new room new unheld]
  rfl

/-- With its context found, its effect there is what is delivered. -/
theorem State.arriveReq_eq {kind : PKind} (h : s.Accepts p) (hk : p.kind = kind) (ctx : s.peerCtx p = some n)
    (go : State → Nat → State × Verdict) :
    ∃ act, act (s.opened p) = go (s.opened p) n ∧ s.arriveReq kind p [] go = (s.opened p).deliver p [] act := by
  refine ⟨_, ?_, State.arrive_eq h hk _⟩
  obtain ⟨-, b, r, e⟩ := s.opened_frame p
  have found : (s.opened p).peerCtx p = some n := by rw [e]; exact ctx
  rw [found]

/-- A packet outside the count groups is delivered with its effect. -/
theorem State.deliver_alone {go : State → State × Verdict} (alone : p.group = 0 ∨ p.kind = .cgCancel) (done : go s = (t, .delivered)) :
    s.deliver p [] go = t.noteDelivered p.src p.seq := by
  have plain : ¬(p.kind = .signal ∧ p.group ≠ 0) := by
    rintro ⟨hk, hg⟩
    rcases alone with h | h
    · exact hg h
    · rw [hk] at h; cases h
  unfold State.deliver
  dsimp only
  rw [if_neg (by rcases alone with h | h <;> simp [h]), if_neg plain, done]
  exact if_pos alone

/-- A SIGNAL of an open count group is held, and its group's count tested. -/
theorem State.deliver_counted {go : State → State × Verdict} (hk : p.kind = .signal) (hg : p.group ≠ 0)
    (found : s.group? p.src p.group = some g) (done : go s = (t, .delivered)) :
    s.deliver p [] go = (s.putGroup { g with held := some p }).retest p.src p.group true := by
  unfold State.deliver
  dsimp only
  rw [if_neg (by simp [found]), if_pos ⟨hk, hg⟩, done, found]
  rfl

/-! ## Count groups (R607, R610) -/

theorem State.group?_dropGroup (s : State) (src num src' num' : Nat) : (s.dropGroup src num).group? src' num' =
    if (src', num') = (src, num) then none else s.group? src' num' := by
  unfold State.group? State.dropGroup
  rw [List.find?_filter]
  split
  · rename_i same
    cases same
    refine List.find?_eq_none.2 fun g _ => ?_
    cases g.src == src && g.num == num <;> decide
  · rename_i other
    congr 1
    funext g
    by_cases hg : g.src = src' ∧ g.num = num'
    · obtain ⟨rfl, rfl⟩ := hg
      simpa [imp_iff_not_or] using other
    · have hg' : (g.src == src' && g.num == num') = false := by simpa using hg
      simp [hg']

theorem State.group?_putGroup {src num : Nat} (hs : g.src = src) (hn : g.num = num) : (s.putGroup g).group? src num = some g := by
  subst hs hn
  have gone : (s.dropGroup g.src g.num).group? g.src g.num = none := (s.group?_dropGroup ..).trans (if_pos rfl)
  unfold State.group? at gone ⊢
  unfold State.putGroup
  rw [List.find?_append, gone]
  simp

/-- A group's entry freed. -/
theorem State.dropGroup_frame (s : State) (src num src' : Nat) : (s.dropGroup src num).flow? src' = s.flow? src' ∧
    ∃ F, s.dropGroup src num = { s with fab := F } := ⟨rfl, _, rfl⟩

theorem State.putGroup_frame (s : State) (g : CountGroup) (src : Nat) : (s.putGroup g).flow? src = s.flow? src ∧
    ∃ F, s.putGroup g = { s with fab := F } := ⟨rfl, _, rfl⟩

/-- The state in which the held SIGNAL of a whole group applies. -/
def State.groupDone (s : State) (p : Packet) (g : CountGroup) : State :=
  ((s.opened p).putGroup { g with held := some p }).dropGroup p.src p.group

theorem State.groupDone_frame (s : State) (p : Packet) (g : CountGroup) : (s.groupDone p g).flow? p.src = some (s.flowAt p) ∧
    (s.groupDone p g).group? p.src p.group = none ∧ ∃ F, s.groupDone p g = { s with fab := F } := by
  obtain ⟨flow, b, r, base⟩ := s.opened_frame p
  obtain ⟨flow₁, F₁, held⟩ := (s.opened p).putGroup_frame { g with held := some p } p.src
  obtain ⟨flow₂, F₂, freed⟩ := ((s.opened p).putGroup { g with held := some p }).dropGroup_frame p.src p.group p.src
  refine ⟨flow₂.trans (flow₁.trans flow), (State.group?_dropGroup ..).trans (if_pos rfl), F₂, ?_⟩
  rw [State.groupDone, freed, held, base]

/-- A group that is whole frees its entry and applies its SIGNAL. -/
theorem State.retest_whole {src num : Nat} {arrival : Bool} (found : s.group? src num = some g) (held : g.held = some p)
    (whole : g.arrivals = leAt p.payload 4 4) (unlisted : g.diacs = []) (ctx : s.peerCtx p = some n) :
    s.retest src num arrival = (s.dropGroup src num).applySignal p := by
  have ctx' : (s.dropGroup src num).peerCtx p = some n := ctx
  unfold State.retest
  rw [found]
  dsimp only
  rw [held]
  dsimp only
  rw [if_neg (by omega), if_neg (by omega), ctx']
  dsimp only
  exact if_pos (by rw [State.listedOk, unlisted]; rfl)

theorem State.applySignal_eq (ctx : s.peerCtx p = some n) (sem : s.peerSemOk p = true) :
    s.applySignal p = (s.semAdd (pktUnit p) (pktIndex p) (leAt p.payload 0 2)).noteDelivered p.src p.seq :=
  if_neg (by simp [ctx, sem])

/-! ## What a packet's effect on a semaphore leaves -/

/-- No answer is sent. -/
theorem State.unanswered (s : State) : ∃ o, s = { s with fab := { s.fab with outbox := o } } := ⟨s.fab.outbox, rfl⟩

/-- A packet taken whose effect reached only the listed registers. -/
structure State.PeerActed (offs : List Nat) (p : Packet) (s t : State) : Prop where
  took : t.Took p
  regs : s.RegsKept t offs
  insts : t.insts = s.insts
  stores : s.StoresKept t

/-- The effect and a NACK or none, on a state that differs in the fabric: its values stay when the packet is marked delivered. -/
theorem State.peerActed_noteDelivered {a b q : State} {f : RecvFlow} (base : ∃ F, a = { s with fab := F }) (found : a.flow? p.src = some f)
    (effect : State.SyncOnly offs a b) (answer : ∃ o, q = { b with fab := { b.fab with outbox := o } }) :
    State.PeerActed offs p s (q.noteDelivered p.src p.seq) ∧ (q.noteDelivered p.src p.seq).regs = b.regs ∧
    (q.noteDelivered p.src p.seq).fab.groups = a.fab.groups := by
  obtain ⟨F, rfl⟩ := base
  obtain ⟨o, rfl⟩ := answer
  have fab := effect.fab
  have found' : State.flow? { b with fab := { b.fab with outbox := o } } p.src = some f := by
    unfold State.flow? at found ⊢
    rw [fab]
    exact found
  obtain ⟨took, r, o', e⟩ := State.noteDelivered_frame _ found'
  refine ⟨⟨took, ?_, ?_, ?_⟩, ?_, ?_⟩ <;> rw [e]
  · exact effect.regs
  · exact effect.insts
  · exact effect.stores
  · rw [fab]

/-- An ADD, a SUB or a SET of a packet outside the count groups. -/
theorem State.peer_alone {kind : PKind} {go : State → Nat → State × Verdict} {b q : State} (h : s.Accepts p) (hk : p.kind = kind)
    (ctx : s.peerCtx p = some n) (alone : p.group = 0 ∨ p.kind = .cgCancel) (done : go (s.opened p) n = (q, .delivered))
    (effect : State.SyncOnly offs (s.opened p) b) (answer : ∃ o, q = { b with fab := { b.fab with outbox := o } }) :
    State.PeerActed offs p s (s.arriveReq kind p [] go) ∧ (s.arriveReq kind p [] go).regs = b.regs := by
  obtain ⟨act, same, e⟩ := State.arriveReq_eq h hk ctx go
  obtain ⟨found, _, _, base⟩ := s.opened_frame p
  rw [e, State.deliver_alone alone (same.trans done)]
  obtain ⟨acted, regs, -⟩ := State.peerActed_noteDelivered ⟨_, base⟩ found effect answer
  exact ⟨acted, regs⟩

/-- A packet whose semaphore its job owns, in the state in which it acts. -/
theorem State.peerSem_opened (s : State) (p : Packet) : (s.opened p).peerSemOk p = s.peerSemOk p ∧
    (s.opened p).targetAsleep p = s.targetAsleep p ∧ (s.opened p).ringOf (pktUnit p) (pktIndex p) = s.ringOf (pktUnit p) (pktIndex p) ∧
    (∀ u i, (s.opened p).semVal u i = s.semVal u i) ∧ ∀ d m, (s.opened p).sendRoom d m = s.sendRoom d m := by
  obtain ⟨-, b, r, e⟩ := s.opened_frame p
  rw [e]
  exact ⟨rfl, rfl, rfl, fun _ _ => rfl, fun _ _ => rfl⟩

theorem State.pktIndex_lt (sem : s.peerSemOk p = true) : pktIndex p < 8192 := by
  simp only [State.peerSemOk, Bool.and_eq_true, decide_eq_true_eq] at sem
  exact sem.1.2.trans_le (semCount_le _)

theorem leAt_lt (bs : List Byte) (o m : Nat) : leAt bs o m < 256 ^ m :=
  (leNat_lt _).trans_le (Nat.pow_le_pow_right (by decide) (by simp))

/-- The effect of a SIGNAL. -/
def signalEffect (p : Packet) (s : State) (_ : Nat) : State × Verdict :=
  if !s.peerSemOk p then (s, .refused 2)
  else if s.targetAsleep p then (s.wakeTarget p, .refused 3)
  else (s.semAdd (pktUnit p) (pktIndex p) (leAt p.payload 0 2), .delivered)

theorem State.onSignal_eq (s : State) (p : Packet) : s.onSignal p = s.arriveReq .signal p [] (signalEffect p) := rfl

section
variable (sem : s.peerSemOk p = true) (awake : s.targetAsleep p = false)
include sem awake

theorem State.signalEffect_opened (m : Nat) :
    signalEffect p (s.opened p) m = ((s.opened p).semAdd (pktUnit p) (pktIndex p) (leAt p.payload 0 2), .delivered) := by
  obtain ⟨sem', awake', -⟩ := s.peerSem_opened p
  unfold signalEffect
  rw [sem', awake', sem, awake]
  rfl

theorem State.onSignal_alone (h : s.Accepts p) (ctx : s.peerCtx p = some n) (hk : p.kind = .signal) (hg : p.group = 0) :
    State.PeerActed (semTouch (pktUnit p) (pktIndex p)) p s (s.onSignal p) ∧
    (s.onSignal p).semVal (pktUnit p) (pktIndex p) = min (s.semVal (pktUnit p) (pktIndex p) + leAt p.payload 0 2) (2 ^ 32 - 1) := by
  obtain ⟨-, -, -, val, -⟩ := s.peerSem_opened p
  rw [State.onSignal_eq]
  obtain ⟨acted, regs⟩ := State.peer_alone h hk ctx (.inl hg) (State.signalEffect_opened sem awake n)
    ((State.SyncOnly.refl _ _).semAdd (List.Subset.refl _) _) (State.unanswered _)
  refine ⟨acted, (State.semVal_congr regs ..).trans ?_⟩
  rw [State.semVal_semAdd _ (State.pktIndex_lt sem), val]

/-- The SIGNAL of a group that is whole: the group is freed, then the ADD. -/
theorem State.onSignal_whole (h : s.Accepts p) (ctx : s.peerCtx p = some n) (hk : p.kind = .signal) (hg : p.group ≠ 0)
    (open_ : s.group? p.src p.group = some g) (whole : g.arrivals = leAt p.payload 4 4) (unlisted : g.diacs = []) :
    s.onSignal p = ((s.groupDone p g).semAdd (pktUnit p) (pktIndex p) (leAt p.payload 0 2)).noteDelivered p.src p.seq := by
  obtain ⟨act, same, e⟩ := State.arriveReq_eq h hk ctx (signalEffect p)
  obtain ⟨-, b, r, base⟩ := s.opened_frame p
  obtain ⟨-, F, held⟩ := (s.opened p).putGroup_frame { g with held := some p } p.src
  obtain ⟨-, -, G, done⟩ := s.groupDone_frame p g
  obtain ⟨src, num⟩ : g.src = p.src ∧ g.num = p.group := by simpa using List.find?_some open_
  have found : (s.opened p).group? p.src p.group = some g := by rw [base]; exact open_
  have member : ((s.opened p).putGroup { g with held := some p }).peerCtx p = some n := by rw [held, base]; exact ctx
  calc s.onSignal p = (s.opened p).deliver p [] act := e
    _ = ((s.opened p).putGroup { g with held := some p }).retest p.src p.group true :=
      State.deliver_counted hk hg found (same.trans (State.signalEffect_opened sem awake n))
    _ = (s.groupDone p g).applySignal p := State.retest_whole (State.group?_putGroup src num) rfl whole unlisted member
    _ = _ := State.applySignal_eq (n := n) (by rw [done]; exact ctx) (by rw [done]; exact sem)

theorem State.onSignal_counted (h : s.Accepts p) (ctx : s.peerCtx p = some n) (hk : p.kind = .signal) (hg : p.group ≠ 0)
    (open_ : s.group? p.src p.group = some g) (whole : g.arrivals = leAt p.payload 4 4) (unlisted : g.diacs = []) :
    State.PeerActed (semTouch (pktUnit p) (pktIndex p)) p s (s.onSignal p) ∧
    (s.onSignal p).semVal (pktUnit p) (pktIndex p) = min (s.semVal (pktUnit p) (pktIndex p) + leAt p.payload 0 2) (2 ^ 32 - 1) ∧
    (s.onSignal p).group? p.src p.group = none := by
  obtain ⟨flow, gone, base⟩ := s.groupDone_frame p g
  rw [State.onSignal_whole sem awake h ctx hk hg open_ whole unlisted]
  generalize s.groupDone p g = q at flow gone base ⊢
  obtain ⟨acted, regs, groups⟩ := State.peerActed_noteDelivered base flow
    ((State.SyncOnly.refl (semTouch (pktUnit p) (pktIndex p)) q).semAdd (List.Subset.refl _) (leAt p.payload 0 2)) (State.unanswered _)
  obtain ⟨F, base⟩ := base
  have val : q.semVal (pktUnit p) (pktIndex p) = s.semVal (pktUnit p) (pktIndex p) := State.semVal_congr (by rw [base]) _ _
  refine ⟨acted, (State.semVal_congr regs ..).trans ?_, ?_⟩
  · rw [State.semVal_semAdd _ (State.pktIndex_lt sem), val]
  · unfold State.group? at gone ⊢
    rw [groups]
    exact gone

/-! SEM_OP by its operation (R462). -/

theorem State.peerSem_add (op : bits p.arg 19 3 = 0) :
    s.peerSem n p = (s.semAdd (pktUnit p) (pktIndex p) (leAt p.payload 0 4), .delivered) := by
  unfold State.peerSem
  simp [sem, awake, op]

theorem State.peerSem_sub (op : bits p.arg 19 3 = 1) (free : s.ringOf (pktUnit p) (pktIndex p) = none) :
    ∃ t o, s.peerSem n p = (t, .delivered) ∧
      t = { s.semPut (pktUnit p) (pktIndex p) (s.semVal (pktUnit p) (pktIndex p) - leAt p.payload 0 4) with
        fab := { (s.semPut (pktUnit p) (pktIndex p) (s.semVal (pktUnit p) (pktIndex p) - leAt p.payload 0 4)).fab with outbox := o } } := by
  have allowed : s.ringForbids (pktUnit p) (pktIndex p) 65536 false = false := by
    unfold State.ringForbids
    rw [free]
  have e : s.peerSem n p = (if s.semVal (pktUnit p) (pktIndex p) < leAt p.payload 0 4 then
      (s.semPut (pktUnit p) (pktIndex p) (s.semVal (pktUnit p) (pktIndex p) - leAt p.payload 0 4)).sendNack p 7
    else s.semPut (pktUnit p) (pktIndex p) (s.semVal (pktUnit p) (pktIndex p) - leAt p.payload 0 4), .delivered) := by
    unfold State.peerSem State.semSub
    simp [sem, awake, op, allowed]
  rw [e]
  split
  · obtain ⟨o, sent⟩ := State.sendRaw_eq _ (mkPkt .nack p.src 0 1 0 7 (leBytes 4 p.seq))
    exact ⟨_, o, rfl, sent⟩
  · exact ⟨_, _, rfl, rfl⟩

theorem State.peerSem_set (op : bits p.arg 19 3 = 4) :
    s.peerSem n p = (s.semPut (pktUnit p) (pktIndex p) (leAt p.payload 0 4), .delivered) := by
  unfold State.peerSem
  simp [sem, awake, op]

theorem State.peerSem_read (op : bits p.arg 19 3 = 5) (back : leAt p.payload 0 6 ≠ 0) (room : s.sendRoom p.src 1 = true) :
    s.peerSem n p =
      (s.sendSeq none 0 (mkPkt .readRsp p.src p.job 1 (leAt p.payload 0 6) p.seq (leBytes 4 (s.semVal (pktUnit p) (pktIndex p)))), .delivered) := by
  unfold State.peerSem
  simp [sem, awake, op, back, room]

end

/-- A SEM_OP that leaves the value `x`: the packet acted, and no register but the semaphore's changed. -/
theorem State.onSemOp_put {x : Nat} {b q : State} (h : s.Accepts p) (ctx : s.peerCtx p = some n) (hk : p.kind = .semOp) (hg : p.group = 0)
    (done : (s.opened p).peerSem n p = (q, .delivered)) (effect : State.SyncOnly (semTouch (pktUnit p) (pktIndex p)) (s.opened p) b)
    (answer : ∃ o, q = { b with fab := { b.fab with outbox := o } }) (val : b.semVal (pktUnit p) (pktIndex p) = x) :
    ∃ t, act (.semOp p) (s.onSemOp p) = .next t ∧ t.Took p ∧ t.semVal (pktUnit p) (pktIndex p) = x ∧
      s.RegsKept t (semTouch (pktUnit p) (pktIndex p)) ∧ s.StoresKept t := by
  obtain ⟨acted, regs⟩ := State.peer_alone (go := fun s n => s.peerSem n p) h hk ctx (.inl hg) done effect answer
  exact ⟨_, act_of_wf (by exact h.fields) _, acted.took, (State.semVal_congr regs ..).trans val, acted.regs, acted.stores⟩

theorem State.outTo_congr_send (h : t.fab.send = s.fab.send) (d : Nat) : t.outTo d = s.outTo d := by
  unfold State.outTo State.sendFlow
  rw [h]

/-- A packet taken that is answered by one of this device's own. -/
theorem State.peer_answered {kind : PKind} {go : State → Nat → State × Verdict} {q : Packet} {die : Nat} (h : s.Accepts p) (hk : p.kind = kind)
    (ctx : s.peerCtx p = some n) (alone : p.group = 0) (done : go (s.opened p) n = ((s.opened p).sendSeq none die q, .delivered)) :
    (s.arriveReq kind p [] go).Took p ∧ (s.arriveReq kind p [] go).regs = s.regs ∧ s.StoresKept (s.arriveReq kind p [] go) ∧
    s.Sent (s.arriveReq kind p [] go) [q] := by
  obtain ⟨act, same, e⟩ := State.arriveReq_eq h hk ctx go
  obtain ⟨found, b, r, base⟩ := s.opened_frame p
  have sent := (s.opened p).sent_sendSeq none die q
  obtain ⟨f, o, sends⟩ := (s.opened p).sendSeq_eq none die q
  have found' : ((s.opened p).sendSeq none die q).flow? p.src = some (s.flowAt p) := by rw [sends]; exact found
  obtain ⟨took, r', o', noted⟩ := State.noteDelivered_frame _ found'
  rw [e, State.deliver_alone (.inl alone) (same.trans done)]
  have kept : ∃ F, ((s.opened p).sendSeq none die q).noteDelivered p.src p.seq = { s with fab := F } := by
    rw [noted, sends, base]
    exact ⟨_, rfl⟩
  refine ⟨took, ?_, ?_, fun d => ?_⟩
  · obtain ⟨F, e⟩ := kept
    rw [e]
  · obtain ⟨F, e⟩ := kept
    rw [e]
    exact State.storesKept_of_eq rfl rfl rfl
  · rw [State.outTo_congr_send (s := (s.opened p).sendSeq none die q) (by rw [noted]), sent d, State.outTo_congr_send (s := s) (t := s.opened p) (by rw [base])]

/-- CG_CANCEL frees its group and no other. -/
theorem State.onCgCancel_acted (h : s.Accepts p) (hk : p.kind = .cgCancel) (ctx : s.peerCtx p = some n) :
    State.PeerActed [] p s (s.onCgCancel p) ∧ (s.onCgCancel p).regs = s.regs ∧
    ∀ src num, (s.onCgCancel p).group? src num = if (src, num) = (p.src, p.group) then none else s.group? src num := by
  obtain ⟨act, same, e⟩ := State.arriveReq_eq h hk ctx fun s _ => (s.dropGroup p.src p.group, .delivered)
  obtain ⟨found, b, r, base⟩ := s.opened_frame p
  have run : s.onCgCancel p = ((s.opened p).dropGroup p.src p.group).noteDelivered p.src p.seq := e.trans (State.deliver_alone (.inr hk) same)
  obtain ⟨acted, regs, groups⟩ := State.peerActed_noteDelivered (s := s) (a := (s.opened p).dropGroup p.src p.group) ⟨_, by rw [base]; rfl⟩ found
    (State.SyncOnly.refl [] _) (State.unanswered _)
  rw [run]
  refine ⟨acted, regs.trans (by rw [base]; rfl), fun src num => ?_⟩
  have kept : (s.opened p).group? src num = s.group? src num := by rw [base]; rfl
  have freed := (s.opened p).group?_dropGroup p.src p.group src num
  rw [kept] at freed
  rw [← freed]
  unfold State.group?
  rw [groups]

/-- Settles O50: a SIGNAL adds at once or with its group, a SEM_OP does its operation, a CG_CANCEL frees its group. -/
theorem peerSemaphoreOperations : Obligations.PeerSemaphoreOperations := by
  unfold Obligations.PeerSemaphoreOperations
  intro s p n h ctx u i v inc a op
  obtain ⟨sem', awake', ring', val, room'⟩ := s.peerSem_opened p
  have small : s.peerSemOk p = true → i < 8192 := State.pktIndex_lt
  refine ⟨fun sem awake => ⟨fun hk hg => ?signal, fun g hk hg open_ whole unlisted => ?counted,
    fun hk hg => ⟨fun hop => ?add, fun hop free => ?sub, fun hop => ?set, fun hop back room => ?read⟩⟩, fun hk => ?cancel⟩
  case signal =>
    obtain ⟨acted, val⟩ := State.onSignal_alone sem awake h ctx hk hg
    exact ⟨_, act_of_wf (by exact h.fields) _, acted.took, val, acted.regs, acted.stores, acted.insts⟩
  case counted =>
    obtain ⟨acted, val, gone⟩ := State.onSignal_counted sem awake h ctx hk hg open_ whole unlisted
    exact ⟨_, act_of_wf (by exact h.fields) _, acted.took, val, acted.regs, gone, acted.stores⟩
  case add =>
    refine State.onSemOp_put h ctx hk hg (State.peerSem_add (sem'.trans sem) (awake'.trans awake) hop)
      ((State.SyncOnly.refl _ _).semAdd (List.Subset.refl _) a) (State.unanswered _) ?_
    rw [State.semVal_semAdd a (small sem), val]
  case sub =>
    obtain ⟨t, o, done, e⟩ := State.peerSem_sub (n := n) (sem'.trans sem) (awake'.trans awake) hop (ring'.trans free)
    refine State.onSemOp_put h ctx hk hg done ((State.SyncOnly.refl _ _).semPut (List.Subset.refl _) _) ⟨o, e⟩ ?_
    have bound : (s.opened p).semVal u i < 2 ^ 32 := BitVec.isLt _
    rw [State.semVal_semPut (small sem) ((Nat.sub_le ..).trans_lt bound), val]
  case set =>
    exact State.onSemOp_put h ctx hk hg (State.peerSem_set (sem'.trans sem) (awake'.trans awake) hop)
      ((State.SyncOnly.refl _ _).semPut (List.Subset.refl _) a) (State.unanswered _) (State.semVal_semPut (small sem) (leAt_lt ..))
  case read =>
    have done := State.peerSem_read (n := n) (sem'.trans sem) (awake'.trans awake) hop back ((room' ..).trans room)
    rw [val] at done
    obtain ⟨took, regs, stores, sent⟩ := State.peer_answered (go := fun s n => s.peerSem n p) h hk ctx hg done
    exact ⟨_, act_of_wf (by exact h.fields) _, took, regs, stores, sent⟩
  case cancel =>
    obtain ⟨acted, regs, groups⟩ := State.onCgCancel_acted h hk ctx
    exact ⟨_, act_of_wf (by exact h.fields) _, acted.took, (groups ..).trans (if_pos rfl), regs, fun src num other => (groups src num).trans (if_neg other),
      acted.stores⟩

end Sys2Proof.Machine
end

section
/-! PROOFS, family 10_gradient_exchange: a packet outside the count groups, and several packets sent at once. -/
namespace Sys2Proof.Machine
variable {s u : State} {p : Packet} {n : Nat}

/-! ## A packet outside the count groups (R597 to R599) -/

/-- What a packet lists joins its count group only. -/
theorem State.deliver_ungrouped (hg : p.group = 0) (l : List (Nat × Nat × Nat × Word)) (go : State → State × Verdict) :
    s.deliver p l go = s.deliver p [] go := by
  unfold State.deliver
  dsimp only
  split
  · rfl
  · split
    · rfl
    · split
      · rfl
      · rfl
      · rw [if_pos (.inl hg), if_pos (.inl hg)]

theorem State.arrive_ungrouped (hg : p.group = 0) (kind : PKind) (l : List (Nat × Nat × Nat × Word)) (go : State → State × Verdict) :
    s.arrive kind p l go = s.arrive kind p [] go := by
  unfold State.arrive State.takeSeq
  dsimp only
  simp only [State.deliver_ungrouped hg l]

/-- A packet marked delivered in `t` after it acted in `u`: `t` is `u` but for receive flows and acknowledgements. -/
structure State.Marked (p : Packet) (u t : State) : Prop where
  took : t.Took p
  rest : ∃ r o, t = { u with fab := { u.fab with recv := r, outbox := o } }

/-- An accepted packet of no group acts on the state in which it finds its flow open, and is marked delivered. -/
theorem State.arrive_marked {kind : PKind} {l : List (Nat × Nat × Nat × Word)} {go : State → State × Verdict} (h : s.Accepts p)
    (hk : p.kind = kind) (alone : p.group = 0) (done : go (s.opened p) = (u, .delivered)) (recv : u.fab.recv = (s.opened p).fab.recv) :
    State.Marked p u (s.arrive kind p l go) := by
  obtain ⟨found, -⟩ := s.opened_frame p
  have found' : u.flow? p.src = some (s.flowAt p) := by
    unfold State.flow? at *
    rw [recv]
    exact found
  rw [State.arrive_ungrouped alone, State.arrive_eq h hk, State.deliver_alone (.inl alone) done]
  obtain ⟨took, r, o, e⟩ := State.noteDelivered_frame _ found'
  exact ⟨took, r, o, e⟩

/-- The same with the context that a request's checks find (R797). -/
theorem State.arriveReq_marked {kind : PKind} {l : List (Nat × Nat × Nat × Word)} {go : State → Nat → State × Verdict} (h : s.Accepts p)
    (hk : p.kind = kind) (alone : p.group = 0) (ctx : s.peerCtx p = some n) (done : go (s.opened p) n = (u, .delivered))
    (recv : u.fab.recv = (s.opened p).fab.recv) : State.Marked p u (s.arriveReq kind p l go) := by
  refine State.arrive_marked h hk alone ?_ recv
  obtain ⟨-, b, r, e⟩ := s.opened_frame p
  have ctx' : (s.opened p).peerCtx p = some n := by rw [e]; exact ctx
  rw [ctx']
  exact done

theorem State.Marked.keeps {t : State} (h : State.Marked p u t) : t.mem = u.mem ∧ t.diacs = u.diacs ∧ t.poison = u.poison ∧ t.regs = u.regs ∧
    t.insts = u.insts ∧ t.fab.windows = u.fab.windows ∧ t.fab.queries = u.fab.queries ∧ ∀ d, t.outTo d = u.outTo d := by
  obtain ⟨r, o, rfl⟩ := h.rest
  exact ⟨rfl, rfl, rfl, rfl, rfl, rfl, rfl, fun _ => rfl⟩

/-! ## Packets sent one after another -/

/-- Packets numbered in their flows one after another: all are sent, and nothing but send flows and the outbox changes. -/
theorem State.foldl_sendSeq {α : Type} (s : State) (o : Option Nat) (die : Nat) (f : α → Packet) (l : List α) :
    s.Sent (l.foldl (fun s a => s.sendSeq o die (f a)) s) (l.map f) ∧
    ∃ g b, l.foldl (fun s a => s.sendSeq o die (f a)) s = { s with fab := { s.fab with send := g, outbox := b } } := by
  induction l generalizing s with
  | nil => exact ⟨.refl s, s.fab.send, s.fab.outbox, rfl⟩
  | cons a l ih =>
    obtain ⟨g, b, e⟩ := s.sendSeq_eq o die (f a)
    obtain ⟨sent, g', b', e'⟩ := ih (s.sendSeq o die (f a))
    refine ⟨(s.sent_sendSeq o die (f a)).trans sent, g', b', ?_⟩
    rw [List.foldl_cons, e', e]

end Sys2Proof.Machine
end

section
/-! PROOFS, family 10_gradient_exchange: bytes and Diacritics of HBM that a peer reaches (O49). -/
namespace Sys2Proof.Machine
variable {s : State} {n a len : Nat}

/-! ## HBM data that a peer names (R625, R797) -/

theorem State.place_hbm_iff (s : State) (a : Nat) :
    (∃ o, s.place a = .hbm o) ↔ hbmBase ≤ a ∧ a < hbmBase + s.dataBytes ∧ ¬(hostBit ≤ a ∧ a < 2 * hostBit) := by
  unfold State.place
  have base : hbmBase = 0x10000000000 := rfl
  have host : hostBit = 2 ^ 47 := rfl
  split
  · simp; omega
  · split
    · split <;> simp <;> omega
    · split
      · simp; omega
      · split
        · simp; omega
        · simp; omega

/-- A range that lies in HBM data, below the addresses of host memory. -/
def State.AllHbm (s : State) (a len : Nat) : Prop := ∀ c, a ≤ c → c < a + max 1 len → hbmBase ≤ c ∧ c < hostBit ∧ ∃ o, s.place c = .hbm o

/-- What a peer may reach lies in HBM data. -/
theorem State.allHbm_of_peerOk {b : Nat} (h : s.peerOk n b a len = true) (ha : a < 2 ^ 48) (hl : len ≤ 2 ^ 32) : s.AllHbm a len := by
  have host : hostBit = 2 ^ 47 := rfl
  unfold State.peerOk at h
  split at h
  · rename_i o first
    simp only [Bool.and_eq_true] at h
    have last : ∃ o, s.place (a + (max 1 len - 1)) = .hbm o := by
      have mapped := h.1.1
      cases hlast : s.place (a + (max 1 len - 1)) with
      | hbm o => exact ⟨o, rfl⟩
      | _ => simp [State.mapped, first, hlast] at mapped
    obtain ⟨h1, h2, h3⟩ := (s.place_hbm_iff a).1 ⟨o, first⟩
    obtain ⟨h4, h5, h6⟩ := (s.place_hbm_iff _).1 last
    intro c hc hc'
    refine ⟨by omega, by omega, (s.place_hbm_iff c).2 ⟨by omega, by omega, by omega⟩⟩
  · cases h

/-! ## Bytes of a context without checkpoint regions -/

theorem State.regionAt_none (hr : s.regions n = []) (a : Nat) : s.regionAt n a = none := by
  unfold State.regionAt
  rw [hr]
  exact ite_keeps (P := fun r : Option Region => r = none) rfl rfl

theorem State.physRead_plain (hr : s.regions n = []) (a : Nat) : s.physRead (some n) a = a := by
  unfold State.physRead
  dsimp only
  rw [State.regionAt_none hr]

theorem State.jnlRoom_plain (hr : s.regions n = []) (l : List (Nat × Nat)) : s.jnlRoom n l = true := by
  unfold State.jnlRoom State.jnlNeed
  simp [State.regionAt_none hr]

theorem State.AllHbm.direct (h : s.AllHbm a len) (hr : s.regions n = []) : s.Direct n a len := by
  have base : hbmBase = 0x10000000000 := rfl
  refine ⟨?_, fun p hp => ⟨State.regionAt_none hr _, ?_⟩⟩
  · have := (h a (Nat.le_refl a) (by omega)).1
    omega
  · have inside := granPieces_inside hp
    by_cases hlen : len = 0
    · simp [granPieces, hlen] at hp
    · have : p.2 ≠ 0 := by
        unfold granPieces at hp
        rw [if_neg hlen] at hp
        obtain ⟨g, hg, rfl⟩ := List.mem_map.1 hp
        rw [mem_upto] at hg
        dsimp only
        omega
      obtain ⟨-, -, o, e⟩ := h p.1 inside.1 (by omega)
      rw [e]
      nofun

/-- A range is the concatenation of its pieces. -/
theorem granPieces_flatMap {β : Type} (f : Nat → β) (a n : Nat) :
    ((granPieces a n).flatMap fun p => (List.range p.2).map fun i => f (p.1 + i)) = (List.range n).map fun i => f (a + i) := by
  unfold granPieces
  split
  · simp [*]
  · have first : ∀ j, ((upto (a / 1024) j).map fun g => (max a (1024 * g), min (a + n) (1024 * g + 1024) - max a (1024 * g))).flatMap
        (fun p => (List.range p.2).map fun i => f (p.1 + i)) = (List.range (min (a + n) (1024 * (a / 1024 + j)) - a)).map fun i => f (a + i) := fun j => by
      induction j with
      | zero =>
        have : min (a + n) (1024 * (a / 1024 + 0)) - a = 0 := by omega
        rw [this]
        rfl
      | succ j ih =>
        simp only [upto, List.range_succ, List.map_append, List.flatMap_append, List.map_cons, List.map_nil, List.flatMap_cons, List.flatMap_nil,
          List.append_nil] at ih ⊢
        rw [ih]
        generalize hlo : max a (1024 * (a / 1024 + j)) = lo
        generalize hk : min (a + n) (1024 * (a / 1024 + j) + 1024) - lo = k
        by_cases past : a + n ≤ 1024 * (a / 1024 + j)
        · rw [show k = 0 by omega, show min (a + n) (1024 * (a / 1024 + (j + 1))) - a = min (a + n) (1024 * (a / 1024 + j)) - a by omega]
          simp
        · rw [show min (a + n) (1024 * (a / 1024 + (j + 1))) - a = (min (a + n) (1024 * (a / 1024 + j)) - a) + k by omega, List.range_add,
            List.map_append, List.map_map]
          refine congrArg (_ ++ ·) (List.map_congr_left fun i _ => congrArg f ?_)
          dsimp only
          omega
    refine (first _).trans ?_
    rw [show min (a + n) (1024 * (a / 1024 + ((a + n - 1) / 1024 + 1 - a / 1024))) - a = n by omega]

/-- A context without regions reads the bytes at their addresses. -/
theorem State.rd_plain (hm : s.memOk = true) (hr : s.regions n = []) (h : s.AllHbm a len) : s.rd (some n) a len = memRead s.mem a len := by
  have wf := ((State.memOk_iff s).1 hm).1
  have piece : ∀ p ∈ granPieces a len, s.rdPiece (some n) p.1 p.2 = (List.range p.2).map fun i => memByte s.mem (p.1 + i) := fun p hp => by
    have direct := (h.direct hr).2 p hp
    have inside := granPieces_inside hp
    have low := State.place_ne_reg (s := s) ((h.direct hr).1.trans inside.1)
    unfold State.rdPiece
    split
    · exact absurd ‹_› (low _)
    · exact absurd ‹_› direct.2
    · rw [State.physRead_plain hr, memRead_eq wf]
  unfold State.rd
  rw [List.flatMap_congr piece, granPieces_flatMap, memRead_eq wf]

/-! ## Diacritics -/

theorem State.setDiac_plain (hr : s.regions n = []) (host : isHost a = false) (v : Word) : s.setDiac n a v = s.setDiacPhys a v := by
  rw [State.setDiac_local host, State.physRead_plain hr]

theorem State.diac_plain (hr : s.regions n = []) (host : isHost a = false) : s.diac n a = s.diacPhys a := by
  unfold State.diac
  rw [if_neg (by simp [host]), State.physRead_plain hr]

theorem State.AllHbm.not_host (h : s.AllHbm a len) {c : Nat} (h1 : a ≤ c) (h2 : c < a + max 1 len) : isHost c = false :=
  decide_eq_false (Nat.not_le.2 (h c h1 h2).2.1)

/-- Diacritics of distinct granules stored one after another: each reads back, and those of other granules are as before. -/
theorem State.foldl_setDiac (l : List (Nat × Nat × Nat × Word)) (hm : s.memOk = true) (hr : s.regions n = [])
    (host : ∀ d ∈ l, isHost d.1 = false) (apart : l.Pairwise fun d e => d.1 / 1024 ≠ e.1 / 1024) :
    (∃ D, l.foldl (fun s d => s.setDiac n d.1 d.2.2.2) s = { s with diacs := D }) ∧
    (∀ d ∈ l, (l.foldl (fun s d => s.setDiac n d.1 d.2.2.2) s).diacPhys d.1 = d.2.2.2) ∧
    ∀ a, (∀ d ∈ l, a / 1024 ≠ d.1 / 1024) → (l.foldl (fun s d => s.setDiac n d.1 d.2.2.2) s).diacPhys a = s.diacPhys a := by
  induction l generalizing s with
  | nil => exact ⟨⟨s.diacs, rfl⟩, nofun, fun _ _ => rfl⟩
  | cons d l ih =>
    rw [List.pairwise_cons] at apart
    have one := State.setDiac_plain hr (host d List.mem_cons_self) d.2.2.2
    obtain ⟨⟨D, e⟩, own, others⟩ := @ih (s.setDiacPhys d.1 d.2.2.2) (State.memOk_setDiacPhys hm _ _) hr
      (fun d hd => host d (List.mem_cons_of_mem _ hd)) apart.2
    rw [List.foldl_cons, one]
    refine ⟨⟨D, e⟩, fun c hc => ?_, fun a ha => ?_⟩
    · rcases List.mem_cons.1 hc with rfl | hc
      · rw [others c.1 apart.1, State.diacPhys_setDiacPhys hm, if_pos rfl]
      · exact own c hc
    · rw [others a fun c hc => ha c (List.mem_cons_of_mem _ hc), State.diacPhys_setDiacPhys hm, if_neg (ha d List.mem_cons_self)]

end Sys2Proof.Machine
end

section
/-! PROOFS, family 10_gradient_exchange: packets of a peer that read or write (O49). -/
namespace Sys2Proof.Machine
variable {s u t : State} {p : Packet} {n : Nat}

/-! ## WRITE (R581, R599) -/

theorem State.peerWrite_plain {a : Nat} {bs : List Byte} (hm : s.memOk = true) (hr : s.regions n = []) (ok : s.peerOk n 3 a bs.length = true)
    (hbm : s.AllHbm a bs.length) : ∃ q w, s.peerWrite n a bs = ({ s with mem := memWrite s.mem a bs, poison := q, wc := w }, .delivered) := by
  obtain ⟨q, w, e⟩ := State.wr_direct hm (hbm.direct hr)
  refine ⟨q, w, ?_⟩
  unfold State.peerWrite
  rw [if_neg (by simp [ok]), if_neg (by simp [State.jnlRoom_plain hr]), e]

theorem onWrite_acts (hm : s.memOk = true) (h : s.Accepts p) (alone : p.group = 0) (ctx : s.peerCtx p = some n) (hr : s.regions n = [])
    (hk : p.kind = .write) (ok : s.peerOk n 3 p.addr p.payload.length = true) (hbm : s.AllHbm p.addr p.payload.length) :
    (s.onWrite p).Took p ∧ memRead (s.onWrite p).mem p.addr p.payload.length = p.payload ∧
      s.BytesKept (s.onWrite p) [(p.addr, p.payload.length)] ∧ (s.onWrite p).diacs = s.diacs ∧ (s.onWrite p).regs = s.regs ∧
      (s.onWrite p).insts = s.insts := by
  have wf := ((State.memOk_iff s).1 hm).1
  obtain ⟨-, b, r, base⟩ := s.opened_frame p
  obtain ⟨q, w, done⟩ := State.peerWrite_plain (s := s.opened p) (by rw [base]; exact hm) (by rw [base]; exact hr) (by rw [base]; exact ok)
    (by rw [base]; exact hbm)
  have marked : State.Marked p _ (s.onWrite p) := State.arriveReq_marked h hk alone ctx done rfl
  obtain ⟨mem, diacs, -, regs, insts, -⟩ := marked.keeps
  rw [base] at mem diacs regs insts
  refine ⟨marked.took, ?_, fun c hc => ?_, diacs, regs, insts⟩ <;> rw [mem]
  · exact memRead_memWrite_same wf _ _
  · have away := hc _ (List.mem_singleton_self _)
    exact (memByte_memWrite wf _ _ c).trans (if_neg (by omega))

/-! ## READ_REQ and READ_RSP (R581; log entry 28) -/

theorem State.sent_opened {pk : List Packet} (h : (s.opened p).Sent u pk) : s.Sent u pk := by
  obtain ⟨-, b, r, base⟩ := s.opened_frame p
  exact fun d => (h d).trans (by rw [State.outTo_congr_send (s := s) (t := s.opened p) (by rw [base])])

theorem State.Marked.sent {pk : List Packet} (h : State.Marked p u t) (g : s.Sent u pk) : s.Sent t pk := fun d => by
  obtain ⟨-, -, -, -, -, -, -, out⟩ := h.keeps
  rw [out, g d]

/-- The effect of a READ_REQ. -/
def readReqEffect (p : Packet) (s : State) (n : Nat) : State × Verdict :=
  let back := leAt p.payload 0 6
  let len := leAt p.payload 8 4
  if len = 0 ∨ 65536 < len ∨ !s.peerOk n 2 p.addr len then (s, .refused 2)
  else if s.rdPoison (some n) p.addr len then (s.logPoison (some n) p.job [(p.addr, len)], .refused 5)
  else if !s.sendRoom p.src (cdiv len 512) then (s, .refused 3)
  else (s.sendReadRsp p back (s.rd (some n) p.addr len), .delivered)

theorem State.onReadReq_eq (s : State) (p : Packet) : s.onReadReq p = s.arriveReq .readReq p [] (readReqEffect p) := rfl

/-- The READ_RSP packets that bring `bs` to the address `back` of the device that asked. -/
def readRsps (p : Packet) (back : Nat) (bs : List Byte) : List Packet :=
  ((pieces 512 bs).zipIdx).map fun b => mkPkt .readRsp p.src p.job 1 (back + 512 * b.2) p.arg b.1

theorem State.readReqEffect_plain {len : Nat} (hm : s.memOk = true) (hr : s.regions n = []) (hlen : leAt p.payload 8 4 = len)
    (some_ : 0 < len) (few : len ≤ 65536) (ok : s.peerOk n 2 p.addr len = true) (clean : s.rdPoison (some n) p.addr len = false)
    (room : s.sendRoom p.src (cdiv len 512) = true) (hbm : s.AllHbm p.addr len) :
    readReqEffect p s n = (s.sendReadRsp p (leAt p.payload 0 6) (memRead s.mem p.addr len), .delivered) := by
  unfold readReqEffect
  dsimp only
  rw [hlen, if_neg (by simp [ok]; omega), if_neg (by simp [clean]), if_neg (by simp [room]), State.rd_plain hm hr hbm]

theorem onReadReq_answers {len : Nat} (hm : s.memOk = true) (h : s.Accepts p) (alone : p.group = 0) (ctx : s.peerCtx p = some n)
    (hr : s.regions n = []) (hk : p.kind = .readReq) (hlen : leAt p.payload 8 4 = len) (some_ : 0 < len) (few : len ≤ 65536)
    (ok : s.peerOk n 2 p.addr len = true) (clean : s.rdPoison (some n) p.addr len = false) (room : s.sendRoom p.src (cdiv len 512) = true)
    (hbm : s.AllHbm p.addr len) :
    (s.onReadReq p).Took p ∧ (s.onReadReq p).regs = s.regs ∧ (s.onReadReq p).insts = s.insts ∧ s.StoresKept (s.onReadReq p) ∧
      s.Sent (s.onReadReq p) (readRsps p (leAt p.payload 0 6) (memRead s.mem p.addr len)) := by
  obtain ⟨-, b, r, base⟩ := s.opened_frame p
  have done := State.readReqEffect_plain (s := s.opened p) (p := p) (n := n) (by rw [base]; exact hm) (by rw [base]; exact hr) hlen some_ few
    (by rw [base]; exact ok) (by rw [base]; exact clean) (by rw [base]; exact room) (by rw [base]; exact hbm)
  rw [show (s.opened p).mem = s.mem by rw [base]] at done
  obtain ⟨sent, g, o, e⟩ := (s.opened p).foldl_sendSeq none 0 (fun b : List Byte × Nat =>
    mkPkt .readRsp p.src p.job 1 (leAt p.payload 0 6 + 512 * b.2) p.arg b.1) ((pieces 512 (memRead s.mem p.addr len)).zipIdx)
  have frame : (s.opened p).sendReadRsp p (leAt p.payload 0 6) (memRead s.mem p.addr len) = _ := e
  have marked : State.Marked p _ (s.onReadReq p) := State.arriveReq_marked h hk alone ctx done (by rw [frame])
  obtain ⟨mem, diacs, poison, regs, insts, -⟩ := marked.keeps
  rw [frame, base] at mem diacs poison regs insts
  exact ⟨marked.took, regs, insts, State.storesKept_of_eq mem diacs poison, marked.sent (State.sent_opened sent)⟩

/-- A READ_RSP finds the descriptor that asked for its bytes and stages them there. -/
theorem State.takeRsp_asked {x : Inst} (found : (s.insts.find? fun x => (x.phase == .started || x.phase == .done) && decide (x.id % 2 ^ 32 = p.arg) &&
      x.askedFor (p.src * 2 ^ 48 + p.addr) p.payload.length) = some x) :
    s.takeRsp p = s.modInst x.id fun y =>
      { y with staged := memWrite y.staged (p.src * 2 ^ 48 + p.addr) p.payload, awaiting := y.awaiting - p.payload.length } := by
  unfold State.takeRsp
  dsimp only
  rw [found]

theorem onReadRsp_stages {x : Inst} (h : s.Accepts p) (alone : p.group = 0) (hk : p.kind = .readRsp)
    (found : (s.insts.find? fun x => (x.phase == .started || x.phase == .done) && decide (x.id % 2 ^ 32 = p.arg) &&
      x.askedFor (p.src * 2 ^ 48 + p.addr) p.payload.length) = some x) (hx : s.inst? x.id = some x) (staged : Memory.wf x.staged = true) :
    ∃ y, (s.onReadRsp p).Took p ∧ (s.onReadRsp p).inst? x.id = some y ∧
      memRead y.staged (p.src * 2 ^ 48 + p.addr) p.payload.length = p.payload ∧ y.awaiting = x.awaiting - p.payload.length ∧
      (s.onReadRsp p).regs = s.regs ∧ s.StoresKept (s.onReadRsp p) := by
  obtain ⟨-, b, r, base⟩ := s.opened_frame p
  have same : (s.opened p).insts = s.insts := by rw [base]
  have taken := State.takeRsp_asked (s := s.opened p) (p := p) (by rw [same]; exact found)
  have here := State.inst?_modInst ((State.inst?_congr same x.id).trans hx) (f := fun y : Inst =>
    { y with staged := memWrite y.staged (p.src * 2 ^ 48 + p.addr) p.payload, awaiting := y.awaiting - p.payload.length }) fun _ => rfl
  have marked : State.Marked p _ (s.onReadRsp p) := State.arrive_marked h hk alone rfl (by rw [taken]; rfl)
  obtain ⟨mem, diacs, poison, regs, insts, -⟩ := marked.keeps
  rw [taken] at mem diacs poison regs insts
  rw [base] at mem diacs poison regs
  exact ⟨_, marked.took, (State.inst?_congr insts x.id).trans here, memRead_memWrite_same staged _ _, rfl, regs,
    State.storesKept_of_eq mem diacs poison⟩

/-! ## DIAC (R581, R608) -/

/-- The granules that a DIAC lists follow one another. -/
theorem diacList_apart (p : Packet) : (diacList p).Pairwise fun d e => d.1 / 1024 ≠ e.1 / 1024 := by
  rw [List.pairwise_iff_getElem]
  intro i j hi hj hij
  simp only [diacList, List.getElem_map, List.getElem_zipIdx]
  omega

theorem mem_diacList {d : Nat × Nat × Nat × Word} (h : d ∈ diacList p) : p.addr ≤ d.1 ∧ d.1 < p.addr + 1024 * (diacList p).length := by
  obtain ⟨i, hi, rfl⟩ := List.mem_iff_getElem.1 h
  simp only [diacList, List.getElem_map, List.getElem_zipIdx]
  simp only [diacList, List.length_map, List.length_zipIdx] at hi ⊢
  omega

theorem onDiac_acts (hm : s.memOk = true) (h : s.Accepts p) (alone : p.group = 0) (ctx : s.peerCtx p = some n) (hr : s.regions n = [])
    (hk : p.kind = .diac) (ok : s.peerOk n 3 p.addr (1024 * (diacList p).length) = true) (hbm : s.AllHbm p.addr (1024 * (diacList p).length)) :
    (s.onDiac p).Took p ∧ (∀ d ∈ diacList p, (s.onDiac p).diacPhys d.1 = d.2.2.2) ∧
      (∀ a, (∀ d ∈ diacList p, a / 1024 ≠ d.1 / 1024) → (s.onDiac p).diacPhys a = s.diacPhys a) ∧ (s.onDiac p).mem = s.mem ∧
      (s.onDiac p).regs = s.regs := by
  obtain ⟨-, b, r, base⟩ := s.opened_frame p
  have ok' : (s.opened p).peerOk n 3 p.addr (1024 * (diacList p).length) = true := by rw [base]; exact ok
  obtain ⟨⟨D, e⟩, own, others⟩ := State.foldl_setDiac (s := s.opened p) (n := n) (diacList p) (by rw [base]; exact hm) (by rw [base]; exact hr)
    (fun d hd => hbm.not_host (mem_diacList hd).1 (by have := (mem_diacList hd).2; omega)) (diacList_apart p)
  have marked : State.Marked p ((diacList p).foldl (fun s d => s.setDiac n d.1 d.2.2.2) (s.opened p)) (s.onDiac p) :=
    State.arriveReq_marked h hk alone ctx (if_neg (by simp [ok'])) (by rw [e])
  obtain ⟨mem, diacs, -, regs, -⟩ := marked.keeps
  have same : ∀ a, (s.onDiac p).diacPhys a = ((diacList p).foldl (fun s d => s.setDiac n d.1 d.2.2.2) (s.opened p)).diacPhys a := fun a => by
    unfold State.diacPhys
    rw [diacs]
  have before : ∀ a, (s.opened p).diacPhys a = s.diacPhys a := fun a => by rw [base]; rfl
  rw [e, base] at mem regs
  exact ⟨marked.took, fun d hd => (same _).trans (own d hd), fun a ha => (same a).trans ((others a ha).trans (before a)), mem, regs⟩

/-! ## PARITY (R560) -/

/-- A delta at a line of a context without regions: the line's bytes, and the Diacritic of its granule. -/
theorem State.applyDelta_plain {a : Nat} {d : List Byte} (hm : s.memOk = true) (hr : s.regions n = []) (hbm : s.AllHbm a d.length) :
    ∃ q w, s.applyDelta n a d = State.setDiacPhys { s with mem := memWrite s.mem a (xorBytes (memRead s.mem a d.length) d), poison := q, wc := w }
      (a / 1024 * 1024) (s.diacPhys a ^^^ deltaCrc (a % 1024) d) := by
  have wf := ((State.memOk_iff s).1 hm).1
  have base : hbmBase = 1024 * 0x40000000 := rfl
  have top : hostBit = 2 ^ 47 := rfl
  obtain ⟨low, high, -⟩ := hbm a (Nat.le_refl a) (by omega)
  have host : isHost (a / 1024 * 1024) = false := decide_eq_false (by omega)
  have len : (xorBytes (memRead s.mem a d.length) d).length = d.length := by simp [xorBytes, memRead_length wf]
  obtain ⟨q, w, e⟩ := State.wr_direct (s := s) (n := n) (a := a) (bs := xorBytes (memRead s.mem a d.length) d) hm (by rw [len]; exact hbm.direct hr)
  have granule : s.diacPhys (a / 1024 * 1024) = s.diacPhys a := by
    unfold State.diacPhys
    rw [Nat.mul_div_cancel _ (by decide)]
  refine ⟨q, w, ?_⟩
  unfold State.applyDelta
  dsimp only
  rw [State.rd_plain hm hr hbm, e, State.setDiac_plain (by exact hr) host, State.diac_plain (by exact hr) host,
    show a - a / 1024 * 1024 = a % 1024 by omega]
  exact congrArg (fun v => State.setDiacPhys _ _ (v ^^^ deltaCrc (a % 1024) d)) granule

/-- The delta that a PARITY packet brings. -/
def parityDelta (p : Packet) : List Byte :=
  if (redHeadOf p).gf then (redBody p).map fun v => BitVec.ofNat 8 (gfMul (redHeadOf p).coef v.toNat) else redBody p

theorem parityDelta_length (hl : p.payload.length = 272) : (parityDelta p).length = 256 := by
  have body : (redBody p).length = 256 := by simp [redBody, hl]
  unfold parityDelta
  split
  · rw [List.length_map, body]
  · exact body

/-- The effect of a PARITY packet. -/
def parityEffect (p : Packet) (s : State) (n : Nat) : State × Verdict :=
  let h := redHeadOf p
  let x := (redBody p).take 256
  let d := if h.gf then x.map fun b => BitVec.ofNat 8 (gfMul h.coef b.toNat) else x
  if h.addr % 256 ≠ 0 ∨ !s.peerOk n 3 h.addr 256 then (s, .refused 2)
  else if s.rdPoison (some n) h.addr 256 then (s.logPoison (some n) p.job [(h.addr, 256)], .refused 5)
  else if !s.jnlRoom n [(h.addr, 256)] then (s, .refused 3)
  else (s.applyDelta n h.addr d, .delivered)

theorem State.onParityPacket_eq (hk : (redHeadOf p).kind = 6) : s.onParityPacket p = s.arriveReq .reduce p [] (parityEffect p) :=
  if_neg (not_not_intro hk)

theorem State.parityEffect_plain (hr : s.regions n = []) (hl : p.payload.length = 272) (aligned : (redHeadOf p).addr % 256 = 0)
    (ok : s.peerOk n 3 (redHeadOf p).addr 256 = true) (clean : s.rdPoison (some n) (redHeadOf p).addr 256 = false) :
    parityEffect p s n = (s.applyDelta n (redHeadOf p).addr (parityDelta p), .delivered) := by
  have whole : (redBody p).take 256 = redBody p := List.take_of_length_le (by simp [redBody, hl])
  unfold parityEffect
  dsimp only
  rw [if_neg (by simp [aligned, ok]), if_neg (by simp [clean]), if_neg (by simp [State.jnlRoom_plain hr]), whole]
  rfl

theorem onParityPacket_acts (hm : s.memOk = true) (h : s.Accepts p) (alone : p.group = 0) (ctx : s.peerCtx p = some n) (hr : s.regions n = [])
    (hk : p.kind = .reduce) (hkind : (redHeadOf p).kind = 6) (hl : p.payload.length = 272) (aligned : (redHeadOf p).addr % 256 = 0)
    (ok : s.peerOk n 3 (redHeadOf p).addr 256 = true) (clean : s.rdPoison (some n) (redHeadOf p).addr 256 = false)
    (hbm : s.AllHbm (redHeadOf p).addr 256) :
    (s.onParityPacket p).Took p ∧
      memRead (s.onParityPacket p).mem (redHeadOf p).addr 256 = xorBytes (memRead s.mem (redHeadOf p).addr 256) (parityDelta p) ∧
      s.BytesKept (s.onParityPacket p) [((redHeadOf p).addr, 256)] ∧
      (s.onParityPacket p).diacPhys (redHeadOf p).addr = s.diacPhys (redHeadOf p).addr ^^^ deltaCrc ((redHeadOf p).addr % 1024) (parityDelta p) ∧
      (s.onParityPacket p).regs = s.regs := by
  have wf := ((State.memOk_iff s).1 hm).1
  obtain ⟨-, b, r, base⟩ := s.opened_frame p
  have len := parityDelta_length hl
  have done := State.parityEffect_plain (s := s.opened p) (n := n) (by rw [base]; exact hr) hl aligned (by rw [base]; exact ok) (by rw [base]; exact clean)
  obtain ⟨q, w, e⟩ := State.applyDelta_plain (s := s.opened p) (n := n) (a := (redHeadOf p).addr) (d := parityDelta p) (by rw [base]; exact hm)
    (by rw [base]; exact hr) (by rw [base, len]; exact hbm)
  have marked := State.arriveReq_marked (l := []) h hk alone ctx done (by rw [e]; rfl)
  rw [← State.onParityPacket_eq hkind] at marked
  obtain ⟨mem, diacs, -, regs, -⟩ := marked.keeps
  rw [e, len, base] at mem diacs regs
  generalize (redHeadOf p).addr = a at *
  have bytes : (xorBytes (memRead s.mem a 256) (parityDelta p)).length = 256 := by simp [xorBytes, memRead_length wf, len]
  have mem : (s.onParityPacket p).mem = memWrite s.mem a (xorBytes (memRead s.mem a 256) (parityDelta p)) := mem
  have read : (s.onParityPacket p).diacPhys a = (s.setDiacPhys (a / 1024 * 1024) (s.diacPhys a ^^^ deltaCrc (a % 1024) (parityDelta p))).diacPhys a := by
    unfold State.diacPhys
    rw [diacs]
    rfl
  refine ⟨marked.took, ?_, fun c hc => ?_, ?_, regs⟩
  · have same := memRead_memWrite_same wf a (xorBytes (memRead s.mem a 256) (parityDelta p))
    rw [bytes] at same
    rw [mem, same]
  · have away := hc _ (List.mem_singleton_self _)
    rw [mem, memByte_memWrite wf, if_neg (by rw [bytes]; omega)]
  · rw [read, State.diacPhys_setDiacPhys hm, if_pos (by omega)]

/-- Settles O49: a request's range is HBM data, where a context without checkpoint regions reads and writes at the addresses named. -/
theorem peerTransfersReachTheirBytes : Obligations.PeerTransfersReachTheirBytes := by
  unfold Obligations.PeerTransfersReachTheirBytes
  intro s p n hm h alone ctx hr
  obtain ⟨addr, payload⟩ : p.addr < 2 ^ 48 ∧ p.payload.length ≤ 512 := by
    have := h.fields
    simp only [Sys2Proof.Packet.wf, Bool.and_eq_true, decide_eq_true_eq] at this
    obtain ⟨⟨-, -, -, -, -, -, -, -, addr, -, -, payload, -⟩, -⟩ := this
    exact ⟨addr, payload⟩
  refine ⟨fun hk ok => ?write, fun hk => ?readReq, fun x hk => ?readRsp, fun hk ok => ?diac, fun hk hkind hl => ?parity⟩
  case write =>
    exact ⟨_, act_of_wf (by exact h.fields) _, onWrite_acts hm h alone ctx hr hk ok (State.allHbm_of_peerOk ok addr (by omega))⟩
  case readReq =>
    intro len back some_ few ok clean room
    exact ⟨_, act_of_wf (by exact h.fields) _, onReadReq_answers hm h alone ctx hr hk rfl some_ few ok clean room
      (State.allHbm_of_peerOk ok addr (by omega))⟩
  case readRsp =>
    intro a m found hx staged
    obtain ⟨y, acts⟩ := onReadRsp_stages h alone hk found hx staged
    exact ⟨_, y, act_of_wf (by exact h.fields) _, acts⟩
  case diac =>
    have few : (diacList p).length ≤ 127 := by simp [diacList]
    exact ⟨_, act_of_wf (by exact h.fields) _, onDiac_acts hm h alone ctx hr hk ok (State.allHbm_of_peerOk ok addr (by omega))⟩
  case parity =>
    intro hd b d aligned ok clean
    have addr : hd.addr < 2 ^ 48 := leAt_lt ..
    exact ⟨_, act_of_wf (by exact h.fields) _, onParityPacket_acts hm h alone ctx hr hk hkind hl aligned ok clean
      (State.allHbm_of_peerOk ok addr (by decide))⟩

end Sys2Proof.Machine
end

section
/-! PROOFS, family 10_gradient_exchange: reduction windows and the values they stage. -/
namespace Sys2Proof.Machine
variable {s : State} {w : Window} {job wid : Nat} {shadow : Bool}

/-! ## Values staged (R518) -/

/-- The values that a list brings to one element, added up. -/
def valuesAt (l : List (Nat × Int)) (i : Nat) : Int := ((l.filter fun e => e.1 == i).map Prod.snd).sum

theorem valuesAt_cons (e : Nat × Int) (l : List (Nat × Int)) (i : Nat) : valuesAt (e :: l) i = (if i = e.1 then e.2 else 0) + valuesAt l i := by
  unfold valuesAt
  by_cases h : i = e.1
  · subst h
    simp
  · rw [List.filter_cons_of_neg (by simpa using Ne.symm h), if_neg h, zero_add]

/-- Leaving out elements past the window's end leaves the values of those before it. -/
theorem valuesAt_filter_lt {i n : Nat} (h : i < n) (l : List (Nat × Int)) : valuesAt (l.filter fun e => decide (e.1 < n)) i = valuesAt l i := by
  unfold valuesAt
  rw [List.filter_filter]
  refine congrArg (fun l : List (Nat × Int) => (l.map Prod.snd).sum) (List.filter_congr fun e _ => ?_)
  by_cases he : e.1 = i
  · simp [he, h]
  · simp [he]

/-- Values added one by one: each element holds what it held and all that came for it. -/
theorem sget_foldl_add (l : List (Nat × Int)) {m : List (Nat × Int)} (hm : swf 0 m = true) (i : Nat) :
    sget 0 (l.foldl (fun m p => sset 0 p.1 (sget 0 m p.1 + p.2) m) m) i = sget 0 m i + valuesAt l i := by
  induction l generalizing m with
  | nil => simp [valuesAt]
  | cons e l ih =>
    rw [List.foldl_cons, ih (swf_sset 0 _ e.1 hm), sget_sset 0 _ e.1 i hm, valuesAt_cons]
    split
    · subst_vars
      ring
    · ring

theorem Window.poisonWith_eq (w : Window) (d : Nat) : ∃ b, w.poisonWith d = { w with bad := b } := by
  unfold Window.poisonWith
  exact ite_keeps (P := fun v : Window => ∃ b, v = { w with bad := b }) ⟨d, rfl⟩ ⟨w.bad, rfl⟩

/-- Elements that arrive are added to the staging; a sparse window notes the granules they touch, or is poisoned. -/
theorem Window.addElems_eq (w : Window) (l : List (Nat × Int)) : ∃ g b, w.addElems l = { w with
    staging := (l.filter fun p => decide (p.1 < w.len)).foldl (fun m p => sset 0 p.1 (sget 0 m p.1 + p.2) m) w.staging, touched := g, bad := b } := by
  unfold Window.addElems
  dsimp only
  generalize (l.filter fun p => decide (p.1 < w.len)).foldl (fun m p => sset 0 p.1 (sget 0 m p.1 + p.2) m) w.staging = m
  split
  · exact ⟨w.touched, w.bad, rfl⟩
  · split
    · obtain ⟨b, e⟩ := Window.poisonWith_eq { w with staging := m } 5
      exact ⟨w.touched, b, e⟩
    · exact ⟨_, w.bad, rfl⟩

/-- A window after `c` elements of a data packet. -/
def Window.contribute (w : Window) (l : List (Nat × Int)) (c : Nat) : Window := { w.addElems l with elemsGot := (w.addElems l).elemsGot + c }

theorem Window.contribute_eq (w : Window) (l : List (Nat × Int)) (c : Nat) : ∃ m g b, w.contribute l c =
    { w with staging := m, touched := g, bad := b, elemsGot := w.elemsGot + c } ∧
    (swf 0 w.staging = true → ∀ i < w.len, sget 0 m i = sget 0 w.staging i + valuesAt l i) := by
  obtain ⟨g, b, e⟩ := w.addElems_eq l
  refine ⟨_, g, b, by rw [Window.contribute, e], fun canonical i hi => ?_⟩
  rw [sget_foldl_add _ canonical, valuesAt_filter_lt hi]

/-! ## Window entries (R515, R531) -/

theorem State.win?_key (h : s.win? job wid shadow = some w) : w.job = job ∧ w.wid = wid ∧ w.shadow = shadow := by
  have := List.find?_some h
  simpa [and_assoc] using this

theorem State.win?_congr {t : State} (h : t.fab.windows = s.fab.windows) : t.win? job wid shadow = s.win? job wid shadow := by
  unfold State.win?
  rw [h]

/-- An entry just written is the one found under its key. -/
theorem State.win?_putWin (hj : w.job = job) (hw : w.wid = wid) (hs : w.shadow = shadow) : (s.putWin w).win? job wid shadow = some w := by
  subst hj hw hs
  have gone : (s.fab.windows.filter fun v => !(v.job == w.job && v.wid == w.wid && v.shadow == w.shadow)).find?
      (fun v => v.job == w.job && v.wid == w.wid && v.shadow == w.shadow) = none := by
    rw [List.find?_filter, List.find?_eq_none]
    intro v _
    cases v.job == w.job && v.wid == w.wid && v.shadow == w.shadow <;> decide
  unfold State.win? State.putWin
  rw [List.find?_append, gone]
  simp

/-- An arrival's window is written, poisoned where it counted too much; its OPEN may wake. -/
theorem State.settleWin_eq (s : State) (w : Window) : ∃ b i, s.settleWin w = { s.putWin { w with bad := b } with insts := i } := by
  unfold State.settleWin
  dsimp only
  have settled : ∃ b, (if w.expect < w.digests ∨ (w.digests = w.expect ∧ w.elemsSum < w.elemsGot) then w.poisonWith 4 else w) = { w with bad := b } :=
    ite_keeps (P := fun v : Window => ∃ b, v = { w with bad := b }) (w.poisonWith_eq 4) ⟨w.bad, rfl⟩
  obtain ⟨b, e⟩ := settled
  rw [e]
  refine ⟨b, ?_⟩
  split
  · exact ite_keeps (P := fun t : State => ∃ i, t = { s.putWin { w with bad := b } with insts := i }) ⟨_, rfl⟩ ⟨s.insts, rfl⟩
  · exact ⟨s.insts, rfl⟩

end Sys2Proof.Machine
end

section
/-! PROOFS, family 10_gradient_exchange: packets that contribute to a window (O51). -/
namespace Sys2Proof.Machine
variable {s u t : State} {p : Packet} {n k : Nat} {w : Window}

/-! ## REDUCE packets (R530, R537, R540) -/

theorem State.arriveRed_eq (hkind : (redHeadOf p).kind = k) (go : State → Nat → State × Verdict) :
    s.arriveRed p k go = s.arriveReq .reduce p [] go := if_neg (not_not_intro hkind)

/-- An accepted REDUCE packet of no group, for a context of which its sender is a member. -/
structure State.Reduces (s : State) (p : Packet) (n : Nat) : Prop where
  taken : s.Accepts p
  alone : p.group = 0
  kind : p.kind = .reduce
  ctx : s.peerCtx p = some n

theorem State.Reduces.marked (h : s.Reduces p n) (hkind : (redHeadOf p).kind = k) {go : State → Nat → State × Verdict}
    (done : go (s.opened p) n = (u, .delivered)) (recv : u.fab.recv = (s.opened p).fab.recv) : State.Marked p u (s.arriveRed p k go) := by
  rw [State.arriveRed_eq hkind]
  exact State.arriveReq_marked h.taken h.kind h.alone h.ctx done recv

theorem State.peerOk_opened (s : State) (p : Packet) (n b a len : Nat) : (s.opened p).peerOk n b a len = s.peerOk n b a len := by
  obtain ⟨-, buf, r, base⟩ := s.opened_frame p
  rw [base]
  rfl

/-! ## Data for a window (R530, R531) -/

/-- The entry that a data packet's key names. -/
def State.winFor (s : State) (p : Packet) : Option Window :=
  s.win? p.job (redHeadOf p).wid ((redHeadOf p).shadow && (redHeadOf p).kind != 5)

/-- The packet's key names an open window of its step and exponent. -/
structure State.Fits (s : State) (p : Packet) (w : Window) : Prop where
  found : s.winFor p = some w
  isOpen : w.isOpen = true
  step : w.step % 65536 = (redHeadOf p).step
  exp : w.exp = (redHeadOf p).exp

theorem State.Fits.dataFor (h : s.Fits p w) (f : Window → Window) : s.dataFor p f = (s.settleWin (f w), .delivered) := by
  have found : s.win? p.job (redHeadOf p).wid ((redHeadOf p).shadow && (redHeadOf p).kind != 5) = some w := h.found
  unfold State.dataFor
  dsimp only
  rw [found]
  dsimp only
  rw [if_neg (by simp [h.isOpen, h.step]), if_neg (by simp [h.exp])]

/-- What data never changes of a window. -/
structure Window.Alike (v w : Window) : Prop where
  job : v.job = w.job
  wid : v.wid = w.wid
  shadow : v.shadow = w.shadow
  len : v.len = w.len
  isOpen : v.isOpen = w.isOpen
  exp : v.exp = w.exp

/-- A packet taken whose effect is on its window alone, which now meets `q`. -/
def State.Contributed (s : State) (p : Packet) (w : Window) (t : State) (q : Window → Prop) : Prop :=
  t.Took p ∧ s.StoresKept t ∧ t.regs = s.regs ∧
    ∃ v, t.winFor p = some v ∧ v.len = w.len ∧ v.isOpen = true ∧ v.exp = w.exp ∧ q v

/-- A contribution changes its window by `f`, but for the poison that its counts may set. -/
theorem State.Reduces.contributes (h : s.Reduces p n) (hkind : (redHeadOf p).kind = k) (fits : s.Fits p w) {go : State → Nat → State × Verdict}
    {f : Window → Window} (done : go (s.opened p) n = (s.opened p).dataFor p f) (alike : (f w).Alike w) {q : Window → Prop}
    (meets : ∀ b, q { f w with bad := b }) : s.Contributed p w (s.arriveRed p k go) q := by
  obtain ⟨-, buf, r, base⟩ := s.opened_frame p
  have fits' : (s.opened p).Fits p w := ⟨by rw [base]; exact fits.found, fits.isOpen, fits.step, fits.exp⟩
  obtain ⟨b, i, settled⟩ := (s.opened p).settleWin_eq (f w)
  have marked := h.marked hkind (done.trans (fits'.dataFor f)) (by rw [settled]; rfl)
  obtain ⟨mem, diacs, poison, regs, -, windows, -⟩ := marked.keeps
  obtain ⟨job, wid, shadow⟩ := State.win?_key fits.found
  rw [settled] at mem diacs poison regs windows
  have found : (s.arriveRed p k go).winFor p = some { f w with bad := b } := by
    unfold State.winFor
    rw [State.win?_congr windows]
    exact State.win?_putWin (alike.job.trans job) (alike.wid.trans wid) (alike.shadow.trans shadow)
  exact ⟨marked.took, State.storesKept_of_eq (mem.trans (by rw [base]; rfl)) (diacs.trans (by rw [base]; rfl)) (poison.trans (by rw [base]; rfl)),
    regs.trans (by rw [base]; rfl), _, found, alike.len, alike.isOpen.trans fits.isOpen, alike.exp, meets b⟩

/-! ## DENSE and SPARSE (R518, R530) -/

/-- Elements of a DENSE packet, and of a SPARSE one, by their index in the window. -/
def denseAt (p : Packet) (w : Window) : List (Nat × Int) := (denseVals p).zipIdx.map fun e => (((redHeadOf p).addr - w.dst) / 2 + e.2, e.1)
def sparseAt (p : Packet) (w : Window) : List (Nat × Int) := (sparsePairs p).map fun e => (((redHeadOf p).addr - w.dst) / 2 + e.1, e.2)

/-- The effect of a data packet: refused where a peer may not write, else its elements go to its window. -/
def dataEffect (ok : State → Nat → Bool) (at_ : Window → List (Nat × Int)) (p : Packet) (s : State) (n : Nat) : State × Verdict :=
  if !ok s n then (s, .refused 2) else s.dataFor p fun w => w.contribute (at_ w) (redHeadOf p).count

theorem State.onDense_eq (s : State) (p : Packet) : s.onDense p =
    s.arriveRed p 0 (dataEffect (fun s n => s.peerOk n 3 (redHeadOf p).addr (2 * (redHeadOf p).count)) (denseAt p) p) := rfl

theorem State.onSparse_eq (s : State) (p : Packet) : s.onSparse p =
    s.arriveRed p 1 (dataEffect (fun s n => (sparsePairs p).all fun e => s.peerOk n 3 ((redHeadOf p).addr + 2 * e.1) 2) (sparseAt p) p) := rfl

/-- Elements that a data packet brings, where a peer may write, are added each where the packet says. -/
theorem State.Reduces.data_adds (h : s.Reduces p n) (hkind : (redHeadOf p).kind = k) (fits : s.Fits p w) (canonical : swf 0 w.staging = true)
    {ok : State → Nat → Bool} (at_ : Window → List (Nat × Int)) (granted : ok (s.opened p) n = true) :
    s.Contributed p w (s.arriveRed p k (dataEffect ok at_ p)) fun v => v.elemsGot = w.elemsGot + (redHeadOf p).count ∧ v.digests = w.digests ∧
      ∀ i < w.len, sget 0 v.staging i = sget 0 w.staging i + valuesAt (at_ w) i := by
  obtain ⟨m, g, b, e, added⟩ := w.contribute_eq (at_ w) (redHeadOf p).count
  refine h.contributes hkind fits (if_neg (by simp [granted])) ?_ fun b => ?_ <;> rw [e]
  · exact ⟨rfl, rfl, rfl, rfl, rfl, rfl⟩
  · exact ⟨rfl, rfl, added canonical⟩

theorem onDense_adds (h : s.Reduces p n) (fits : s.Fits p w) (canonical : swf 0 w.staging = true) (hkind : (redHeadOf p).kind = 0)
    (ok : s.peerOk n 3 (redHeadOf p).addr (2 * (redHeadOf p).count) = true) :
    s.Contributed p w (s.onDense p) fun v => v.elemsGot = w.elemsGot + (redHeadOf p).count ∧ v.digests = w.digests ∧
      ∀ i < w.len, sget 0 v.staging i = sget 0 w.staging i + valuesAt (denseAt p w) i := by
  rw [State.onDense_eq]
  exact h.data_adds hkind fits canonical (denseAt p) (by simp [State.peerOk_opened, ok])

theorem onSparse_adds (h : s.Reduces p n) (fits : s.Fits p w) (canonical : swf 0 w.staging = true) (hkind : (redHeadOf p).kind = 1)
    (ok : ((sparsePairs p).all fun e => s.peerOk n 3 ((redHeadOf p).addr + 2 * e.1) 2) = true) :
    s.Contributed p w (s.onSparse p) fun v => v.elemsGot = w.elemsGot + (redHeadOf p).count ∧ v.digests = w.digests ∧
      ∀ i < w.len, sget 0 v.staging i = sget 0 w.staging i + valuesAt (sparseAt p w) i := by
  rw [State.onSparse_eq]
  exact h.data_adds hkind fits canonical (sparseAt p) (by simp only [State.peerOk_opened, ok])

/-! ## DIGEST and SUMCMP (R531, R558) -/

/-- The low bytes of a number are the number of its first bytes. -/
theorem leNat_mod (l : List Byte) (m : Nat) : leNat l % 256 ^ m = leNat (l.take m) := by
  induction m generalizing l with
  | zero => simp [leNat, Nat.mod_one]
  | succ m ih =>
    cases l with
    | nil => simp [leNat]
    | cons b t =>
      have low : (b.toNat + 256 * leNat t) % 256 = b.toNat := by omega
      have high : (b.toNat + 256 * leNat t) / 256 = leNat t := by omega
      rw [List.take_succ_cons, leNat, leNat, ← ih, Nat.pow_succ, Nat.mul_comm _ 256, Nat.mod_mul, low, high]

theorem leAt_mod {bs : List Byte} {o m j : Nat} (h : m ≤ j) : leAt bs o j % 256 ^ m = leAt bs o m := by
  rw [leAt, leNat_mod, List.take_take, Nat.min_eq_left h, leAt]

theorem onDigest_counts (h : s.Reduces p n) (fits : s.Fits p w) (hkind : (redHeadOf p).kind = 2)
    (ok : s.peerOk n 3 (redHeadOf p).addr 2 = true) :
    s.Contributed p w (s.onDigest p) fun v => v.digests = w.digests + 1 ∧ v.staging = w.staging ∧
      v.digestSum = (w.digestSum + leAt (redBody p) 0 8 % 2 ^ 61) % mersenne61 ∧ v.elemsSum = w.elemsSum + leAt (redBody p) 8 4 ∧
      v.amax = max w.amax (leAt (redBody p) 12 2) := by
  have amax : leAt (redBody p) 12 4 % 65536 = leAt (redBody p) 12 2 := leAt_mod (m := 2) (by decide)
  refine h.contributes hkind fits (if_neg (by simp [State.peerOk_opened, ok])) ⟨rfl, rfl, rfl, rfl, rfl, rfl⟩ fun b => ?_
  exact ⟨rfl, rfl, rfl, rfl, congrArg (max w.amax) amax⟩

theorem onSumcmp_keeps (h : s.Reduces p n) (fits : s.Fits p w) (hkind : (redHeadOf p).kind = 5) (data : (redHeadOf p).count < 2)
    (ok : s.peerOk n 3 (redHeadOf p).addr 128 = true) :
    s.Contributed p w (s.onSumcmp p) fun v => v.staging = w.staging ∧ v.digests = w.digests ∧
      sget [] v.sumcmp (((redHeadOf p).addr - w.dst) / 128) = (pieces 6 ((redBody p).take 384)).map leNat := by
  refine h.contributes hkind fits ((if_neg (by omega)).trans (if_neg (by simp [State.peerOk_opened, ok]))) ⟨rfl, rfl, rfl, rfl, rfl, rfl⟩ fun b => ?_
  exact ⟨rfl, rfl, sget_sput_same ..⟩

end Sys2Proof.Machine
end

section
/-! PROOFS, family 10_gradient_exchange: exponent queries, and the packets of a window settled (O51). -/
namespace Sys2Proof.Machine
variable {s u t : State} {p : Packet} {n : Nat} {w : Window} {x y : Inst}

/-! ## EXPQ (R528) -/

/-- The effect of an EXPQ. -/
def expqEffect (p : Packet) (s : State) (_ : Nat) : State × Verdict :=
  let h := redHeadOf p
  if !s.sendRoom p.src 1 then (s, .refused 3)
  else
    let say := fun w st => (s.sendSeq none 0 (exprPkt p.src p.job h.wid h.step w st), Verdict.delivered)
    match (s.win? p.job h.wid false).filter fun w => w.step % 65536 == h.step with
    | some w => if w.isOpen then say (some w) 0 else say none 1
    | none =>
      if s.fab.queries.length < 1024 then ({ s with fab := { s.fab with queries := s.fab.queries ++ [(p.src, p)] } }, .delivered)
      else say none 2

theorem State.onExpq_eq (s : State) (p : Packet) : s.onExpq p = s.arriveRed p 3 (expqEffect p) := rfl

/-- A query for an open key is answered with the key's exponent. -/
theorem expqEffect_open (room : s.sendRoom p.src 1 = true) (found : s.win? p.job (redHeadOf p).wid false = some w) (open_ : w.isOpen = true)
    (step : w.step % 65536 = (redHeadOf p).step) (n : Nat) :
    expqEffect p s n = (s.sendSeq none 0 (exprPkt p.src p.job (redHeadOf p).wid (redHeadOf p).step (some w) 0), .delivered) := by
  have found' : (s.win? p.job (redHeadOf p).wid false).filter (fun w => w.step % 65536 == (redHeadOf p).step) = some w := by
    rw [found, Option.filter_some, if_pos (by simp [step])]
  unfold expqEffect
  dsimp only
  rw [if_neg (by simp [room]), found']
  exact if_pos open_

/-- A query for a key that is not open yet is held. -/
theorem expqEffect_held (room : s.sendRoom p.src 1 = true) (missing : s.win? p.job (redHeadOf p).wid false = none)
    (few : s.fab.queries.length < 1024) (n : Nat) :
    expqEffect p s n = ({ s with fab := { s.fab with queries := s.fab.queries ++ [(p.src, p)] } }, .delivered) := by
  unfold expqEffect
  dsimp only
  rw [if_neg (by simp [room]), missing]
  exact if_pos few

theorem onExpq_answers (h : s.Reduces p n) (hkind : (redHeadOf p).kind = 3) (room : s.sendRoom p.src 1 = true)
    (found : s.win? p.job (redHeadOf p).wid false = some w) (open_ : w.isOpen = true) (step : w.step % 65536 = (redHeadOf p).step) :
    (s.onExpq p).Took p ∧ s.Sent (s.onExpq p) [exprPkt p.src p.job (redHeadOf p).wid (redHeadOf p).step (some w) 0] ∧ s.StoresKept (s.onExpq p) := by
  obtain ⟨-, b, r, base⟩ := s.opened_frame p
  have done := expqEffect_open (s := s.opened p) (p := p) (by rw [base]; exact room) (by rw [base]; exact found) open_ step n
  rw [State.onExpq_eq, State.arriveRed_eq hkind]
  obtain ⟨took, -, stores, sent⟩ := State.peer_answered h.taken h.kind h.ctx h.alone done
  exact ⟨took, sent, stores⟩

theorem onExpq_holds (h : s.Reduces p n) (hkind : (redHeadOf p).kind = 3) (room : s.sendRoom p.src 1 = true)
    (missing : s.win? p.job (redHeadOf p).wid false = none) (few : s.fab.queries.length < 1024) :
    (s.onExpq p).Took p ∧ (s.onExpq p).fab.queries = s.fab.queries ++ [(p.src, p)] ∧ s.Sent (s.onExpq p) [] := by
  obtain ⟨-, b, r, base⟩ := s.opened_frame p
  have done := expqEffect_held (s := s.opened p) (p := p) (by rw [base]; exact room) (by rw [base]; exact missing) (by rw [base]; exact few) n
  have marked := h.marked hkind done rfl
  obtain ⟨-, -, -, -, -, -, queries, -⟩ := marked.keeps
  rw [base] at queries
  exact ⟨marked.took, queries, marked.sent (State.sent_opened fun d => State.Sent.refl (s.opened p) d)⟩

/-! ## EXPR (R528) -/

/-- The descriptor of `p`'s job that has asked its sender for the window's exponent and has no answer. -/
def State.askerOf (s : State) (p : Packet) : Option Inst :=
  s.insts.find? fun x => x.phase == .started && x.job == p.job && x.winOf == some (redHeadOf p).wid && x.rStep % 65536 == (redHeadOf p).step &&
    x.queries.any fun q => q.1 == p.src && q.2.isNone

/-- A descriptor with the answer that an EXPR brings. -/
def Inst.answered (x : Inst) (p : Packet) : Inst :=
  let rest := x.queries.filter fun q => q.1 != p.src
  let v := leAt (redBody p) 0 4
  { x with queries := rest, blocked := !rest.isEmpty, slot := x.slot ++ [p.src, (redHeadOf p).exp, bits v 16 1, v % 65536, (redHeadOf p).addr] }

/-- The effect of an EXPR. -/
def exprEffect (p : Packet) (s : State) (n : Nat) : State × Verdict :=
  let h := redHeadOf p
  if h.shadow then s.openShadow p n
  else match s.askerOf p with
  | none => (s, .delivered)
  | some x =>
    let rest := x.queries.filter fun q => q.1 != p.src
    if h.count = 1 then (s.endInst x 1 0 {}, .delivered)
    else if h.count = 2 then (s.setInst { x with queries := rest ++ [(p.src, some s.clock.now)] }, .delivered)
    else (s.setInst (x.answered p), .delivered)

theorem State.onExpr_eq (s : State) (p : Packet) : s.onExpr p = s.arriveRed p 4 (exprEffect p) := rfl

theorem exprEffect_answer (home : (redHeadOf p).shadow = false) (ok : (redHeadOf p).count = 0) (asker : s.askerOf p = some x) (n : Nat) :
    exprEffect p s n = (s.setInst (x.answered p), .delivered) := by
  unfold exprEffect
  dsimp only
  rw [if_neg (by simp [home]), asker]
  dsimp only
  rw [if_neg (by omega), if_neg (by omega)]

theorem onExpr_answers (h : s.Reduces p n) (hkind : (redHeadOf p).kind = 4) (home : (redHeadOf p).shadow = false)
    (ok : (redHeadOf p).count = 0) (asker : s.askerOf p = some x) (hx : s.inst? x.id = some x) :
    (s.onExpr p).Took p ∧ (s.onExpr p).inst? x.id = some (x.answered p) ∧ s.StoresKept (s.onExpr p) := by
  obtain ⟨-, b, r, base⟩ := s.opened_frame p
  have done := exprEffect_answer (s := s.opened p) home ok (by rw [base]; exact asker) n
  have marked := h.marked hkind done rfl
  obtain ⟨mem, diacs, poison, -, insts, -⟩ := marked.keeps
  have here : (s.opened p).inst? x.id = some x := by rw [base]; exact hx
  rw [State.onExpr_eq]
  refine ⟨marked.took, (State.inst?_congr insts _).trans ?_, State.storesKept_of_eq (mem.trans ?_) (diacs.trans ?_) (poison.trans ?_)⟩
  · rw [State.inst?_setInst, if_pos (by rfl), here]
    rfl
  all_goals rw [base]; rfl

/-! ## EXPQ_RETRY (R528) -/

/-- Joining a count group changes of a descriptor the group that it notes. -/
theorem State.inst?_joinGroup (h : s.inst? y.id = some y) (d : Nat) : ∃ c, (s.joinGroup y d).1.inst? y.id = some { y with cgroup := c } := by
  have marked : ∀ (v : State) (c : Option (Nat × Nat)), v.insts = s.insts →
      (v.modInst y.id fun z => { z with cgroup := c }).inst? y.id = some { y with cgroup := c } := fun v c same =>
    State.inst?_modInst ((State.inst?_congr same _).trans h) fun _ => rfl
  unfold State.joinGroup
  split
  · exact ⟨y.cgroup, h⟩
  · split
    · split
      · exact ⟨y.cgroup, h⟩
      · exact ⟨_, marked _ _ (s.openGroup_frame d none).2⟩
    · split
      · exact ⟨_, marked _ _ rfl⟩
      · exact ⟨_, marked _ _ (s.openGroup_frame d _).2⟩

/-- A packet that a descriptor sends changes of it the group that it notes. -/
theorem State.inst?_sendFor (h : s.inst? x.id = some y) (q : Packet) : ∃ c, (s.sendFor x q).inst? x.id = some { y with cgroup := c } := by
  have hid : y.id = x.id := by simpa using List.find?_some h
  obtain ⟨c, joined⟩ := State.inst?_joinGroup (hid.symm ▸ h) q.dst
  unfold State.sendFor
  rw [h]
  dsimp only [Option.getD]
  generalize s.joinGroup y q.dst = g at joined
  obtain ⟨v, m⟩ := g
  dsimp only at joined ⊢
  have counted : (if m = 0 then v else v.modGroup q.dst m fun g => { g with count := g.count + 1 }).insts = v.insts :=
    ite_keeps (P := fun t : State => t.insts = v.insts) rfl rfl
  refine ⟨c, (State.inst?_congr ((State.sendSeq_frame _ _ _ _).2.trans counted) _).trans ?_⟩
  rw [← hid]
  exact joined

/-- A query that was answered RETRY at least 2 µs ago is sent again. -/
theorem State.expqRetry_eq {d t0 : Nat} (hx : s.inst? x.id = some x) (started : x.phase = .started) (asked : x.queries = [(d, some t0)])
    (waited : t0 + 2000 ≤ s.clock.now) (room : s.sendRoom d 1 = true) :
    s.expqRetry x.id = (s.askHome x d).modInst x.id fun y => { y with queries := y.queries.map fun r => if r.1 == d then (r.1, none) else r } := by
  unfold State.expqRetry
  rw [hx]
  dsimp only
  rw [asked, List.find?_cons_of_pos (by simp [waited, room])]
  exact if_neg (not_not_intro started)

theorem expqRetry_asks {d t0 : Nat} (hx : s.inst? x.id = some x) (started : x.phase = .started) (asked : x.queries = [(d, some t0)])
    (waited : t0 + 2000 ≤ s.clock.now) (room : s.sendRoom d 1 = true) :
    ∃ y, (s.expqRetry x.id).inst? x.id = some y ∧ y.queries = [(d, none)] ∧ (s.expqRetry x.id).regs = s.regs ∧
      s.Sent (s.expqRetry x.id) [redPkt d x.job 0 (redHead 3 false (x.winOf.getD 0) 0 x.rStep 0 0 0 0) []] ∧ s.StoresKept (s.expqRetry x.id) := by
  obtain ⟨c, here⟩ := State.inst?_sendFor hx (redPkt d x.job 0 (redHead 3 false (x.winOf.getD 0) 0 x.rStep 0 0 0 0) [])
  obtain ⟨sent, -⟩ := State.sendFor_sentBy hx (redPkt d x.job 0 (redHead 3 false (x.winOf.getD 0) 0 x.rStep 0 0 0 0) [])
  obtain ⟨f, i, frame⟩ := s.sendFor_eq x (redPkt d x.job 0 (redHead 3 false (x.winOf.getD 0) 0 x.rStep 0 0 0 0) [])
  have noted := State.inst?_modInst here (f := fun y : Inst => { y with queries := y.queries.map fun r => if r.1 == d then (r.1, none) else r })
    fun _ => rfl
  rw [State.expqRetry_eq hx started asked waited room]
  unfold State.askHome
  refine ⟨_, noted, by simp [asked], ?_, fun d' => sent d', ?_⟩
  · rw [frame]
    rfl
  · rw [frame]
    exact State.storesKept_of_eq rfl rfl rfl

/-- Settles O51: data whose key names an open window of its step and exponent goes into that window; a query is answered, held or sent again. -/
theorem windowsTakeContributions : Obligations.WindowsTakeContributions := by
  unfold Obligations.WindowsTakeContributions
  intro s p n w h alone kind ctx hd key fits after added i0
  have reduces : s.Reduces p n := ⟨h, alone, kind, ctx⟩
  have fit : fits → s.Fits p w := fun ⟨found, isOpen, step, exp⟩ => ⟨found, isOpen, step, exp⟩
  refine ⟨fun hf canonical hk ok => ?dense, fun hf canonical hk ok => ?sparse, fun hf hk ok => ?digest, fun hf hk data ok => ?sumcmp,
    fun hk room => ⟨fun found open_ step => ?answer, fun missing few => ?hold⟩, fun x hk home ok asker hx => ?expr,
    fun x t0 hx started asked waited room => ?retry⟩
  case dense => exact ⟨_, act_of_wf (by exact h.fields) _, onDense_adds reduces (fit hf) canonical hk ok⟩
  case sparse => exact ⟨_, act_of_wf (by exact h.fields) _, onSparse_adds reduces (fit hf) canonical hk ok⟩
  case digest => exact ⟨_, act_of_wf (by exact h.fields) _, onDigest_counts reduces (fit hf) hk ok⟩
  case sumcmp => exact ⟨_, act_of_wf (by exact h.fields) _, onSumcmp_keeps reduces (fit hf) hk data ok⟩
  case answer => exact ⟨_, act_of_wf (by exact h.fields) _, onExpq_answers reduces hk room found open_ step⟩
  case hold => exact ⟨_, act_of_wf (by exact h.fields) _, onExpq_holds reduces hk room missing few⟩
  case expr =>
    obtain ⟨took, here, stores⟩ := onExpr_answers reduces hk home ok asker hx
    refine ⟨_, _, act_of_wf (by exact h.fields) _, took, here, fun q hq => ?_, rfl, stores⟩
    simpa using (List.mem_filter.1 hq).2
  case retry =>
    obtain ⟨y, acts⟩ := expqRetry_asks hx started asked waited room
    exact ⟨_, y, act_of_wf (c := .expqRetry x.id) rfl _, acts⟩

end Sys2Proof.Machine
end

section
/-! PROOFS, family 10_gradient_exchange: descriptors that send their packets at once and end, VERIFY, TOPK (O48). -/
namespace Sys2Proof.Machine
variable {s : State} {x : Inst}

/-! ## A REDUCE that is taken up (R562, R563) -/

theorem State.Begun.reduceOf_eq {op : Nat} (h : s.Begun x 64) (ho : x.opcode = 9) (hb : x.redBlockBad = none) (hop : x.rOp = op) :
    s.reduceOf x.id op = .ok (s, x) := by
  unfold State.reduceOf
  rw [h.started_eq ho]
  dsimp only
  rw [if_neg (not_not_intro hop), State.withBlock_ready _ h.block]
  dsimp only
  rw [hb]

/-! ## SEND and PARITY (R528, R529, R535, R559) -/

/-- Packets that all find room leave at once; the descriptor, which has no SIGNAL, goes on to its end. -/
theorem State.sendRest_ready {pk : List Packet} (hx : s.inst? x.id = some x) (first : x.progress = 0) (off : x.sigOn = false)
    (all : (s.sendSome x pk 0).2 = pk.length) : ∃ v z, (∀ done, s.sendRest x pk done = done v) ∧ v.inst? x.id = some z ∧ z.sigOn = false ∧
      s.Sent v pk ∧ ∃ f i, v = { s with fab := f, insts := i } := by
  obtain ⟨sent, z, hz, words⟩ := State.sendSome_sentBy pk 0 hx (all.trans (Nat.zero_add _).symm)
  obtain ⟨f, i, frame⟩ := State.sendSome_eq x pk 0 s
  have here := State.inst?_modInst hz (f := fun y => { y with progress := y.progress + pk.length, blocked := false }) fun _ => rfl
  refine ⟨_, _, fun done => State.sendRest_all first all, here, ?_, fun d => sent d, ?_⟩
  · unfold Inst.sigOn Inst.w at off ⊢
    rwa [words]
  · rw [frame]
    exact ⟨f, _, rfl⟩

theorem State.sent_endInst {y : Inst} (h : s.inst? x.id = some y) (off : y.sigOn = false) (st d : Nat) (k : Counters) :
    s.Sent (s.endInst x st d k) [] := by
  rw [State.endInst_of_no_signal h off]
  exact fun d' => State.Sent.refl s d'

theorem State.Sent.then_nothing {t u : State} {pk : List Packet} (h : s.Sent t pk) (g : t.Sent u []) : s.Sent u pk := by
  have both := h.trans g
  rwa [List.append_nil] at both

theorem send_sends {es : List (Nat × Nat)} (h : s.Begun x 64) (ho : x.opcode = 9) (hb : x.redBlockBad = none) (hop : x.rOp = 1)
    (homes : s.homesReady x [x.rHome] = none) (granted : s.mayAcc x 0 (x.blk64 0) x.sendLen = true)
    (up : s.hostDown [(x.blk64 0, x.sendLen)] = false) (here : s.want x [(x.blk64 0, x.sendLen)] = none)
    (passes : s.sourceBad x (x.sendInput x.sendLen) x.rLg = none) (elems : s.sendElems x = some es) (first : x.progress = 0) (off : x.sigOn = false)
    (all : (s.sendSome x (s.sendPkts x (s.sendContrib x es)) 0).2 = (s.sendPkts x (s.sendContrib x es)).length) :
    (s.sendRed x.id).Ended x.id 0 0 ∧ s.Sent (s.sendRed x.id) (s.sendPkts x (s.sendContrib x es)) ∧ s.StoresKept (s.sendRed x.id) := by
  have run : s.sendRed x.id = s.sendRest x (s.sendPkts x (s.sendContrib x es)) fun s' => s'.endEngine x 0 0 (s.sendContrib x es).cnt x.rLg := by
    unfold State.sendRed
    rw [h.reduceOf_eq ho hb hop]
    dsimp only
    rw [homes]
    dsimp only
    rw [if_neg (by simp [granted]), if_neg (by simp [up]), here]
    dsimp only
    rw [passes]
    dsimp only
    rw [elems]
  obtain ⟨v, z, goes, there, quiet, sent, f, i, frame⟩ := State.sendRest_ready h.here first off all
  obtain ⟨r, c, g, f', i', ended⟩ := v.endEngine_eq x 0 0 (s.sendContrib x es).cnt x.rLg
  rw [run, goes]
  refine ⟨State.ended_endEngine there .., sent.then_nothing (State.sent_endEngine there quiet _ _ _ _), ?_⟩
  rw [ended, frame]
  exact State.storesKept_of_eq rfl rfl rfl

theorem parity_sends (h : s.Begun x 64) (ho : x.opcode = 9) (hb : x.redBlockBad = none) (hop : x.rOp = 3)
    (granted : s.mayAcc x 0 (x.blk64 0) (256 * x.rLen) = true) (up : s.hostDown [(x.blk64 0, 256 * x.rLen)] = false)
    (here : s.want x [(x.blk64 0, 256 * x.rLen)] = none) (passes : s.sourceBad x (x.sendInput (256 * x.rLen)) x.rLg = none)
    (first : x.progress = 0) (off : x.sigOn = false) (all : (s.sendSome x (s.parityPkts x) 0).2 = (s.parityPkts x).length) :
    (s.parityRed x.id).Ended x.id 0 0 ∧ s.Sent (s.parityRed x.id) (s.parityPkts x) ∧ (s.parityRed x.id).regs = s.regs ∧
      s.StoresKept (s.parityRed x.id) := by
  have run : s.parityRed x.id = s.sendRest x (s.parityPkts x) fun s => s.endInst x 0 0 {} := by
    unfold State.parityRed
    rw [h.reduceOf_eq ho hb hop]
    dsimp only
    rw [if_neg (by simp [granted]), if_neg (by simp [up]), here]
    dsimp only
    rw [passes]
  obtain ⟨v, z, goes, there, quiet, sent, f, i, frame⟩ := State.sendRest_ready h.here first off all
  obtain ⟨f', i', ended⟩ := v.endInst_eq x 0 0 {}
  rw [run, goes]
  refine ⟨v.ended_endInst there .., sent.then_nothing (State.sent_endInst there quiet _ _ _), ?_, ?_⟩ <;> rw [ended, frame]
  exact State.storesKept_of_eq rfl rfl rfl

/-! ## VERIFY (R554) -/

theorem verify_answers (h : s.Begun x 64) (ho : x.opcode = 9) (hb : x.redBlockBad = none) (hop : x.rOp = 2)
    (record : s.mayAcc x 0 (x.blk64 3) 64 = true) (copy : s.mayAcc x 0 (x.blk64 0) (2 * x.rLen) = true)
    (up : s.hostDown x.verifyReads = false) (here : s.want x x.verifyReads = none) (passes : s.sourceBad x x.verifyInput x.rLg = none) :
    (s.verifyRed x.id).Ended x.id (if s.verifyOk x then 0 else 5) (if s.verifyOk x then 0 else 6) ∧ (s.verifyRed x.id).regs = s.regs ∧
      s.StoresKept (s.verifyRed x.id) := by
  have run : s.verifyRed x.id = s.endInst x (if s.verifyOk x then 0 else 5) (if s.verifyOk x then 0 else 6) {} := by
    unfold State.verifyRed
    rw [h.reduceOf_eq ho hb hop]
    dsimp only
    rw [if_neg (by simp [record]), if_neg (by simp [copy]), if_neg (by simp [up]), here]
    dsimp only
    rw [passes]
    dsimp only
    split <;> rfl
  obtain ⟨f, i, ended⟩ := s.endInst_eq x (if s.verifyOk x then 0 else 5) (if s.verifyOk x then 0 else 6) {}
  rw [run]
  refine ⟨s.ended_endInst h.here .., ?_, ?_⟩ <;> rw [ended]
  exact State.storesKept_of_eq rfl rfl rfl

/-! ## TOPK (R545) -/

theorem State.topk_eq (h : s.Begun x 64) (ho : x.opcode = 0xA) (hb : x.topkBlockBad = none) (here : s.want x x.topkReads = none) :
    s.topk x.id = s.runWork x (s.topkWork x) := by
  unfold State.topk
  rw [h.started_eq ho]
  dsimp only
  rw [State.withBlock_ready _ h.block]
  dsimp only
  rw [hb]
  dsimp only
  rw [here]

end Sys2Proof.Machine
end

section
/-! PROOFS, family 10_gradient_exchange: windows that open and complete, and REDUCE and TOPK settled (O48). -/
namespace Sys2Proof.Machine
variable {s t : State} {x : Inst} {w : Window} {job wid : Nat}

/-! ## What the end of a descriptor leaves of windows -/

theorem State.sendSeq_windows (s : State) (o : Option Nat) (die : Nat) (p : Packet) : (s.sendSeq o die p).fab.windows = s.fab.windows := by
  obtain ⟨g, b, e⟩ := s.sendSeq_eq o die p
  rw [e]

theorem State.openGroup_windows (s : State) (d : Nat) (lane : Option (Nat × Nat)) : (s.openGroup d lane).1.fab.windows = s.fab.windows := by
  unfold State.openGroup
  dsimp only
  obtain ⟨g, e⟩ := s.putSend_eq { s.sendFlow d with group := s.nextGroup d }
  rw [e]

theorem State.sendCounted_windows (s : State) (x : Inst) : (s.sendCounted x).fab.windows = s.fab.windows := by
  have signal : ∀ (u : State) (n : Nat), (u.sendSignal x x.sigDev x.sigUnit x.sigIndex x.sigInc (some n)).fab.windows = u.fab.windows := fun u n =>
    State.sendSeq_windows (u.modGroup x.sigDev n fun g => { g with lane := none }) _ _ _
  unfold State.sendCounted
  split
  · rfl
  · cases x.cgroup with
    | some g => exact signal s g.2
    | none => exact (signal _ _).trans (s.openGroup_windows x.sigDev none)

theorem State.endInst_windows (s : State) (x : Inst) (st d : Nat) (k : Counters) : (s.endInst x st d k).fab.windows = s.fab.windows := by
  unfold State.endInst
  dsimp only
  generalize (s.inst? x.id).getD x = y
  split
  · rfl
  · split
    · exact (s.finish y st d k).sendCounted_windows y
    · split
      · split
        · exact (s.finish y st d k).sendSeq_windows _ _ _
        · rfl
      · rfl

theorem State.endEngine_windows (s : State) (x : Inst) (st d : Nat) (k : Counters) (lg : Nat) :
    (s.endEngine x st d k lg).fab.windows = s.fab.windows := by
  unfold State.endEngine
  obtain ⟨r, c, g, e⟩ := s.noteCounts_eq x.ctx lg k
  rw [e]
  exact State.endInst_windows _ x st d k

/-! ## OPEN (R526, R527) -/

/-- No query for the window's key and step is held any more, and the queries were answered by packets only. -/
theorem State.answerQueries_frame (s : State) (w : Window) : (s.answerQueries w).heldFor w.job w.wid w.step = [] ∧
    ∃ g b q, s.answerQueries w = { s with fab := { s.fab with send := g, outbox := b, queries := q } } := by
  obtain ⟨-, g, b, e⟩ := State.foldl_sendSeq
    { s with fab := { s.fab with queries := s.fab.queries.filter fun q => !(s.heldFor w.job w.wid w.step).contains q.2 } } none 0
    (fun p : Packet => exprPkt p.src w.job w.wid (w.step % 65536) (some w) 0) (s.heldFor w.job w.wid w.step)
  have e : s.answerQueries w = _ := e
  refine ⟨?_, g, b, _, e⟩
  rw [e]
  refine List.filter_eq_nil_iff.2 fun p hp key => ?_
  obtain ⟨q, hq, rfl⟩ := List.mem_map.1 hp
  obtain ⟨listed, kept⟩ := List.mem_filter.1 hq
  have held : q.2 ∈ s.heldFor w.job w.wid w.step := List.mem_filter.2 ⟨List.mem_map.2 ⟨q, listed, rfl⟩, key⟩
  simp [held] at kept

/-- The window that an OPEN makes. -/
def State.openedWin (s : State) (x : Inst) : Window := s.newWindow x ((toWords (s.rdx x (x.blk64 3) 64)).map BitVec.toNat)

/-- The state in which an OPEN answers the queries held for its window. -/
def State.openState (s : State) (x : Inst) : State :=
  let s' := (s.putWin (s.openedWin x)).modInst x.id fun y => { y with blocked := true }
  if (s.openedWin x).sampled then s'.sendSeq none 0 (s.openedWin x).shadowPkt else s'

theorem State.openState_frame (s : State) (x : Inst) : ∃ i g b, s.openState x =
    { s.putWin (s.openedWin x) with insts := i, fab := { (s.putWin (s.openedWin x)).fab with send := g, outbox := b } } := by
  unfold State.openState
  dsimp only
  split
  · obtain ⟨g, b, e⟩ := ((s.putWin (s.openedWin x)).modInst x.id fun y => { y with blocked := true }).sendSeq_eq none 0 (s.openedWin x).shadowPkt
    exact ⟨_, g, b, e⟩
  · exact ⟨_, s.fab.send, s.fab.outbox, rfl⟩

theorem State.openWin_eq (h : s.Begun x 64) (ho : x.opcode = 9) (hb : x.redBlockBad = none) (hop : x.rOp = 0)
    (unowned : (s.fab.windows.any fun w => w.owner == some x.id) = false)
    (granted : ∀ r ∈ [(x.blk64 0, 1, 2 * x.rLen), (x.blk64 3, 0, 64), (x.blk64 3, 1, 64), (x.blk64 6, 1, 64)],
      s.isOwn r.1 = true ∧ s.mayAcc x r.2.1 r.1 r.2.2 = true)
    (new : s.win? x.job x.rWid false = none) (up : s.hostUp = true) (clean : s.poisonx x (x.blk64 3) 64 = false)
    (room : s.winRoom (s.openedWin x).reserve = true)
    (answers : s.queriesOk (s.heldFor (s.openedWin x).job (s.openedWin x).wid (s.openedWin x).step) = true)
    (shadow : s.shadowRoom (s.openedWin x) (s.heldFor (s.openedWin x).job (s.openedWin x).wid (s.openedWin x).step) = true) :
    s.openWin x.id = (s.openState x).answerQueries (s.openedWin x) := by
  have allowed : [(x.blk64 0, 1, 2 * x.rLen), (x.blk64 3, 0, 64), (x.blk64 3, 1, 64), (x.blk64 6, 1, 64)].find?
      (fun r => !s.isOwn r.1 || !s.mayAcc x r.2.1 r.1 r.2.2) = none := List.find?_eq_none.2 fun r hr => by simp [granted r hr]
  unfold State.openWin
  rw [h.reduceOf_eq ho hb hop]
  dsimp only
  rw [if_neg (by simp [unowned]), allowed]
  dsimp only
  rw [if_neg (by simp [new]), if_neg (by simp [up]), if_neg (by simp [clean])]
  refine (if_neg ?_).trans rfl
  change ¬(!s.winRoom (s.openedWin x).reserve || !s.queriesOk (s.heldFor (s.openedWin x).job (s.openedWin x).wid (s.openedWin x).step) ||
    !s.shadowRoom (s.openedWin x) (s.heldFor (s.openedWin x).job (s.openedWin x).wid (s.openedWin x).step)) = true
  rw [room, answers, shadow]
  decide

/-- What an OPEN leaves: its window is open and empty, and no query for it is held. -/
theorem State.openState_answered (s : State) (x : Inst) :
    ((s.openState x).answerQueries (s.openedWin x)).win? x.job x.rWid false = some (s.openedWin x) ∧ (s.openedWin x).isOpen = true ∧
      (s.openedWin x).staging = [] ∧ ((s.openState x).answerQueries (s.openedWin x)).heldFor x.job x.rWid x.rStep = [] ∧
      ((s.openState x).answerQueries (s.openedWin x)).regs = s.regs ∧ s.StoresKept ((s.openState x).answerQueries (s.openedWin x)) := by
  obtain ⟨none_held, g, b, q, answered⟩ := (s.openState x).answerQueries_frame (s.openedWin x)
  obtain ⟨i, g', b', opened⟩ := s.openState_frame x
  have put := State.win?_putWin (s := s) (w := s.openedWin x) (job := x.job) (wid := x.rWid) (shadow := false) rfl rfl rfl
  refine ⟨?_, rfl, rfl, none_held, ?_, ?_⟩ <;> rw [answered, opened]
  · exact put
  · rfl
  · exact State.storesKept_of_eq rfl rfl rfl

/-! ## WINDOW_COMPLETE (R532 to R534, R552) -/

/-- The output of a complete window as work of its OPEN. -/
def State.winWork (s : State) (x : Inst) (w : Window) : Work := ⟨[], [s.winOutput x w], Chunk.empty, w.lg, 0, 0⟩

/-- An open window of this device that has counted everything, with its OPEN waiting. -/
structure State.Complete (s : State) (x : Inst) (job wid : Nat) (w : Window) : Prop where
  found : s.win? job wid false = some w
  isOpen : w.isOpen = true
  complete : w.complete = true
  good : w.bad = 0
  owner : w.owner = some x.id
  here : s.inst? x.id = some x
  started : x.phase = .started

/-- A complete window runs its work where its digests agree, and fails where they do not. -/
theorem State.Complete.windowComplete_eq (h : s.Complete x job wid w) : s.windowComplete job wid false =
    if w.dsum (s.seed x) ≠ w.digestSum then s.winFail x (w.poisonWith 1) (w.dsum (s.seed x))
    else if w.sampled ∧ !w.compared then s
    else if w.sampled ∧ !w.sameStaging then
      (s.logEv 0x0402 w.job [w.wid, w.home, w.shadowDev]).winFail x (w.poisonWith 2) (w.dsum (s.seed x))
    else match (s.runWork x (s.winWork x w)).inst? x.id with
      | some y => if y.phase = .done then (s.runWork x (s.winWork x w)).closeWin w else s.runWork x (s.winWork x w)
      | none => s.runWork x (s.winWork x w) := by
  have owner : w.owner.bind s.inst? = some x := by rw [h.owner]; exact h.here
  unfold State.windowComplete
  rw [h.found]
  dsimp only
  rw [if_neg (by simp [h.isOpen, h.complete]), if_neg (by decide), owner]
  dsimp only
  rw [if_neg (not_not_intro h.started), if_neg (not_not_intro h.good)]
  rfl

/-- A window's entry once it has closed. -/
def Window.closed (w : Window) : Window := { w with isOpen := false, owner := none, staging := [], touched := [], sumcmp := [] }

theorem State.win?_closeWin (s : State) (w : Window) : (s.closeWin w).win? w.job w.wid w.shadow = some w.closed :=
  State.win?_putWin rfl rfl rfl

theorem State.Complete.writes (h : s.Complete x job wid w) (hm : s.memOk = true) (agree : w.dsum (s.seed x) = w.digestSum)
    (plain : w.sampled = false) (work : s.WorkPlain x (s.winWork x w)) :
    s.Wrote (s.windowComplete job wid false) x (s.winWork x w) ∧
      ∃ v, (s.windowComplete job wid false).win? job wid false = some v ∧ v.isOpen = false ∧ v.step = w.step ∧ v.staging = [] := by
  obtain ⟨⟨ended, mem⟩, -⟩ := work.wrote hm h.here
  have run : s.windowComplete job wid false = (s.runWork x (s.winWork x w)).closeWin w := by
    obtain ⟨y, hy, done, -⟩ := ended
    rw [h.windowComplete_eq, if_neg (not_not_intro agree), if_neg (by simp [plain]), if_neg (by simp [plain]), hy]
    exact if_pos done
  obtain ⟨rfl, rfl, shadow⟩ := State.win?_key h.found
  have closed := (s.runWork x (s.winWork x w)).win?_closeWin w
  rw [shadow] at closed
  rw [run]
  exact ⟨⟨ended, mem⟩, _, closed, rfl, rfl, rfl⟩

/-- A record written to this device's memory changes no descriptor. -/
theorem State.inst?_putRecord {a : Nat} (low : 0x4000000 ≤ a) (high : a < 2 ^ 48) (bs : List Byte) (i : Nat) :
    (s.putOut x ⟨s.devId * 2 ^ 48 + a, bs, 0⟩).inst? i = s.inst? i := by
  have dev : devOf (s.devId * 2 ^ 48 + a) = s.devId := by unfold devOf; omega
  have loc : locOf (s.devId * 2 ^ 48 + a) = a := by unfold locOf; omega
  have own : s.isOwn (s.devId * 2 ^ 48 + a) = true := by rw [State.isOwn, dev]; exact beq_self_eq_true _
  refine State.inst?_congr ?_ i
  unfold State.putOut
  dsimp only
  rw [own, if_neg (by decide), loc, if_neg (by omega), State.wr_insts]

/-- A window that closes as its OPEN's execution ends, whatever was stored before. -/
theorem State.closeWin_ends (hx : s.inst? x.id = some x) (w : Window) (st d : Nat) (k : Counters) (lg : Nat) :
    ((s.closeWin w).endEngine x st d k lg).Ended x.id st d ∧
      ((s.closeWin w).endEngine x st d k lg).win? w.job w.wid w.shadow = some w.closed := by
  have there : (s.closeWin w).inst? x.id = some x := (State.inst?_congr rfl _).trans hx
  exact ⟨State.ended_endEngine there st d k lg, (State.win?_congr (State.endEngine_windows ..)).trans (s.win?_closeWin w)⟩

/-- A window that fails writes its record and closes, and its OPEN ends with E_AGREE. -/
theorem State.winFail_ends (hx : s.inst? x.id = some x) (low : 0x4000000 ≤ w.record) (high : w.record < 2 ^ 48) (d : Nat) :
    (s.winFail x w d).Ended x.id 5 w.bad ∧ (s.winFail x w d).win? w.job w.wid w.shadow = some w.closed := by
  have there := (State.inst?_putRecord (s := s) (x := x) low high (w.recordBytes 5 d 0) x.id).trans hx
  exact State.closeWin_ends there w 5 w.bad {} w.lg

theorem State.Complete.fails (h : s.Complete x job wid w) (low : 0x4000000 ≤ w.record) (high : w.record < 2 ^ 48)
    (disagree : w.dsum (s.seed x) ≠ w.digestSum) :
    (s.windowComplete job wid false).Ended x.id 5 1 ∧
      ∃ v, (s.windowComplete job wid false).win? job wid false = some v ∧ v.isOpen = false := by
  have poisoned : w.poisonWith 1 = { w with bad := 1 } := if_pos h.good
  obtain ⟨hj, hw, hs⟩ := State.win?_key h.found
  obtain ⟨ended, closed⟩ := State.winFail_ends (w := { w with bad := 1 }) h.here low high (w.dsum (s.seed x))
  rw [h.windowComplete_eq, if_pos disagree, poisoned]
  refine ⟨ended, Window.closed { w with bad := 1 }, ?_, rfl⟩
  rw [← hj, ← hw, ← hs]
  exact closed

/-- Settles O48: each operation runs to its end under its clause's hypotheses; a complete window runs its output as work, or fails. -/
theorem reduceOperations : Obligations.ReduceOperations := by
  unfold Obligations.ReduceOperations
  intro s x hm h
  refine ⟨fun ho hb => ⟨?open_, ?send, ?verify, ?parity, fun job wid w hj hw found isOpen complete good owner low high => ?window⟩,
    fun ho hb here plain => ?topk⟩
  case open_ =>
    intro hop unowned granted new up clean w' room answers shadow
    refine ⟨_, act_of_wf (c := .openWin x.id) rfl _, ?_⟩
    rw [State.openWin_eq h ho hb hop unowned granted new up clean room answers shadow]
    exact s.openState_answered x
  case send =>
    intro es hop homes granted up here passes elems first off pk all
    exact ⟨_, act_of_wf (c := .send x.id) rfl _, send_sends h ho hb hop homes granted up here passes elems first off all⟩
  case verify =>
    intro hop record copy up here passes
    exact ⟨_, act_of_wf (c := .verify x.id) rfl _, verify_answers h ho hb hop record copy up here passes⟩
  case parity =>
    intro hop granted up here passes first off all
    exact ⟨_, act_of_wf (c := .parity x.id) rfl _, parity_sends h ho hb hop granted up here passes first off all⟩
  case window =>
    have whole : s.Complete x job wid w := ⟨found, isOpen, complete, good, owner, h.here, h.started⟩
    have run := act_of_wf (c := .windowComplete job wid false) (by exact decide_eq_true ⟨hj, hw⟩) (s.windowComplete job wid false)
    refine ⟨fun agree plain work => ?_, fun disagree => ?_⟩
    · obtain ⟨wrote, v, closed⟩ := whole.writes hm agree plain work
      exact ⟨_, v, run, wrote, closed⟩
    · obtain ⟨ended, v, closed⟩ := whole.fails low high disagree
      exact ⟨_, v, run, ended, closed⟩
  case topk => exact exec_writes hm h.here (act_of_wf (c := .topk x.id) rfl _) (State.topk_eq h ho hb here) plain

end Sys2Proof.Machine
end
